-- ==== Sys2Proof/Word.lean ====
section
/-! DEFINITION. The word types of the device and their plainest arithmetic: bytes, 64-byte
descriptors, little-endian byte order (00 "Notation") and counters that saturate. -/

namespace Sys2Proof

/-- One byte of memory. -/
abbrev Byte := BitVec 8

/-- A 64-bit register or fusion-time value. -/
abbrev Word64 := BitVec 64

/-- A 64-byte command (10 R284): bit 0 is the least significant bit of its first byte. -/
abbrev Desc := BitVec 512

/-- Ceiling division. -/
def cdiv (a b : Nat) : Nat := (a + b - 1) / b

/-- A number cut to `w` bits. -/
def cut (w n : Nat) : Nat := n % 2 ^ w

/-- `n` held in `w` bits, saturating at the largest value. -/
def satN (w n : Nat) : Nat := min n (2 ^ w - 1)

/-- The low `n` bytes of `v`, least significant first. -/
def leBytes : Nat → Nat → List Byte
  | 0, _ => []
  | n + 1, v => BitVec.ofNat 8 v :: leBytes n (v / 256)

/-- The number that a list of bytes holds, least significant byte first. -/
def ofLE : List Byte → Nat
  | [] => 0
  | b :: bs => b.toNat + 256 * ofLE bs

/-- The number that a list of bytes holds, most significant byte first. -/
def ofBE (bs : List Byte) : Nat := ofLE bs.reverse

/-- The low `n` bytes of `v`, most significant first. -/
def beBytes (n v : Nat) : List Byte := (leBytes n v).reverse

/-- Bits `[lo + w - 1 : lo]` of `v`. -/
def bitsN (v lo w : Nat) : Nat := v / 2 ^ lo % 2 ^ w

/-- Bit `i` of `v`. -/
def bitN (v i : Nat) : Bool := v.testBit i

/-- `v` with bit `i` set to `b`. -/
def setBitN (v i : Nat) (b : Bool) : Nat :=
  if v.testBit i then (if b then v else v - 2 ^ i) else (if b then v + 2 ^ i else v)

/-- A `w`-bit number read as two's complement. -/
def sgn (w n : Nat) : Int :=
  if n % 2 ^ w < 2 ^ (w - 1) then (n % 2 ^ w : Nat) else ((n % 2 ^ w : Nat) : Int) - 2 ^ w

/-- An integer cut to `w` bits of two's complement. -/
def ofInt (w : Nat) (i : Int) : Nat := (i % (2 ^ w : Nat)).toNat

/-- 1 for true, 0 for false. -/
def b2n (b : Bool) : Nat := if b then 1 else 0

end Sys2Proof
end

