-- ==== Sys2Proof/Syntax.lean ====
section
/-! DEFINITION. The commands and events of the device: one constructor of `Instr` for each row of
spec/opcode_table.json, in the table's order, with the operands its rule names. -/

namespace Sys2Proof

/-- A command in the pipeline: its queue and its index in the queue (10 R287). -/
structure Ref where
  q : Nat
  i : Nat
  deriving DecidableEq, Repr

/-- A check that finds an error while a command runs (01 R17): physical events that the environment chooses.
`cell parity x y` is a residue (`parity = false`, MECH 1) or operand-latch (MECH 2) failure in cell (x, y); `mem bad a`
a word or unit at device byte `a` that a read finds corrected, or uncorrected (`bad`), if the command reads it (12
R345, R347, R362); `acc bad` an accumulator word that a drain reads so (MECH 3, 4); `path lanes` a check of an
engine on its own data path or control state (MECH 10, 12), of an SG half in a lane group. -/
inductive Upset where
  | none
  | cell (parity : Bool) (x y : Nat)
  | mem (bad : Bool) (addr : Nat)
  | acc (bad : Bool)
  | path (lanes : Nat)
  deriving DecidableEq, Repr

/-- The link by which an object-dictionary access arrives (18 R508, R516): the mailbox of a PF
(device function 0 or 9, 16 R455), CAN or the Cloux monitor. -/
inductive Path where
  | mailbox (fn : Nat)
  | can
  | monitor
  deriving DecidableEq, Repr

/-- A dictionary write: its path, the value written (little-endian) and the number of data bytes. -/
structure OdW where
  path : Path
  val : Nat
  size : Nat
  deriving DecidableEq, Repr

/-- Who asks for a spill or fill (11 R331): a queued command, or the device itself for a client's
windows on an isle. -/
inductive SpillReq where
  | queued (r : Ref)
  | device (client isle mask : Nat) (evict : Bool)
  deriving DecidableEq, Repr

/-- What a scrub or patrol read finds (12 R345, R347, R363). -/
inductive Found where
  | clean
  | corrected
  | uncorrected
  deriving DecidableEq, Repr

/-- Header check of a CSI-2 packet (08 R238). -/
inductive HdrErr where
  | ok
  | corrected
  | bad
  deriving DecidableEq, Repr

/-- An IEEE 802.1AS Sync or Follow_Up as the tracker's MAC delivers it (09 R268): `origin` is the
origin time plus correctionField and rate-ratio correction, in 2^-16 ns of the domain; `rx` the
receive stamp before PHY latency. -/
structure Gptp where
  mac : Nat
  domain : Nat
  gm : Word64
  twoStep : Bool
  origin : Nat
  rx : Word64
  deriving DecidableEq, Repr

/-- What parsing an access unit finds (08 R244-R247); the bitstream standards lie outside the spec. `rasl`:
a RASL picture of the IRAP picture at which decoding began; `error`: BITSTREAM of 08 R245; sizes of the
active parameter set, with the DPB that its level and size need; `order` the picture's place in the
standard's output order within the arming; `shown` whether it is output. -/
structure AuParse where
  randomAccess : Bool
  rasl : Bool
  error : Bool
  width : Nat
  height : Nat
  cropW : Nat
  cropH : Nat
  depth : Nat
  levelOk : Bool
  dpbUnits : Nat
  order : Nat
  shown : Bool
  deriving DecidableEq, Repr

/-- A heartbeat as it arrives (16 R472). -/
structure Heartbeat where
  crcOk : Bool
  src : Nat
  role : Nat
  safety : Nat
  timeState : Nat
  faultOpen : Bool
  yield : Bool
  serial : Nat
  sent : Word64
  fenced : Nat
  deriving DecidableEq, Repr

/-- A message flit (16 R469), with the sending channel that the receive header reports. -/
structure Flit where
  dest : Nat
  src : Nat
  hops : Nat
  rxCh : Nat
  txCh : Nat
  first : Bool
  last : Bool
  msgSeq : Nat
  payload : List Byte
  deriving DecidableEq, Repr

/-- One member as link-state flits describe it (16 R475). -/
structure Member where
  id : Nat
  strap : Bool
  eligible : Bool
  inService : Bool
  deriving DecidableEq, Repr

/-- A checker group of 14 R419. -/
inductive Checker where
  | cells (block : Nat)
  | sigBlock (block : Nat)
  | sigHalf (half : Nat)
  | scratch (block : Nat)
  | lagoon (isle : Nat)
  | dram (half chan : Nat)
  | comparator
  | outputVoter
  | reflexVoter
  | clusterSram (core : Nat)
  deriving DecidableEq, Repr

/-- What a core's output is (14 R395). -/
inductive CoreVal where
  | crossing (w : Word64)
  | fifo (f : Nat) (w : Word64) (fin : Bool)
  | grant (pair : Nat)
  | safeRequest
  | checkpoint (digest : Word64)
  deriving DecidableEq, Repr

/-- An input of the safety cluster (14 R394): a word over a crossing, or the next word of a message FIFO. -/
inductive CoreIn where
  | crossing (w : Word64)
  | fifo (f : Nat)
  deriving DecidableEq, Repr

/-- What host software does to a function's MSI-X capability or table (10 R314, 16 R454, R456), along with a
configuration request: nothing; its Enable and Function Mask bits; an entry with its mask bit. -/
inductive MsixWrite where
  | none
  | control (enable mask : Bool)
  | entry (vector addr data : Nat) (masked : Bool)
  deriving DecidableEq, Repr

/-- A collector below the chip (15 R432). -/
inductive Collector where
  | block (b : Nat)
  | isle (i : Nat)
  deriving DecidableEq, Repr

/-- How the three reflex lanes compare (14 R424): all agree, one lane `n` differs, all differ. -/
inductive Lanes where
  | agree
  | outvoted (lane : Nat)
  | differ
  deriving DecidableEq, Repr

/-- The commands and events, in the order of spec/opcode_table.json. -/
inductive Instr where
  /-- MX_OUTER (R111). -/
  | mxOuter (r : Ref) (u : Upset)
  /-- MX_DRAIN (R114). -/
  | mxDrain (r : Ref) (u : Upset)
  /-- MX_CONV (R157). -/
  | mxConv (r : Ref) (u : Upset)
  /-- MX_POOL (R165). -/
  | mxPool (r : Ref) (u : Upset)
  /-- AT_SCORE (R189). -/
  | atScore (r : Ref) (u : Upset)
  /-- AT_APPEND (R200): the reserve phase. -/
  | atAppend (r : Ref) (u : Upset)
  /-- AT_WALK (R183). -/
  | atWalk (r : Ref) (u : Upset)
  /-- AT_SEQ_OPEN (R177). -/
  | atSeqOpen (r : Ref) (u : Upset)
  /-- AT_SEQ_CLOSE (R177). -/
  | atSeqClose (r : Ref) (u : Upset)
  /-- AT_SEQ_PARK (R177). -/
  | atSeqPark (r : Ref) (u : Upset)
  /-- AT_SEQ_RESUME (R177). -/
  | atSeqResume (r : Ref) (u : Upset)
  /-- AT_SEQ_REARM (R177). -/
  | atSeqRearm (r : Ref) (u : Upset)
  /-- AT_SEQ_DROP_OLDEST (R177). -/
  | atSeqDropOldest (r : Ref) (u : Upset)
  /-- AT_SEQ_SET_SCALE (R177). -/
  | atSeqSetScale (r : Ref) (u : Upset)
  /-- AT_GRAD (R207). -/
  | atGrad (r : Ref) (u : Upset)
  /-- SG_GATHER (R215). -/
  | sgGather (r : Ref) (u : Upset)
  /-- SG_SCATTER (R226). -/
  | sgScatter (r : Ref) (u : Upset)
  /-- SG_SEGRED (R221). -/
  | sgSegred (r : Ref) (u : Upset)
  /-- SG_SORT (R222). -/
  | sgSort (r : Ref) (u : Upset)
  /-- SG_TOPK (R222). -/
  | sgTopk (r : Ref) (u : Upset)
  /-- SG_NMS (R223). -/
  | sgNms (r : Ref) (u : Upset)
  /-- SG_ASSIGN (R224). -/
  | sgAssign (r : Ref) (u : Upset)
  /-- SG_MSGPASS (R216). -/
  | sgMsgpass (r : Ref) (u : Upset)
  /-- IMG_PROC_ARM (R232). -/
  | imgProcArm (r : Ref) (u : Upset)
  /-- IMG_PROC_STOP (R232). -/
  | imgProcStop (r : Ref)
  /-- VD_DECODE_ARM (R232). -/
  | vdDecodeArm (r : Ref) (u : Upset)
  /-- VD_DECODE_STOP (R232). -/
  | vdDecodeStop (r : Ref)
  /-- PTS_VOXEL_ARM (R232). -/
  | ptsVoxelArm (r : Ref) (u : Upset)
  /-- PTS_VOXEL_STOP (R232). -/
  | ptsVoxelStop (r : Ref)
  /-- DM_COPY (R370). -/
  | dmCopy (r : Ref) (u : Upset)
  /-- PLANAR_TO_CI (R167). -/
  | planarToCi (r : Ref) (u : Upset)
  /-- CI_TO_PLANAR (R167). -/
  | ciToPlanar (r : Ref) (u : Upset)
  /-- ZBT_TO_PLANAR (R167). -/
  | zbtToPlanar (r : Ref) (u : Upset)
  /-- PLANAR_TO_ZBT (R167). -/
  | planarToZbt (r : Ref) (u : Upset)
  /-- ZBT_REBASE (R167). -/
  | zbtRebase (r : Ref) (u : Upset)
  /-- PHASE_INTERLEAVE (R167). -/
  | phaseInterleave (r : Ref) (u : Upset)
  /-- DM_SPILL (R331). -/
  | dmSpill (req : SpillReq) (u : Upset)
  /-- DM_FILL (R332). -/
  | dmFill (req : SpillReq) (u : Upset)
  /-- DM_REPLAY (R255). -/
  | dmReplay (r : Ref) (u : Upset)
  /-- CRY_HASH (R493). -/
  | cryHash (r : Ref) (u : Upset)
  /-- CRY_VERIFY (R493). -/
  | cryVerify (r : Ref) (u : Upset)
  /-- CRY_ATTEST (R494). -/
  | cryAttest (r : Ref) (u : Upset)
  /-- QC_NOP (R298). -/
  | qcNop (r : Ref)
  /-- QC_WAIT (R298). -/
  | qcWait (r : Ref)
  /-- QC_SIGNAL (R298). -/
  | qcSignal (r : Ref)
  /-- QC_FIFO_PUT (R298). -/
  | qcFifoPut (r : Ref)
  /-- QC_TIMESTAMP (R298). -/
  | qcTimestamp (r : Ref)
  /-- DOORBELL_TAIL (R289): function, doorbell slot in its region, new TAIL. -/
  | doorbellTail (fn slot tail : Nat)
  /-- DOORBELL_ENABLE (R289). -/
  | doorbellEnable (fn slot tail : Nat)
  /-- DOORBELL_DISABLE (R289): `op0` is the low bit of OP: set, the write carries the reserved OP 3 (R290). -/
  | doorbellDisable (fn slot tail : Nat) (op0 : Bool)
  /-- COMMAND_FETCH (R288). -/
  | commandFetch (q : Nat)
  /-- COMMAND_DISPATCH (R286). -/
  | commandDispatch (q : Nat)
  /-- COMMAND_DONE (R297). -/
  | commandDone (r : Ref)
  /-- COMMAND_RETIRE (R302). -/
  | commandRetire (q : Nat)
  /-- SYNC_SET (R295): function, sync slot in its region, value. -/
  | syncSet (fn slot : Nat) (v : Word64)
  /-- SYNC_ADD (R295). -/
  | syncAdd (fn slot : Nat) (v : Word64)
  /-- FIFO_WRITE (R305): function, FIFO slot in its region, payload. -/
  | fifoWrite (fn slot : Nat) (v : Word64)
  /-- FIFO_WRITE_END (R305). -/
  | fifoWriteEnd (fn slot : Nat) (v : Word64)
  /-- FIFO_READ (R306). -/
  | fifoRead (fn slot : Nat)
  /-- FIFO_FLUSH (R308). -/
  | fifoFlush (fn slot : Nat)
  /-- FIFO_CLEAR_OVERRUN (R305). -/
  | fifoClearOverrun (fn slot : Nat)
  /-- OD_READ (R508): path, index, subindex, mailbox block selector (18 R513). -/
  | odRead (p : Path) (idx sub blk : Nat)
  /-- OD_WRITE (R511). -/
  | odWrite (idx sub : Nat) (w : OdW)
  /-- FUSION_TIME_NOW_READ (R264). -/
  | fusionTimeNowRead (p : Path)
  /-- ARITH_EVENT_FLAGS_WRITE (R83). -/
  | arithEventFlagsWrite (w : OdW)
  /-- SG_EVENT_FLAGS_WRITE (R230). -/
  | sgEventFlagsWrite (w : OdW)
  /-- MSG_RING_DEPTH_WRITE (R317): function whose ring is configured. -/
  | msgRingDepthWrite (n : Nat) (w : OdW)
  /-- MSG_HEAD_WRITE (R317). -/
  | msgHeadWrite (n : Nat) (w : OdW)
  /-- JOURNAL_READ_INDEX_WRITE (R257). -/
  | journalReadIndexWrite (w : OdW)
  /-- TIME_STEP_PERMIT_WRITE (R272). -/
  | timeStepPermitWrite (w : OdW)
  /-- KEY_RECOMPUTE (R376). -/
  | keyRecompute
  /-- TASK_ENABLE_WRITE (R333): task. -/
  | taskEnableWrite (n : Nat) (w : OdW)
  /-- TASK_TIER_WRITE (R334). -/
  | taskTierWrite (n : Nat) (w : OdW)
  /-- PD_ENABLE_ON (R502): path, domain. -/
  | pdEnableOn (p : Path) (d : Nat)
  /-- PD_ENABLE_OFF (R504). -/
  | pdEnableOff (p : Path) (d : Nat)
  /-- SHUT_DOWN_BEGIN (R503). -/
  | shutDownBegin (d : Nat)
  /-- SHUT_DOWN_COMPLETE (R503). -/
  | shutDownComplete (d : Nat)
  /-- POWER_UP_COMPLETE (R503). -/
  | powerUpComplete (d : Nat)
  /-- FAULT_CLEAR (R440). -/
  | faultClear (w : OdW)
  /-- FENCE_REQUEST (R440). -/
  | fenceRequest (w : OdW)
  /-- SAFE_STATE_REQUEST (R431). -/
  | safeStateRequest (w : OdW)
  /-- FLEET_GO (R449). -/
  | fleetGo (w : OdW)
  /-- FLEET_EXPORT_DONE (R449). -/
  | fleetExportDone
  /-- FW_LOAD (R485). -/
  | fwLoad (w : OdW)
  /-- IMAGE_FETCH_DONE (R487): whether the fetch completed without a PCIe error. -/
  | imageFetchDone (ok : Bool)
  /-- IMAGE_VERIFY_DONE (R487). -/
  | imageVerifyDone
  /-- SETUP_STATE_REACHED (R483): cores that pass the cold-start tests, bit per core. -/
  | setupStateReached (cores : Nat)
  /-- EXIT_SETUP (R495). -/
  | exitSetup (w : OdW)
  /-- ENTER_SETUP (R496). -/
  | enterSetup (w : OdW)
  /-- SAFETY_SEAL_WRITE (R498). -/
  | safetySealWrite (w : OdW)
  /-- ROLLBACK_LEVEL_WRITE (R489): `ok` whether the fuse read-back succeeds (17 R491). -/
  | rollbackLevelWrite (w : OdW) (ok : Bool)
  /-- KEY_REVOKED_WRITE (R490). -/
  | keyRevokedWrite (w : OdW) (ok : Bool)
  /-- SPLIT_MODE_WRITE (R400). -/
  | splitModeWrite (w : OdW) (ok : Bool)
  /-- INJECT_ARM (R448). -/
  | injectArm (w : OdW)
  /-- TWIN_TAKEOVER (R473). -/
  | twinTakeover (w : OdW)
  /-- TWIN_RELEASE (R473). -/
  | twinRelease (w : OdW)
  /-- BARRIER_ARM (R389). -/
  | barrierArm (w : OdW)
  /-- BARRIER_GO (R389). -/
  | barrierGo (w : OdW)
  /-- BARRIER_ARM_RECEIVED (R389): the member that armed. -/
  | barrierArmReceived (id : Nat)
  /-- BARRIER_TIMEOUT (R389). -/
  | barrierTimeout
  /-- BARRIER_GO_RECEIVED (R389): the causeway port on which GO arrived. -/
  | barrierGoReceived (port : Nat)
  /-- BARRIER_RELEASE (R389). -/
  | barrierRelease
  /-- BARRIER_CALIBRATE (R388). -/
  | barrierCalibrate (w : OdW)
  /-- BARRIER_CALIBRATION_DONE (R388): port and round trip in MCLK cycles. -/
  | barrierCalibrationDone (port roundTrip : Nat)
  /-- USDO_SEGMENT_TIMEOUT (R510). -/
  | usdoSegmentTimeout
  /-- NMT_RESET_NODE (R476): addressed node, 0 for all. -/
  | nmtResetNode (node : Nat)
  /-- NMT_STOP (R476). -/
  | nmtStop (node : Nat)
  /-- CAN_HEARTBEAT (R518). -/
  | canHeartbeat
  /-- CLOUX_VER (R477). -/
  | clouxVer
  /-- CLOUX_STATE (R477). -/
  | clouxState
  /-- CLOUX_KEYS (R477). -/
  | clouxKeys
  /-- CLOUX_LINKS (R477). -/
  | clouxLinks
  /-- CLOUX_LOG (R477). -/
  | clouxLog (n : Nat)
  /-- CLOUX_MEM_R (R477). -/
  | clouxMemR (addr n : Nat)
  /-- CLOUX_SYNTAX_ERROR (R477). -/
  | clouxSyntaxError
  /-- BYPASS (R478). -/
  | bypass
  /-- IDCODE (R478). -/
  | idcode
  /-- SAMPLE_PRELOAD (R478). -/
  | samplePreload
  /-- EXTEST (R478). -/
  | extest
  /-- EXTEST_PULSE (R478). -/
  | extestPulse
  /-- EXTEST_TRAIN (R478). -/
  | extestTrain
  /-- CLAMP (R478). -/
  | clamp
  /-- HIGHZ (R478). -/
  | highz
  /-- DEBUG_HALT (R398): the retired-instruction counts of cores A, B and C. -/
  | debugHalt (countA countB countC : Nat)
  /-- DEBUG_RESUME (R399). -/
  | debugResume
  /-- DEBUG_SINGLE_STEP (R398). -/
  | debugSingleStep
  /-- DEBUG_REGISTER_WRITE (R398). -/
  | debugRegisterWrite (reg : Nat) (v : Word64)
  /-- DEBUG_MEMORY_WRITE (R398). -/
  | debugMemoryWrite (addr : Nat) (v : Byte)
  /-- DEBUG_BREAKPOINT_SET (R398). -/
  | debugBreakpointSet (addr : Nat)
  /-- DEBUG_BREAKPOINT_CLEAR (R398). -/
  | debugBreakpointClear (addr : Nat)
  /-- BREAKPOINT_HIT (R398): breakpoint address and count. -/
  | breakpointHit (addr count : Nat)
  /-- CONFIGURATION_REQUEST (R457): PCIe device function, and what it does to its MSI-X state. -/
  | configurationRequest (fn : Nat) (x : MsixWrite)
  /-- FUNCTION_LEVEL_RESET (R458). -/
  | functionLevelReset (fn : Nat)
  /-- DL_DOWN (R458). -/
  | dlDown (link : Nat)
  /-- PERST1_N_ASSERT (R531). -/
  | perst1NAssert
  /-- BAR2_WRITE (R460): function, byte offset, bytes. -/
  | bar2Write (fn off : Nat) (bytes : List Byte)
  /-- BAR_MISS (R456): function, whether the BAR is BAR2, offset, whether it is a write. -/
  | barMiss (fn : Nat) (bar2 : Bool) (off : Nat) (write : Bool)
  /-- COLD_START (R481): the straps PCIE_BIF and HARBOUR_SEL and whether the conditions of R528 hold. -/
  | coldStart (bifur harbour lawful : Bool)
  /-- COLD_RESET (R481). -/
  | coldReset
  /-- ERROR_PINS_ACTIVATE (R483). -/
  | errorPinsActivate
  /-- DRAM_TRAINING_DONE (R359): responding channels of half A and B, and the density of each channel. -/
  | dramTrainingDone (chA chB density : Nat) (uniform : Bool)
  /-- ARRAY_BOOT_SELF_TEST_DONE (R110): spare maps of the 32 blocks and the mask of unrepairable blocks. -/
  | arrayBootSelfTestDone (maps : List Nat) (unrepairable : Nat)
  /-- DRAM_FILL_RESERVE_DONE (R537). -/
  | dramFillReserveDone
  /-- DRAM_FILL_DONE (R537). -/
  | dramFillDone
  /-- CONFIGURATION_READY (R457). -/
  | configurationReady
  /-- POWER_GOOD_LOSS (R525): rail and its voltage in mV. -/
  | powerGoodLoss (rail mv : Nat)
  /-- RAIL_OUT_OF_RANGE (R524). -/
  | railOutOfRange (rail mv : Nat)
  /-- PLL_LOSS_OF_LOCK (R530). -/
  | pllLossOfLock (pll : Nat)
  /-- JUNCTION_OVER_TEMPERATURE (R532): die temperature in 0.125 degC. -/
  | junctionOverTemperature (temp : Int)
  /-- THERMAL_TRIP (R532). -/
  | thermalTrip (temp : Int)
  /-- MCLK_DERATE (R30). -/
  | mclkDerate (temp : Int)
  /-- MCLK_RESTORE (R30). -/
  | mclkRestore (temp : Int)
  /-- FRAME_BOUNDARY (R267). -/
  | frameBoundary
  /-- SYNC_MESSAGE (R271). -/
  | syncMessage (m : Gptp)
  /-- FOLLOW_UP (R268). -/
  | followUp (m : Gptp)
  /-- ANNOUNCE (R271): MAC, domain, grandmasterIdentity, stepsRemoved. -/
  | announce (mac domain : Nat) (gm : Word64) (steps : Nat)
  /-- PDELAY_REQ_SEND (R268). -/
  | pdelayReqSend (mac : Nat)
  /-- PDELAY_REQ_RECEIVED (R268). -/
  | pdelayReqReceived (mac : Nat) (rx : Word64)
  /-- PDELAY_RESP_RECEIVED (R269): the responder's turn-around in 2^-16 ns, corrected for the neighbour's rate, and the
  captured receive time; or none when the exchange fails. -/
  | pdelayRespReceived (mac : Nat) (x : Option (Nat × Word64))
  /-- SYNC_LOSS_TIMEOUT (R271): tracker. -/
  | syncLossTimeout (t : Nat)
  /-- PPS_IN_EDGE (R278): captured value before correction. -/
  | ppsInEdge (raw : Word64)
  /-- PPS_OUT_EDGE (R280). -/
  | ppsOutEdge
  /-- PPS_OUT_RETURN_LOW (R280). -/
  | ppsOutReturnLow
  /-- CSI2_FRAME_START (R238): port, virtual channel, frame number, header check, captured value. -/
  | csi2FrameStart (port vc num : Nat) (h : HdrErr) (raw : Word64)
  /-- CSI2_LONG_PACKET (R238): port, virtual channel, data type, payload, header check, CRC check. -/
  | csi2LongPacket (port vc dtype : Nat) (payload : List Byte) (h : HdrErr) (crcOk : Bool)
  /-- CSI2_FRAME_END (R238). -/
  | csi2FrameEnd (port vc num : Nat) (h : HdrErr)
  /-- IMG_SAMPLE_PRESENT (R239): stream, and whether a data-path check of the engine fails. -/
  | imgSamplePresent (stream : Nat) (upset : Bool)
  /-- ETHERNET_FRAME_RECEIVED (R463): MAC, frame without FCS, FCS check, receive stamp before latency. -/
  | ethernetFrameReceived (mac : Nat) (frame : List Byte) (fcsOk : Bool) (rx : Word64)
  /-- RTP_PACKET (R245): the oldest datagram that waits at a video stream. -/
  | rtpPacket (stream : Nat)
  /-- ACCESS_UNIT_END (R244): video stream, what parsing finds, and whether a data-path check fails. -/
  | accessUnitEnd (stream : Nat) (au : AuParse) (upset : Bool)
  /-- VD_PICTURE_OUTPUT (R246): video stream. -/
  | vdPictureOutput (stream : Nat)
  /-- IMG_DECODED_PICTURE (R246): image stream. -/
  | imgDecodedPicture (stream : Nat)
  /-- LIDAR_DATAGRAM (R248): the oldest datagram that waits at a point-cloud stream. -/
  | lidarDatagram (stream : Nat)
  /-- LIDAR_WINDOW_CLOSE (R249): stream, and whether a data-path check of the engine fails. -/
  | lidarWindowClose (stream : Nat) (upset : Bool)
  /-- LIDAR_SAMPLE_WRITTEN (R250). -/
  | lidarSampleWritten (stream : Nat)
  /-- REFLEX_COLUMN (R422): the oldest column that has not begun. -/
  | reflexColumn
  /-- REFLEX_VOTE (R424). -/
  | reflexVote (l : Lanes)
  /-- REPLAY_RECORD_DELIVERY (R386). -/
  | replayRecordDelivery
  /-- BATCH_EMITTED (R255). -/
  | batchEmitted
  /-- KERNEL_BOUNDARY (R322): scheduled unit by unit code (15 R437). -/
  | kernelBoundary (unit : Nat)
  /-- TASK_DEADLINE (R333). -/
  | taskDeadline (n : Nat)
  /-- PAGE_WALK_DONE (R198): block, sequence, page-list index. -/
  | pageWalkDone (block seq li : Nat)
  /-- AT_SCORE_RECORD_DONE (R194). -/
  | atScoreRecordDone (r : Ref)
  /-- AT_APPEND_WRITE (R200): record of the work list. -/
  | atAppendWrite (r : Ref) (u : Upset)
  /-- AT_APPEND_PUBLISH (R200). -/
  | atAppendPublish (r : Ref)
  /-- FAULT_RECORD_FORWARDED (R432); the entry is found uncorrected (R436 MECH 25) where `bad`. -/
  | faultRecordForwarded (c : Collector) (bad : Bool)
  /-- FAULT_RECORD_LOGGED (R434); the entry is found uncorrected where `bad`. -/
  | faultRecordLogged (bad : Bool)
  /-- COLLECTOR_ROOM (R433). -/
  | collectorRoom (c : Collector)
  /-- ESCALATION_TIMER_EXPIRY (R440): fault-log index. -/
  | escalationTimerExpiry (index : Nat)
  /-- SIGNATURE_ARRIVAL (R405). -/
  | signatureArrival (r : Ref)
  /-- PAIR_TIMEOUT (R406). -/
  | pairTimeout (pair : Nat)
  /-- SAFETY_TASK_WINDOW (R397): inputs of the cluster up to its opening, in order of arrival. -/
  | safetyTaskWindow (xs : List CoreIn)
  /-- CHECKPOINT (R396): digests of cores A, B and C. -/
  | checkpoint (a b c : Word64)
  /-- CORE_OUTPUT (R395): core, output index, value. -/
  | coreOutput (core k : Nat) (v : CoreVal)
  /-- VOTE_WINDOW_EXPIRY (R395): output index. -/
  | voteWindowExpiry (k : Nat)
  /-- RESYNC_COPY_DONE (R396): core. -/
  | resyncCopyDone (core : Nat)
  /-- SPLIT_REPLAY_INTERVAL (R400): core replayed (0 A, 1 B) and the values core C produced. -/
  | splitReplayInterval (core : Nat) (vals : List CoreVal)
  /-- THIRD_EVALUATION_DONE (R415): pair and the signatures the re-run gave. -/
  | thirdEvaluationDone (pair : Nat) (sigs : List Word64)
  /-- THIRD_EVALUATION_TIMEOUT (R415). -/
  | thirdEvaluationTimeout (pair : Nat)
  /-- OBSERVATION_REPLAY_DONE (R416): suspect unit and whether the replay agreed. -/
  | observationReplayDone (unit : Nat) (agree : Bool)
  /-- SAMPLED_REPLAY_DONE (R417). -/
  | sampledReplayDone (block : Nat) (agree : Bool)
  /-- SELF_TEST_SLICE_START (R419). -/
  | selfTestSliceStart (c : Checker)
  /-- SELF_TEST_SLICE_END (R419). -/
  | selfTestSliceEnd (c : Checker) (pass : Bool)
  /-- LATENT_COVERAGE_WARNING (R420). -/
  | latentCoverageWarning (c : Checker)
  /-- SAFE_STATE_DISPATCH_STOP (R427). -/
  | safeStateDispatchStop
  /-- SAFE_STATE_WORK_STOP (R427). -/
  | safeStateWorkStop
  /-- SAFE_STATE_RESET (R427). -/
  | safeStateReset
  /-- IMAGE_REVERIFY (R500). -/
  | imageReverify
  /-- SAFE_STATE_CORES_RESTART (R427). -/
  | safeStateCoresRestart
  /-- SAFE_STATE_CHECKER_TESTS (R427). -/
  | safeStateCheckerTests
  /-- SAFE_STATE_SERVICE_READY (R427). -/
  | safeStateServiceReady
  /-- SCRATCH_SCRUB (R345): block, unit, and the word of the unit that is not clean. -/
  | scratchScrub (block unit word : Nat) (f : Found)
  /-- LAGOON_SCRUB (R347): isle, line, word of the line. -/
  | lagoonScrub (isle line word : Nat) (f : Found)
  /-- DRAM_PATROL_SCRUB (R363): data unit. -/
  | dramPatrolScrub (unit : Nat) (f : Found)
  /-- DRAM_REFRESH (R366): half, channel, bank, and whether an urgency 3 or 4 read waits for it. -/
  | dramRefresh (half chan bank : Nat) (urgent : Bool)
  /-- MR4_POLL (R358): half, channel, readout. -/
  | mr4Poll (half chan code : Nat)
  /-- ACTIVATE_TABLE_CLEAR (R364). -/
  | activateTableClear
  /-- HEARTBEAT_TICK (R473). -/
  | heartbeatTick
  /-- HEARTBEAT_RECEIVED (R472). -/
  | heartbeatReceived (h : Heartbeat)
  /-- CW_FLIT_RECEIVED (R470): port and flit. -/
  | cwFlitReceived (port : Nat) (f : Flit)
  /-- CW_FLIT_CRC_FAIL (R468). -/
  | cwFlitCrcFail (port : Nat)
  /-- CW_TRAINING_DONE (R468): port and the neighbour as it reports itself. -/
  | cwTrainingDone (port : Nat) (peer : Member)
  /-- LINK_STATE_FLIT (R475): port, sender, the sender's member list. -/
  | linkStateFlit (port : Nat) (peer : Member) (members : List Member)
  /-- MAC_LINK_CHANGE (R480). -/
  | macLinkChange (mac : Nat) (up : Bool)
  /-- TRANSMISSION_SEND (R466): channel. -/
  | transmissionSend (chan : Nat)
  /-- PERST1_N_DEASSERT (R531). -/
  | perst1NDeassert
  /-- DL_UP (R458): link, PcieLink value. -/
  | dlUp (link speed width : Nat)
  /-- CW_PORT_LOSS (R468). -/
  | cwPortLoss (port : Nat)
  /-- NMT_START_REMOTE_NODE (R476). -/
  | nmtStartRemoteNode (node : Nat)
  /-- NMT_ENTER_PRE_OPERATIONAL (R476). -/
  | nmtEnterPreOperational (node : Nat)
  /-- NMT_RESET_COMMUNICATION (R476). -/
  | nmtResetCommunication (node : Nat)
  /-- OBSERVATION_REPLAY_SKIP (R416): suspect unit. -/
  | observationReplaySkip (unit : Nat)
  /-- VALUE_WRAP (R259). -/
  | valueWrap
  deriving DecidableEq, Repr

end Sys2Proof
end

