-- ==== Sys2Proof/Machine/State.lean ====
section
/-! DEFINITION. The state of the device: every register, table, queue, buffer and mode of the spec, as
plain data, and State.reset. Sparse tables are sorted lists of the entries that differ from the value an
unlisted entry has (log 20). -/

namespace Sys2Proof.Machine

/-- A sparse table: keys strictly rising, no entry equal to the table's default (Machine/Map.lean). -/
abbrev SMap (β : Type) := List (Nat × β)

/-! ## What the part is -/

/-- The three variants (00 R3). -/
inductive Variant where
  | cx960
  | cx940
  | cx920
  deriving DecidableEq, Repr

/-- What is fixed at manufacture and never changes (00 R6, 02 R81, 17 R492, 16 R478). Log 21. -/
structure Part where
  variant : Variant := .cx960
  arithLevel : Nat := 1
  stepping : Nat := 0
  serial : Nat := 0
  identityPub : List Byte := List.replicate 133 0
  keyHash : List (List Byte) := List.replicate 4 (List.replicate 64 0)
  deriving DecidableEq, Repr

/-- The limited-change fuses and their log (00 R13, 17 R489-R491, R501). -/
structure Fuses where
  rollback : Nat := 0
  keyRevoked : Nat := 0
  splitMode : Nat := 0
  splitLeft : Nat := 32
  rollbackLeft : Nat := 64
  revokeLeft : Nat := 4
  log : List Nat := []
  deriving DecidableEq, Repr

/-! ## Memory (12) -/

/-- Device memory by byte address, host memory by bus byte address, poisoned words (12 R535) by the
byte address of the word or unit, and the power-up number of each undefined region (01 R43). -/
structure Mems where
  dev : List Host.Cell := []
  host : List Host.Cell := []
  poison : List Nat := []
  gens : SMap Nat := []
  deriving DecidableEq, Repr

/-- A memory effect that a command posts and `act` applies. -/
inductive MemOp where
  /-- Write bytes at a device byte address. -/
  | dev (addr : Nat) (bytes : List Byte)
  /-- Mark the word or unit at a device byte address uncorrected (12 R535). -/
  | poison (addr : Nat)
  /-- Write bytes at a bus address of the host. -/
  | host (addr : Nat) (bytes : List Byte)
  /-- Bytes `addr ..< addr + n` become undefined (14 R410): fresh free values from counter `k`. -/
  | undef (addr n k : Nat)
  /-- The contents of `addr ..< addr + n` are lost; its region number `g` starts a new power-up. -/
  | lose (g addr n : Nat)
  /-- `addr ..< addr + n` is filled with zeros (12 R537). -/
  | zero (addr n : Nat)
  deriving DecidableEq, Repr

/-! ## Outputs of the last step -/

/-- An answer of the object dictionary (18 R510): a value of `size` bytes, or an abort code. -/
inductive OdAns where
  | value (bytes : List Byte)
  | done
  | abort (code : Nat)
  /-- ERR SEALED and ERR NOT_READY of the monitor (16 R477, 17 R484). -/
  | sealed
  | notReady
  deriving DecidableEq, Repr

/-- What a sideband pulse says (13 R388, R389). -/
inductive Pulse where
  | arm
  | go
  | calibrate
  deriving DecidableEq, Repr

/-- What the device drove or answered in the last step. -/
inductive Out where
  /-- An MSI-X message of a function: vector, address and data. -/
  | msix (fn vector addr data : Nat)
  | od (p : Path) (a : OdAns)
  | can (id : Nat) (bytes : List Byte)
  /-- A line of the Cloux monitor, in ASCII, CR LF included (16 R477). -/
  | monitor (line : List Byte)
  | fifoWord (payload : Word64) (valid endTag : Bool)
  | eth (mac : Nat) (frame : List Byte)
  | flit (port : Nat) (f : Flit)
  | heartbeat (f : Heartbeat)
  | linkState (port : Nat) (members : List Member)
  | sideband (port : Nat) (p : Pulse)
  | config (fn : Nat) (served : Bool)
  | barRead (fn : Nat) (ones : Bool)
  | jtag (bits : Nat) (value : Nat)
  | pps (level : Bool)
  | pdelayReq (mac : Nat)
  | pdelayResp (mac : Nat) (rx : Word64)
  | pdelayFollowUp (mac : Nat) (tx : Word64)
  | coreOut (k : Nat) (v : CoreVal)
  /-- An input that a core of the cluster takes: core, input index, payload, whether it holds a word and its END. -/
  | coreIn (core index : Nat) (payload : Word64) (valid endTag : Bool)
  deriving DecidableEq, Repr

/-! ## Queues and commands (10) -/

/-- State of a queue (10 R288). -/
inductive QState where
  | disabled
  | enabled
  | draining
  deriving DecidableEq, Repr

/-- How far a command has come: read, waiting in the front end; dispatched to its unit; executed by it;
`done` (10 R297) or settled with a status. -/
inductive Stage where
  | read
  | dispatched
  | stopped
  | executed
  | done
  deriving DecidableEq, Repr

/-- The signature of a command (14 R405, R407): not signed, owed, held at the comparator, passed. -/
inductive Sig where
  | none
  | owed
  | sent
  | passed
  deriving DecidableEq, Repr

/-- A signal of a command (10 R303). -/
inductive Signal where
  | pending
  | applied
  | deferred
  | dropped
  deriving DecidableEq, Repr

/-- A command between its fetch and its retirement. -/
structure Cmd where
  idx : Nat := 0
  desc : Desc := 0
  poisoned : Bool := false
  stage : Stage := .read
  status : Nat := 0
  detail : Nat := 0
  cycles : Nat := 0
  /-- Waits already satisfied (10 R296): bit 0 the header wait, bit 1 + n pair n of a QC.WAIT. -/
  waits : Nat := 0
  /-- Uncommitted commands on which it is speculative (14 R409). -/
  parents : List Ref := []
  /-- Signed commands that an export of a safety client must see committed (14 R411). -/
  exportOn : List Ref := []
  sig : Sig := .none
  sigValue : Word64 := 0
  doneSig : Signal := .pending
  committed : Bool := false
  /-- Its queue is disabled once it has retired (14 R414 step 2). -/
  disables : Bool := false
  /-- StepCounter of its client at dispatch (13 R381). -/
  step : Nat := 0
  /-- Number of its dispatch among all dispatches of the device (03 R102, 06 R186, 07 R212). -/
  order : Nat := 0
  /-- Switched domains that were off when it was dispatched, by bit (12 R342). -/
  off : Nat := 0
  /-- Layer marks of its queue that were dispatched before it (11 R319). -/
  layer : Nat := 0
  /-- It is waiting on a sync object, a domain or reader counts, and it is waiting for a context slot: at its end the
  wait counts in DependWait or SlotWait (11 R323). -/
  depends : Bool := false
  slotless : Bool := false
  /-- Fusion time at which it became dispatchable (11 R322). -/
  since : Nat := 0
  /-- The command of an abandoned layer that this one re-executes, without signal, signature or record
  (11 R328). -/
  redo : Option Ref := none
  /-- Progress of a command that runs in several steps: records done, phase. -/
  phase : Nat := 0
  work : List Nat := []
  /-- Clients to be charged for the records still to be done (11 R320). -/
  payers : List Nat := []
  /-- Spans of device memory that it has written: undefined if it is discarded (14 R410). -/
  dst : List (Nat × Nat) := []
  deriving DecidableEq, Repr

/-- A queue context as ENABLE read it (10 R287). -/
structure QCtx where
  ringAddr : Nat := 0
  ringHost : Bool := false
  cplAddr : Nat := 0
  cplHost : Bool := false
  depthLog2 : Nat := 0
  cls : Nat := 0
  client : Nat := 0
  deriving DecidableEq, Repr

/-- A queue (10 R288): its indices, state, context and the commands from RETIRED to HEAD - 1. -/
structure Queue where
  state : QState := .disabled
  tail : Nat := 0
  head : Nat := 0
  retired : Nat := 0
  ctx : QCtx := {}
  refusedReported : Bool := false
  /-- A poisoned ring slot or a failed parent stops dispatch until the queue is disabled (10 R286). -/
  stopped : Bool := false
  /-- It has carried a layer mark since it was enabled (11 R319, R327). -/
  marked : Bool := false
  /-- Layer marks dispatched since it was enabled (11 R319). -/
  layer : Nat := 0
  cmds : List Cmd := []
  /-- Commands on which every later command up to the layer mark is speculative (14 R409). -/
  spec : List Ref := []
  deriving DecidableEq, Repr

/-- A message FIFO (10 R304, R305): words with their END tags, OVERRUN and the latched tag. -/
structure Fifo where
  words : List (Word64 × Bool) := []
  overrun : Bool := false
  tag : Nat := 0
  deriving DecidableEq, Repr

/-! ## Scheduler (11) -/

/-- Why a window is moved: pre-emption (11 R327), eviction (11 R330), the shut-down of its domain (01 R41), or host
software (11 R331). -/
inductive Why where
  | preempt
  | evict
  | shutDown
  | host
  deriving DecidableEq, Repr

/-- A window of a client on a block (11 R319, R327-R331). -/
structure Window where
  /-- The layers live here: queue and layer number. -/
  live : List (Nat × Nat) := []
  spilled : Bool := false
  abandoned : Bool := false
  /-- Why it was spilled last. -/
  why : Why := .preempt
  deriving DecidableEq, Repr

/-- A command of a redo list (11 R328): its layer, index, dispatch number, step (13 R381) and descriptor. -/
structure RedoCmd where
  layer : Nat
  idx : Nat
  order : Nat
  step : Nat
  desc : Desc
  deriving DecidableEq, Repr

/-- The redo list of a queue on a block (11 R328), and the layers that did not fit it. -/
structure Redo where
  cmds : List RedoCmd := []
  overflow : List Nat := []
  deriving DecidableEq, Repr

/-- A spill or fill that the device itself has asked of the ferry (11 R327-R330, 01 R41): client, isle, blocks of the
isle, direction and cause. -/
structure Job where
  client : Nat
  isle : Nat
  mask : Nat
  fill : Bool
  why : Why
  deriving DecidableEq, Repr

/-- A release of a task that has not been judged (11 R333): its boundary, target, deadline, and the Reserve in force
from it on (11 R340). -/
structure Release where
  at_ : Nat
  target : Nat
  due : Nat
  reserve : Nat
  deriving DecidableEq, Repr

/-- Accounting of a client over the frame in progress (11 R323, R324). -/
structure Acct where
  e : Nat := 0
  w : Nat := 0
  p : Nat := 0
  deriving DecidableEq, Repr

/-- A task of the deadline monitor (11 R333-R335). -/
structure Task where
  s0 : Nat := 0
  /-- Its first boundary has been emitted. -/
  released : Bool := false
  /-- Releases emitted, oldest first, not yet judged. -/
  open_ : List Release := []
  releases : Nat := 0
  misses : Nat := 0
  mets : Nat := 0
  /-- Tier in force since the last release boundary. -/
  tierNow : Nat := 0
  deriving DecidableEq, Repr

/-- The scheduler (11). -/
structure Sched where
  /-- Client running on a scheduled unit (by unit code), plus 1. -/
  running : SMap Nat := []
  /-- V(c, u) at 256 u + c, in 2^-16 ns (11 R321). -/
  vtime : SMap Nat := []
  /-- Clients resident on an isle, least recently dispatched first (11 R330). -/
  resident : SMap (List Nat) := []
  /-- Windows at 32 client + block. -/
  windows : SMap Window := []
  /-- Redo lists at 32 queue + block. -/
  redo : SMap Redo := []
  acct : SMap Acct := []
  tasks : SMap Task := []
  /-- Ferry work of the device that runs ahead of queued ferry commands. -/
  ferry : List Job := []
  /-- Commands dispatched so far. -/
  orders : Nat := 0
  /-- Shares still in force on a unit until its next kernel boundary (11 R340): the Share, plus 1, at
  256 unit + client. -/
  old : SMap Nat := []
  deriving DecidableEq, Repr

/-! ## Blocks (02, 03) -/

/-- State of an accumulator bank (03 R98). -/
inductive BankState where
  | free
  | opened
  | held
  | draining
  deriving DecidableEq, Repr

/-- An accumulator bank: its tile and its accumulators, tile row by tile row (03 R98, R101). -/
structure Bank where
  state : BankState := .free
  m : Nat := 0
  n : Nat := 0
  fp : Bool := false
  k : Nat := 0
  acc : List Nat := []
  poisoned : Bool := false
  deriving DecidableEq, Repr

/-- Scores that AT.SCORE keeps for AT.GRAD (06 R208). -/
structure Kept where
  m : Nat := 0
  n : Nat := 0
  /-- Set, sequence, group and heads of the record. -/
  meta_ : List Nat := []
  scores : List Nat := []
  deriving DecidableEq, Repr

/-- A block (01 R19). -/
structure Block where
  bank0 : Bank := {}
  bank1 : Bank := {}
  /-- Order in which banks were closed: the bank held longest first (03 R98). -/
  held : List Nat := []
  halted : Bool := false
  /-- The command whose uncorrected error halted the sequencer. -/
  haltedBy : Option Ref := none
  /-- Activity level A (03 R106). -/
  activity : Nat := 0
  /-- Page look-aside buffer: (sequence, list index, page address), least recently used first (06 R197). -/
  lab : List (Nat × Nat × Nat) := []
  kept : Option Kept := none
  /-- Sequences whose READERS a FAULTED AT.SCORE still holds, until a fence (06 R205). -/
  readers : List Nat := []
  deriving DecidableEq, Repr

/-! ## Sequences (06) -/

/-- State of an active-sequence entry (06 R175). -/
inductive SeqState where
  | free
  | live
  | exhausted
  | faulted
  deriving DecidableEq, Repr

/-- An entry of the active-sequence table (06 R175). -/
structure Seq where
  state : SeqState := .free
  cls : Nat := 0
  window : Nat := 0
  set : Nat := 0
  readers : Nat := 0
  appendBusy : Bool := false
  client : Nat := 0
  listCap : Nat := 0
  pages : Nat := 0
  head : Nat := 0
  length : Nat := 0
  posBase : Nat := 0
  kScale : Nat := 0
  vScale : Nat := 0
  listAddr : Nat := 0
  /-- Queue whose AT.SEQ opened or resumed it (10 R312). -/
  queue : Nat := 0
  deriving DecidableEq, Repr

/-- A record of an AT.APPEND between its phases (06 R200, R201): tokens, first packed row, page sets popped,
page sets to recycle, and what has become of it. -/
structure AppendRec where
  seq : Nat
  len : Nat
  row : Nat
  taken : List Nat := []
  recycle : Nat := 0
  exhausted : Bool := false
  faulted : Bool := false
  /-- Its sequence changed before its write: nothing is appended. -/
  skipped : Bool := false
  deriving DecidableEq, Repr

/-- An AT.APPEND between its phases (06 R200): its records and the next one to write. -/
structure Append where
  ref : Ref
  set : Nat
  recs : List AppendRec
  /-- Records of its list that it leaves out: omitted, or of a sequence that is not LIVE. -/
  omitted : Nat := 0
  /-- It has been received and waits for those of its set that were received before it (06 R204). -/
  waiting : Bool := false
  pos : Nat := 0
  deriving DecidableEq, Repr

/-! ## Streams (08) -/

/-- State of a stream (08 R231). -/
inductive StreamState where
  | idle
  | running
  | halted
  deriving DecidableEq, Repr

/-- An arming of a stream (08 R232, R234): its descriptor, the queue that armed it, its number, and the
parameter block and remap table read at arming (08 R241, R242). -/
structure Arm where
  desc : Desc := 0
  queue : Nat := 0
  number : Nat := 0
  params : List Byte := []
  table : List Byte := []
  deriving DecidableEq, Repr

/-- A sample of a stream (08 R234): in progress, or complete and waiting for its engine. -/
structure Sample where
  arm : Arm := {}
  seq : Nat := 0
  stamp : Nat := 0
  epoch : Nat := 0
  /-- CSI-2 frame number, RTP timestamp, or place of a picture in output order. -/
  num : Nat := 0
  /-- Raw bytes of the lines received, oldest first; of a decoded picture, its luma and chroma rows. -/
  lines : List (List Byte) := []
  width : Nat := 0
  height : Nat := 0
  depth : Nat := 0
  /-- Number of a decoded picture within its arming. -/
  pic : Nat := 0
  flags : Nat := 0
  /-- What the slot takes, and INFO0 and INFO1 of the status entry. -/
  out : List Byte := []
  info0 : Nat := 0
  info1 : Nat := 0
  /-- A packet of the access unit was lost before decoding began. -/
  lost : Bool := false
  /-- Decoding had begun when the stream was re-armed. -/
  begun : Bool := false
  /-- Position in the order of draws of a replay (08 R255), and its journal record. -/
  draw : Nat := 0
  record : Nat := 0
  deriving DecidableEq, Repr

/-- A datagram that waits for its engine: payload, flow, full time of its stamp; whether the journal gave it, and its
record; the offset of network time at its receive stamp (09 R279), or the replay offset (13 R385). -/
structure Dgram where
  bytes : List Byte
  flow : Nat
  stamp : Nat
  journal : Bool := false
  draw : Nat := 0
  record : Nat := 0
  offset : Option Int := none
  deriving DecidableEq, Repr

/-- A lidar point in the point buffer (08 R248, R249): FP32 coordinates, intensity, full time, start of its
window. -/
structure Pt where
  x : Nat
  y : Nat
  z : Nat
  intensity : Nat
  time : Nat
  win : Nat
  deriving DecidableEq, Repr

/-- A decoded picture that an image stream may take (08 R246): where it stands, its size and its stamp. -/
structure Picture where
  addr : Nat
  stride : Nat
  width : Nat
  height : Nat
  stamp : Nat
  epoch : Nat
  deriving DecidableEq, Repr

/-- An arming of a stream, and what the stream has in progress under it (08 R232, R249): its next SEQ; of a point cloud,
the window at which the next arming begins, the start of the oldest window not closed, its points, the windows of those
dropped for want of buffer, and the late points since the last close. -/
structure Era where
  arm : Arm := {}
  seq : Nat := 0
  stop : Nat := 0
  win : Nat := 0
  pts : List Pt := []
  overs : List Nat := []
  late : Nat := 0
  /-- Last datagram counter of its flow, plus 1. -/
  last : Nat := 0
  deriving DecidableEq, Repr

/-- A sensor stream (08 R231-R250). -/
structure Stream where
  state : StreamState := .idle
  cause : Nat := 0
  arm : Arm := {}
  /-- SEQ of the next sample of this arming. -/
  seq : Nat := 0
  /-- Frame or access unit in progress. -/
  cur : Option Sample := none
  /-- Access units that have ended and wait to be decoded. -/
  units : List Sample := []
  /-- Frames, pictures and closed windows that wait to be written. -/
  done : List Sample := []
  inbox : List Dgram := []
  /-- Last RTP sequence number or datagram counter, plus 1. -/
  last : Nat := 0
  /-- The first sample has begun. -/
  started : Bool := false
  /-- Leading access units were skipped, and no sample has said so yet (08 R245). -/
  leading : Bool := false
  pics : List Picture := []
  pictures : Nat := 0
  /-- Lidar: start of the oldest window not closed, and first window of this arming. -/
  win : Nat := 0
  first : Nat := 0
  /-- Earlier armings, oldest first, while samples in progress under them last (08 R232). -/
  before : List Era := []
  pts : List Pt := []
  /-- Windows of the points dropped for want of buffer, and late points since the last close. -/
  overs : List Nat := []
  late : Nat := 0
  /-- Records of the reflex column in progress, and its number (08 R250, 14 R422). -/
  column : List Pt := []
  columns : Nat := 0
  deriving DecidableEq, Repr

/-- A DM.REPLAY in execution (08 R255): next position and end, first position of the batch, samples drawn
for it; the sample being delivered (position, index, next record, end); A and ARRIVAL of the first record. -/
structure Replay where
  ref : Ref
  pos : Nat
  stop : Nat
  base : Nat
  drawn : Nat := 0
  cur : Option (Nat × Nat × Nat × Nat) := none
  start : Option (Nat × Nat) := none
  deriving DecidableEq, Repr

/-- A status entry of a batch that has not been emitted (08 R255): engine class, stream, sample. -/
structure Ready where
  cls : Nat
  stream : Nat
  sample : Sample
  deriving DecidableEq, Repr

/-- The journal and its replay (08 R255-R257, 13 R384-R386). -/
structure Journal where
  replay : Option Replay := none
  ready : List Ready := []
  /-- Replay clock as a full time, and the replay offset once a record has given one. -/
  clock : Nat := 0
  offset : Option Int := none
  /-- Inputs lost since the last record, for the GAP record. -/
  gap : Nat := 0
  /-- Next byte of the payload ring, and the bytes held for each record not yet read. -/
  payWrite : Nat := 0
  sizes : List Nat := []
  deriving DecidableEq, Repr

/-! ## Time (09) -/

/-- A tracker of network time (09 R268-R271). -/
structure Tracker where
  status : Nat := 0
  gm : Nat := 0
  offset : Int := 0
  delay : Nat := 0
  good : Nat := 0
  lastSync : Nat := 0
  waiting : Option Gptp := none
  /-- stepsRemoved of the last Announce (09 R268). -/
  steps : Nat := 0
  /-- The last three Pdelay exchanges: link delay, or none when one failed (09 R269). -/
  delays : List (Option Nat) := []
  deriving DecidableEq, Repr

/-- Fusion time (09). `frac` counts 2^-32 of the value's unit. -/
structure Time where
  value : Nat := 0
  epoch : Nat := 0
  frac : Nat := 0
  rate : Int := 0
  /-- What `rate` differs by from the selected domain's rate, in the same parts (09 R273). -/
  trim : Int := 0
  /-- Frame period and phase in force, in value units, and the next boundary. -/
  period : Nat := 0
  phase : Nat := 0
  boundary : Nat := 0
  state : Nat := 0
  selected : Nat := 255
  track0 : Tracker := {}
  track1 : Tracker := {}
  latched : SMap Nat := []
  /-- Transmit stamps of the Pdelay_Req under way, by MAC (09 R268). -/
  sent : SMap Nat := []
  pps : Bool := false
  /-- Full time of the next edge of PPS_OUT in mode 1 (09 R280). -/
  second : Nat := 0
  ppsFall : Option Nat := none
  deriving DecidableEq, Repr

/-! ## Faults (15) -/

/-- A fault record before it is logged (15 R438). -/
structure Rec where
  mech : Nat := 0
  unit : Nat := 255
  sub : Nat := 0
  cell : Option Nat := none
  spare : Bool := false
  op : Option (Ref × Nat × Nat × Nat × Nat) := none
  addr : Nat := 0
  count : Nat := 1
  injected : Bool := false
  superseded : Bool := false
  /-- The commands that this record makes FAULTED once logged (15 R442, R443). -/
  halts : List Ref := []
  /-- Fusion time at which it arrived at its collector (15 R433). -/
  at_ : Nat := 0
  deriving DecidableEq, Repr

/-- STATE of a logged record (15 R438). -/
inductive RecState where
  | opened
  | cleared
  | acted
  | escalated
  | closed
  deriving DecidableEq, Repr

/-- A record in the log (15 R434, R438). -/
structure Logged where
  index : Nat := 0
  rec_ : Rec := {}
  cls : Nat := 0
  state : RecState := .opened
  time : Nat := 0
  temp : Int := 0
  vCore : Nat := 0
  vArray : Nat := 0
  vMem : Nat := 0
  /-- Fusion time at which its timer expires. -/
  timer : Option Nat := none
  deriving DecidableEq, Repr

/-- A collector (15 R432, R433), the records of units that it has stopped, oldest first, and the overflow that a block
collector has still to report. -/
structure Coll where
  recs : List Rec := []
  waiting : List Rec := []
  overflow : Option Rec := none
  deriving DecidableEq, Repr

/-- A taint tracker (15 R446): clients with first step, last step and commands. -/
structure Taint where
  entries : List (Nat × Nat × Nat × Nat) := []
  overflow : Bool := false
  clean : Nat := 0
  deriving DecidableEq, Repr

/-- The fault system (15). -/
structure Faults where
  blocks : SMap Coll := []
  isles : SMap Coll := []
  inbox : List Rec := []
  /-- The records on chip, oldest first, and those in the overflow ring (15 R434). -/
  log : List Logged := []
  ring : List Logged := []
  next : Nat := 0
  fencedBlocks : Nat := 0
  fencedOther : Nat := 0
  readIndex : SMap Nat := []
  taint : SMap Taint := []
  /-- The injection armed: mechanism, unit, sub-unit, kind, checks left (15 R448). -/
  injMech : Nat := 0
  injUnit : Nat := 255
  injSub : Nat := 0
  injKind : Nat := 0
  injLeft : Nat := 0
  deriving DecidableEq, Repr

/-! ## Safety (14) -/

/-- SafetyState (14 R431). -/
inductive Mode where
  | notReady
  | inService
  | debugHold
  | safeState
  | failed
  deriving DecidableEq, Repr

/-- One side of a pair at the comparator (14 R405). -/
structure Side where
  ref : Ref
  value : Word64
  unit : Nat
  deriving DecidableEq, Repr

/-- A pair entry (14 R405-R407, R536). -/
structure Pair where
  a : Option Side := none
  b : Option Side := none
  gone0 : Bool := false
  gone1 : Bool := false
  /-- Hardware verdict, once decided. -/
  verdict : Option Bool := none
  /-- Fusion time of the first signature and of the decision. -/
  since : Nat := 0
  decided : Nat := 0
  deriving DecidableEq, Repr

/-- A core of the cluster (14 R393-R396). -/
inductive CoreSt where
  | inService
  | resync
  | fenced
  | spare
  deriving DecidableEq, Repr

/-- What the voter holds for one output index (14 R395), and the fusion time at which its VoteWindow ends. -/
structure Vote where
  k : Nat
  vals : List (Nat × CoreVal)
  released : Option CoreVal
  due : Nat := 0
  deriving DecidableEq, Repr

/-- A third evaluation (14 R415): pair number, the two sides, the layer and OPCODE of copy A's command, when the pair
failed. -/
structure Third where
  pair : Nat
  a : Side
  b : Side
  layer : Nat
  opcode : Nat
  failed : Nat
  deriving DecidableEq, Repr

/-- A unit under observation (14 R416). -/
structure Suspect where
  suspect : Bool := false
  /-- Fusion time of the first disagreement that names it, plus 1. -/
  first : Nat := 0
  /-- Consecutive clean self-tests. -/
  clean : Nat := 0
  /-- Clients of the layers it has completed and that wait for their replay, oldest first. -/
  layers : List Nat := []
  deriving DecidableEq, Repr

/-- The safety cluster, the comparator and the reflex path (14). -/
structure Safety where
  mode : Mode := .notReady
  cores : List CoreSt := [.inService, .inService, .inService]
  splitActive : Bool := false
  votes : List Vote := []
  /-- First drop of each core, plus 1 (14 R396). -/
  drops : List Nat := [0, 0, 0]
  copying : List Bool := [false, false, false]
  copied : List Bool := [false, false, false]
  halted : Bool := false
  haltCount : Nat := 0
  breaks : List Nat := []
  /-- What debug wrote into the cores' registers and private SRAM (14 R393, R398). -/
  regs : SMap Nat := []
  sram : List Host.Cell := []
  pairs : SMap Pair := []
  /-- Decided pairs, oldest first. -/
  decided : List Nat := []
  /-- Uncommitted commands recorded at a sync object (14 R409). -/
  uncommitted : SMap (List Ref) := []
  third : List Third := []
  suspects : SMap Suspect := []
  /-- Units named by a disagreement in the frame in progress (14 R414). -/
  named : List Nat := []
  /-- Self-test: fusion time of the last passing test of a checker (key of Safety.lean), and warned. -/
  tested : SMap Nat := []
  warned : List Nat := []
  slice : Option Checker := none
  /-- Layers completed on a block since the last sampled one (14 R417). -/
  layers : SMap Nat := []
  /-- Clients of the sampled layers of a block that wait for their replay, oldest first (14 R417). -/
  samples : SMap (List Nat) := []
  /-- Columns that point-cloud streams have passed and that have not begun, oldest first: stream, number,
  records (14 R422). -/
  columns : List (Nat × Nat × List Pt) := []
  /-- Reflex columns in the queue: stream, time of last record, nearest, count, number (14 R422). -/
  reflex : List (Nat × Nat × Nat × Nat × Nat) := []
  /-- Fusion times of the last entries into the safe state (14 R429). -/
  entries : List Nat := []
  /-- Index of the next input (14 R394). -/
  inputIndex : Nat := 0
  /-- Phase of the safe state (14 R427). -/
  phase : Nat := 0
  deriving DecidableEq, Repr

/-! ## Boot and power (17) -/

/-- STAGE of BootStatus (17 R482). -/
inductive BootStage where
  | booting
  | awaitImage
  | loading
  | starting
  | setup
  | service
  deriving DecidableEq, Repr

/-- Boot (17). -/
structure Boot where
  /-- A cold start has begun (17 R481). -/
  started : Bool := false
  stage : BootStage := .booting
  error : Nat := 0
  pinsOn : Bool := false
  trained : Bool := false
  reserveFilled : Bool := false
  filled : Bool := false
  arrays : Bool := false
  cfgReady : Bool := false
  fetched : Bool := false
  /-- ExitSetup has been written and waits for a power transition to complete (17 R506). -/
  exiting : Bool := false
  /-- ExitSetup has been served at least once since the cold start. -/
  everService : Bool := false
  svn : Nat := 0
  keySlot : Nat := 0
  digest : List Byte := []
  build : Nat := 0
  hasPartition : Bool := false
  sealed : Bool := false
  testActive : Bool := false
  /-- SplitMode as the cold start read it (14 R400), and HARBOUR_SEL and PCIE_BIF. -/
  splitLatched : Bool := false
  harbourSel : Bool := false
  bifur : Bool := false
  /-- FuseLogIndex of each access path (18 R516), by Path number. -/
  fuseIndex : SMap Nat := []
  deriving DecidableEq, Repr

/-- State of a switched power domain (17 R502). -/
inductive Pd where
  | off
  | on
  | shuttingDown
  | poweringUp
  | pending
  deriving DecidableEq, Repr

/-- Power, clocks and supplies (01, 17, 19). `want` marks a domain whose shut-down waits for its
prerequisites or whose power-up is to be followed by a shut-down. -/
structure Power where
  pd : SMap Pd := []
  wantOff : List Nat := []
  wantOn : List Nat := []
  derated : Bool := false
  temp : Int := 320
  vCore : Nat := 750
  vArray : Nat := 750
  vMem : Nat := 800
  deriving DecidableEq, Repr

/-! ## DRAM (12) -/

/-- DRAM controllers: refreshes issued and due by bank, refresh rate by channel, and the halves in self-refresh, by bit
(12 R358, R366, R368). Key of a bank: ((half * 12 + channel) * 16 + bank). -/
structure Dram where
  refreshed : SMap Nat := []
  rate : SMap Nat := []
  due : SMap Nat := []
  selfRefresh : Nat := 0
  deriving DecidableEq, Repr

/-- A code unit in a channel's cache (12 R361, R362): that of a data row of a bank, and whether it has to be written
back. -/
structure CodeLine where
  bank : Nat
  row : Nat
  dirty : Bool := false
  deriving DecidableEq, Repr

/-- What the DRAM controllers make of the accesses they serve (12 R362-R365): activate tables (row, count) and open row,
plus 1, by bank; code caches by channel, least recently used first; accesses served, RFM commands issued, code units
read, and reads that reached urgency 4. -/
structure Traffic where
  tables : SMap (List (Nat × Nat)) := []
  opened : SMap Nat := []
  cache : SMap (List CodeLine) := []
  served : Nat := 0
  rfm : Nat := 0
  misses : Nat := 0
  urgent : Nat := 0
  deriving DecidableEq, Repr

/-! ## Links (16) -/

/-- A transmission that waits (16 R466): its slot of the ring, its payload bytes, and its place in the order of
retirement. -/
structure Sent where
  slot : Nat
  bytes : Nat
  order : Nat
  deriving DecidableEq, Repr

/-- A transmission channel (16 R464-R466): the transmissions that wait, oldest first, and the number of the next
causeway message. -/
structure Tx where
  queue : List Sent := []
  seq : Nat := 0
  deriving DecidableEq, Repr

/-- A causeway message that is arriving (16 R467, R469): MSG_SEQ and the payload so far. -/
structure Rx where
  msg : Nat := 0
  got : List Byte := []
  deriving DecidableEq, Repr

/-- A causeway port (16 R468, R475, R480): CwState, the neighbour and its member list, and how often the
flit in transfer has failed its CRC. -/
structure Cw where
  state : Nat := 0
  peer : Option Member := none
  members : List Member := []
  fails : Nat := 0
  deriving DecidableEq, Repr

/-- Twin pairing (16 R471-R473). `sent` counts heartbeats since pairing began, `peer` is the last valid
one, `heard` says that one came since the previous tick. -/
structure Twin where
  paired : Bool := false
  role : Nat := 0
  misses : Nat := 0
  sent : Nat := 0
  peer : Option Heartbeat := none
  heard : Bool := false
  takeover : Bool := false
  release : Bool := false
  yield : Bool := false
  deriving DecidableEq, Repr

/-- The start barrier (13 R388-R391): `armed` has sent ARM; `forwarded` lists the members whose ARM this
device passed on; at the harbour `got` lists the members whose ARM has come and `until_` is the end of the
wait, while it runs; `due` is the fusion time of the release. -/
structure Barrier where
  armed : Bool := false
  forwarded : List Nat := []
  got : List Nat := []
  until_ : Option Nat := none
  due : Option Nat := none
  deriving DecidableEq, Repr

/-- CAN and NMT (16 R476): NMT state (0 before the boot-up message, 127 pre-operational, 5 operational, 4
stopped), the entry of a segmented USDO transfer in progress, and the time of the last EMCY. -/
structure CanSt where
  nmt : Nat := 0
  segmented : Option (Nat × Nat) := none
  lastEmcy : Option Nat := none
  deriving DecidableEq, Repr

/-- JTAG (16 R478): the instruction selected, and whether the boundary register drives the pins. -/
structure Jtag where
  inst : Nat := 0
  drive : Bool := false
  deriving DecidableEq, Repr

/-- An entry of an MSI-X table (16 R456). -/
structure MsixVec where
  addr : Nat := 0
  data : Nat := 0
  masked : Bool := true
  deriving DecidableEq, Repr

/-- MSI-X of a function (10 R314, 16 R454, R456): Enable, Function Mask, its table, and the pending-bit array. -/
structure Msix where
  enable : Bool := false
  mask : Bool := false
  table : SMap MsixVec := []
  pending : Nat := 0
  deriving DecidableEq, Repr

/-- One PCIe function (16 R461, 10 R310): SERIAL of its messages, STATUS and DATA of its mailbox, and its MSI-X. -/
structure Fn where
  serial : Nat := 0
  msix : Msix := {}
  mailStatus : Nat := 0
  mailData : List Byte := []
  deriving DecidableEq, Repr

/-- Links (16): functions, PcieLink of each link, PERST1_N held low, causeways, HarbourId, reports of the MAC
interfaces, transmission channels, messages arriving (by source, sending and receiving channel), next slot
of each receive channel, twin, CAN and JTAG. -/
structure Links where
  fns : SMap Fn := []
  pcie : SMap Nat := []
  perst1 : Bool := false
  cw : SMap Cw := []
  harbour : Nat := 255
  macUp : SMap Bool := []
  tx : SMap Tx := []
  /-- Transmissions that have retired OK. -/
  txNext : Nat := 0
  rx : SMap Rx := []
  rxNext : SMap Nat := []
  twin : Twin := {}
  can : CanSt := {}
  jtag : Jtag := {}
  deriving DecidableEq, Repr

/-! ## The whole -/

/-- A message that waits for the end of its cycle (10 R313). -/
structure Msg where
  fn : Nat
  type : Nat
  time : Nat
  pay : List Byte
  deriving DecidableEq, Repr

/-- Everything that commands change but memory and fuses. -/
structure Ctl where
  /-- Number of free values drawn so far (log 5). -/
  free : Nat := 0
  posted : List MemOp := []
  out : List Out := []
  /-- Messages of the cycle in progress; none between steps. -/
  msgs : List Msg := []
  /-- Values of object-dictionary entries at 256 index + subindex (18). -/
  od : SMap Nat := []
  /-- RWS values in effect since the last exit from setup (17 R495). -/
  eff : SMap Nat := []
  boot : Boot := {}
  power : Power := {}
  safety : Safety := {}
  faults : Faults := {}
  time : Time := {}
  queues : SMap Queue := []
  syncs : SMap Nat := []
  fifos : SMap Fifo := []
  sched : Sched := {}
  blocks : SMap Block := []
  seqs : SMap Seq := []
  /-- Free stack depth of pool s is OD PoolFree; look-aside and list caches (06 R197, R198). -/
  listCache : SMap (List (Nat × Nat × Nat)) := []
  walks : SMap (List (Nat × Nat × Nat)) := []
  appends : List Append := []
  img : SMap Stream := []
  vd : SMap Stream := []
  pts : SMap Stream := []
  journal : Journal := {}
  dram : Dram := {}
  traffic : Traffic := {}
  links : Links := {}
  barrier : Barrier := {}
  /-- The fleet export in progress (15 R449): buffer, its bytes, first index, count, class mask, sync object. -/
  fleet : List Nat := []
  deriving DecidableEq, Repr

/-- The state of the device and the queue of commands that wait. -/
structure State where
  part : Part := {}
  fuses : Fuses := {}
  mems : Mems := {}
  ctl : Ctl := {}
  pending : List Instr := []
  deriving DecidableEq, Repr

/-- No command ends in a fault: the type is empty but for the name of a stop that nothing raises. -/
inductive Fault where
  /-- Raised by no command: the spec gives every row an effect (95). Safe. -/
  | stuck
  deriving DecidableEq, Repr

/-- Refusals. -/
inductive Refusal where
  /-- A row whose meaning is not written yet: raised by its arm of exec alone. Safe. -/
  | notModelled (mnemonic : String)
  deriving DecidableEq, Repr

/-- The part before its cold start (17 R481): every register at its reset value, memory with nothing
listed. Log 21 names the part, log 22 the values that the spec does not give. -/
def State.reset : State := {}

end Sys2Proof.Machine
end

