-- ==== Sys2Proof/Machine/Map.lean ====
section
/-! DEFINITION. Sparse tables: lookup, update, and small list helpers that the meanings share. -/

namespace Sys2Proof.Machine

/-- The value at key `k`, or `d` where the table lists none. -/
def look {β : Type} (d : β) (k : Nat) : SMap β → β
  | [] => d
  | (j, v) :: m => if j = k then v else look d k m

/-- Insert an entry in key order. -/
def place {β : Type} (k : Nat) (v : β) : SMap β → SMap β
  | [] => [(k, v)]
  | (j, u) :: m => if k < j then (k, v) :: (j, u) :: m else (j, u) :: place k v m

/-- Table with `v` at `k`: the entry of `k` goes, and the new one comes in order unless it is the default. -/
def stow {β : Type} [DecidableEq β] (d : β) (k : Nat) (v : β) (m : SMap β) : SMap β :=
  let rest := m.filter fun e => decide (e.1 ≠ k)
  if v = d then rest else place k v rest

/-- Table with `f` applied at `k`. -/
def tweak {β : Type} [DecidableEq β] (d : β) (k : Nat) (f : β → β) (m : SMap β) : SMap β :=
  stow d k (f (look d k m)) m

/-- A table is canonical: keys strictly rise and no entry holds the default. -/
def tidy {β : Type} [DecidableEq β] (d : β) : SMap β → Bool
  | [] => true
  | (j, v) :: m => decide (v ≠ d) && m.all (fun e => decide (j < e.1)) && tidy d m

/-- `List.modify` without bounds: the element at `i` replaced where it exists. -/
def setAt {α : Type} (l : List α) (i : Nat) (a : α) : List α := l.set i a

/-- Fold over `0, 1, …, n - 1`. -/
def upto {α : Type} (f : Nat → α → α) : Nat → α → α
  | 0, a => a
  | n + 1, a => f n (upto f n a)

/-- The list `f 0, …, f (n - 1)`. -/
def tab {α : Type} (n : Nat) (f : Nat → α) : List α := (List.range n).map f

/-- Insert into a sorted list of numbers, once. -/
def insNat (k : Nat) : List Nat → List Nat
  | [] => [k]
  | j :: l => if j = k then j :: l else if k < j then k :: j :: l else j :: insNat k l

/-- Clamp a number to a range (10 R285, 18 R511). -/
def clampN (lo hi v : Nat) : Nat := max lo (min hi v)

/-- Sum of a list. -/
def sumN (l : List Nat) : Nat := l.foldl (· + ·) 0

/-- Split into pieces of `n`. -/
def chunks {α : Type} (n : Nat) : Nat → List α → List (List α)
  | 0, _ => []
  | k + 1, l => l.take n :: chunks n k (l.drop n)

end Sys2Proof.Machine
end

