-- ==== Sys2Proof/Machine/Crc.lean ====
section
/-! DEFINITION. Check codes and digests: CRC-32C (15 R438), CRC-64 of ECMA-182 reflected (14 R404) and
SHA-512 (13 R374, 17 R487, R493). -/

namespace Sys2Proof.Machine

/-- One byte into a reflected CRC of polynomial `poly` (already reflected). -/
def crcByte (poly : Nat) (crc : Nat) (b : Byte) : Nat :=
  (List.range 8).foldl (fun x _ => if x % 2 = 1 then (x / 2) ^^^ poly else x / 2) (crc ^^^ b.toNat)

/-- CRC-32C of a byte string. -/
def crc32c (bs : List Byte) : Nat := (bs.foldl (crcByte 0x82F63B78) 0xFFFFFFFF) ^^^ 0xFFFFFFFF

/-- ECMA-182 polynomial 0x42F0E1EBA9EA3693, reflected. -/
def crc64Poly : Nat := 0xC96C5795D7870F42

/-- CRC-64 goes on from the value `crc` of what came before, 0 at the start: its initial value and final XOR are all ones
(14 R404). -/
def crc64On (crc : Nat) (bs : List Byte) : Nat := (bs.foldl (crcByte crc64Poly) (crc ^^^ (2 ^ 64 - 1))) ^^^ (2 ^ 64 - 1)

/-- CRC-64 of a byte string. -/
def crc64 (bs : List Byte) : Nat := crc64On 0 bs

/-! ## SHA-512 (FIPS 180-4) -/

/-- Sixteen words written one after another, the first the most significant: word `i`. -/
def packed (row i : Nat) : Word64 := BitVec.ofNat 64 (row / 2 ^ (64 * (15 - i)))

/-- Round constants 0 to 15 of FIPS 180-4, packed. -/
def roundRow0 : Nat :=
  0x428a2f98d728ae227137449123ef65cdb5c0fbcfec4d3b2fe9b5dba58189dbbc3956c25bf348b53859f111f1b605d019923f82a4af194f9bab1c5ed5da6d8118d807aa98a303024212835b0145706fbe243185be4ee4b28c550c7dc3d5ffb4e272be5d74f27b896f80deb1fe3b1696b19bdc06a725c71235c19bf174cf692694
/-- Round constants 16 to 31 of FIPS 180-4, packed. -/
def roundRow1 : Nat :=
  0xe49b69c19ef14ad2efbe4786384f25e30fc19dc68b8cd5b5240ca1cc77ac9c652de92c6f592b02754a7484aa6ea6e4835cb0a9dcbd41fbd476f988da831153b5983e5152ee66dfaba831c66d2db43210b00327c898fb213fbf597fc7beef0ee4c6e00bf33da88fc2d5a79147930aa72506ca6351e003826f142929670a0e6e70
/-- Round constants 32 to 47 of FIPS 180-4, packed. -/
def roundRow2 : Nat :=
  0x27b70a8546d22ffc2e1b21385c26c9264d2c6dfc5ac42aed53380d139d95b3df650a73548baf63de766a0abb3c77b2a881c2c92e47edaee692722c851482353ba2bfe8a14cf10364a81a664bbc423001c24b8b70d0f89791c76c51a30654be30d192e819d6ef5218d69906245565a910f40e35855771202a106aa07032bbd1b8
/-- Round constants 48 to 63 of FIPS 180-4, packed. -/
def roundRow3 : Nat :=
  0x19a4c116b8d2d0c81e376c085141ab532748774cdf8eeb9934b0bcb5e19b48a8391c0cb3c5c95a634ed8aa4ae3418acb5b9cca4f7763e373682e6ff3d6b2b8a3748f82ee5defb2fc78a5636f43172f6084c87814a1f0ab728cc702081a6439ec90befffa23631e28a4506cebde82bde9bef9a3f7b2c67915c67178f2e372532b
/-- Round constants 64 to 79 of FIPS 180-4, packed. -/
def roundRow4 : Nat :=
  0xca273eceea26619cd186b8c721c0c207eada7dd6cde0eb1ef57d4f7fee6ed17806f067aa72176fba0a637dc5a2c898a6113f9804bef90dae1b710b35131c471b28db77f523047d8432caab7b40c724933c9ebe0a15c9bebc431d67c49c100d4c4cc5d4becb3e42b6597f299cfc657e2a5fcb6fab3ad6faec6c44198c4a475817

/-- Round constant `t`. -/
def roundConst (t : Nat) : Word64 :=
  packed (match t / 16 with
    | 0 => roundRow0
    | 1 => roundRow1
    | 2 => roundRow2
    | 3 => roundRow3
    | _ => roundRow4) (t % 16)

/-- The eight words of the initial hash, packed. -/
def firstHash : Nat :=
  0x6a09e667f3bcc908bb67ae8584caa73b3c6ef372fe94f82ba54ff53a5f1d36f1510e527fade682d19b05688c2b3e6c1f1f83d9abfb41bd6b5be0cd19137e2179

/-- XOR of three rotations of a word, or of two and a shift when `cut` says so. -/
def spread (cut : Bool) (i j k : Nat) (x : Word64) : Word64 :=
  [i, j].foldl (fun y n => y ^^^ x.rotateRight n) (if cut then x >>> k else x.rotateRight k)

/-- State of the compression: the eight working words, and the next sixteen words of the schedule. -/
structure Digest where
  h : List Word64
  next : List Word64
  deriving DecidableEq, Repr

/-- A step of the compression: the schedule moves on by one word, and the working words turn. -/
def Digest.step (t : Nat) (s : Digest) : Digest :=
  let at_ : Nat → Word64 := fun i => s.next.getD i 0
  let fresh := spread true 19 61 6 (at_ 14) + at_ 9 + (spread true 1 8 7 (at_ 1) + at_ 0)
  let next := s.next.drop 1 ++ [fresh]
  match s.h with
  | [a, b, c, d, e, f, g, z] =>
    let pick := (e &&& (f ^^^ g)) ^^^ g
    let vote := (a &&& (b ||| c)) ||| (b &&& c)
    let into := roundConst t + at_ 0 + z + (pick + spread false 14 18 41 e)
    { h := [into + (vote + spread false 28 34 39 a), a, b, c, d + into, e, f, g], next := next }
  | h => { h := h, next := next }

/-- Compress one block of sixteen words into a hash. -/
def digestBlock (h w : List Word64) : List Word64 :=
  List.zipWith (· + ·) h (upto Digest.step 80 { h := h, next := w }).h

/-- The bytes that fill up the last block: 0x80, zeros, and the length in bits over 16 bytes. -/
def digestTail (n : Nat) : List Byte :=
  0x80 :: List.replicate ((239 - n % 128) % 128) 0 ++ beBytes 16 (8 * n)

/-- SHA-512 of a byte string: 64 bytes. -/
def sha512 (bs : List Byte) : List Byte :=
  let whole := bs ++ digestTail bs.length
  let word : List Byte → Word64 := fun b => BitVec.ofNat 64 (ofBE b)
  ((chunks 128 (whole.length / 128) whole).foldl
    (fun h b => digestBlock h ((chunks 8 16 b).map word))
    (tab 8 fun i => packed (firstHash * 2 ^ 512) i)).flatMap fun x => beBytes 8 x.toNat

end Sys2Proof.Machine
end

