-- ==== Sys2Proof/Machine/Arbiter.lean ====
section
/-! DEFINITION. The arbiters of memory (12 R343-R356) and the choices of a DRAM channel (12 R365, R366). A step of the model
is whole, so between two steps nobody waits, every Rise is 0 (12 R350) and no command calls these functions but
`readUrgency` (log 111). -/

namespace Sys2Proof.Machine

/-! ## Decisions with Rise (12 R348-R352, R354-R356) -/

/-- A requester at one decision: its BasePrio and Rise, whether it has something ready, and whether it is eligible. -/
structure Requester where
  prio : Nat := 4
  rise : Nat := 0
  ready : Bool := false
  eligible : Bool := false
  deriving DecidableEq, Repr

/-- Rank (12 R349). -/
def Requester.rank (x : Requester) : Nat := min 15 (x.prio + x.rise)

/-- The eligible requester of highest rank; ties go to the higher Rise, then to the lower number (12 R349). -/
def background : List (Nat × Requester) → Option (Nat × Requester)
  | [] => none
  | (i, x) :: l =>
    if !x.eligible then background l
    else match background l with
      | none => some (i, x)
      | some (j, y) => if x.rank < y.rank ∨ (x.rank = y.rank ∧ x.rise < y.rise) then some (j, y) else some (i, x)

/-- The requesters with their numbers. -/
def numbered (l : List Requester) : List (Nat × Requester) := l.zipIdx.map fun e => (e.2, e.1)

/-- One decision (12 R349): the owner that the slot names wins when it is eligible; otherwise a background decision. -/
def decision (owner : Nat) (l : List Requester) : Option Nat :=
  if (l[owner]?.map Requester.eligible) = some true then some owner else (background (numbered l)).map Prod.fst

/-- Rise after a decision that requester `w` won (12 R350). -/
def rises (w : Option Nat) (l : List Requester) : List Requester :=
  (numbered l).map fun e =>
    { e.2 with rise := if w = some e.1 ∨ !e.2.ready then 0 else if e.2.eligible then min 15 (e.2.rise + 1) else e.2.rise }

/-- LAGOON_OWNER of a slot (12 R354). -/
def lagoonOwner (slot : Nat) : Nat := slot % 8
/-- STRAITS_OWNER of a slot (12 R354). -/
def straitsOwner (slot : Nat) : Nat := slot / 16 % 8
/-- OWNER of output port `o` of a router (12 R355). -/
def routerOwner (slot o : Nat) : Nat := slot / 8 ^ o % 8

/-- A lagoon requester may start a transfer (12 R348): it has one ready, its last one began four cycles ago or earlier, and
for a block port that reads, its dual-clock queue has four free words. -/
def lagoonEligible (ready : Bool) (sinceStart : Option Nat) (reads : Bool) (free : Nat) : Bool :=
  ready && (sinceStart.map fun n => decide (4 ≤ n)).getD true && (!reads || decide (4 ≤ free))

/-! ## Scratch (12 R343, R344) -/

/-- Bank and row of scratch unit `a` (12 R343). -/
def scratchPlace (a : Nat) : Nat × Nat := (a % 16, a / 16)

/-- The requester that a scratch bank grants in a cycle (12 R344): A feeder, B feeder, drain, vector unit, page fetcher,
lagoon port, numbered 0 to 5; one that the bank has refused in four consecutive cycles goes first. Each entry says
whether the requester asks and how often in a row it has been refused. -/
def scratchGrant (l : List (Bool × Nat)) : Option Nat :=
  match l.findIdx? fun e => e.1 && decide (4 ≤ e.2) with
  | some i => some i
  | none => l.findIdx? Prod.fst

/-! ## DRAM channels (12 R365, R366) -/

/-- Urgency of a read of a given age under a LatencyTarget (12 R365). -/
def readUrgency (age target : Nat) : Nat :=
  if target ≤ age then 4 else if 7 * target ≤ 8 * age then 3 else if 3 * target ≤ 4 * age then 2 else if target ≤ 2 * age then 1 else 0

/-- Write drain after a look at the queue of writes (12 R365): entered at 24 writes or when one is too old, left at 8. -/
def writeDrain (drain : Bool) (writes : Nat) (late : Bool) : Bool :=
  if drain then decide (8 < writes) else decide (24 ≤ writes) || late

/-- A request at a channel: write or read of an urgency, whether its row is open, and its age. -/
structure Request where
  write : Bool := false
  urgency : Nat := 0
  hit : Bool := false
  age : Nat := 0
  deriving DecidableEq, Repr

/-- Place of a request by urgency (12 R366): writes rank below every read outside write drain, and in it above the reads of
urgency 0 to 3. -/
def Request.place (drain : Bool) (x : Request) : Nat :=
  if x.write then (if drain then 9 else 0) else 2 * x.urgency + (if x.urgency = 4 then 3 else 1)

/-- Whether a request goes before another (12 R366): by urgency, then row hits, then the oldest. -/
def Request.before (drain : Bool) (x y : Request) : Bool :=
  decide (y.place drain < x.place drain) ||
    (decide (x.place drain = y.place drain) && ((x.hit && !y.hit) || (decide (x.hit = y.hit) && decide (y.age < x.age))))

/-- What a channel does in a command slot. -/
inductive Slot where
  | refresh
  | rfm
  | serve (i : Nat)
  | nothing
  deriving DecidableEq, Repr

/-- The request that a channel serves next. -/
def nextRequest (drain : Bool) (l : List Request) : Option (Nat × Request) :=
  (l.zipIdx.map fun e => (e.2, e.1)).foldl (fun b e => match b with
    | none => some e
    | some y => if e.2.before drain y.2 then some e else b) none

/-- The choice of a command slot (12 R366): a due refresh, unless a read of urgency 3 or 4 waits for its bank and the
standard still allows it to be postponed; then a due RFM; then a request. -/
def commandSlot (refreshDue mayPostpone urgentOnBank rfmDue drain : Bool) (l : List Request) : Slot :=
  if refreshDue && !(urgentOnBank && mayPostpone) then .refresh
  else if rfmDue then .rfm
  else match nextRequest drain l with
    | some e => .serve e.1
    | none => .nothing

/-- The row of a bank is closed (12 R366): after 16 hits in a row when a request of equal or higher urgency waits for
another row of the bank, or after 32 cycles without a pending request for it. -/
def closesRow (hits : Nat) (rivalWaits : Bool) (idleCycles : Nat) : Bool :=
  (decide (16 ≤ hits) && rivalWaits) || decide (32 ≤ idleCycles)

end Sys2Proof.Machine
end

