-- ==== Sys2Proof/Machine/Dict.lean ====
section
/-! DEFINITION. The map of the object dictionary (18 R508-R519): the entries, their sizes, access codes
and defaults, and the clamping of written values. Values computed from the rest of the state are read in
Machine/OdRead.lean. -/

namespace Sys2Proof.Machine

/-- Access codes (00 R13). -/
inductive Acc where
  | ro
  | rw
  | wo
  | rws
  | otl
  | tst
  deriving DecidableEq, Repr

/-- A row of the map: `n` indices from `idx`, subindices `lo` to `hi`, size in bytes (0 for a DOMAIN or
string), access and default. -/
structure DRow where
  idx : Nat
  n : Nat
  lo : Nat
  hi : Nat
  size : Nat
  acc : Acc
  dflt : Nat
  deriving DecidableEq, Repr

/-- Key of an entry in the value tables. -/
def odKey (idx sub : Nat) : Nat := 256 * idx + sub

/-- Index folded onto isle 0 for the per-isle ranges 0x3000 + isle × 0x100. -/
def foldIsle (idx : Nat) : Nat :=
  if 0x3000 ≤ idx ∧ idx < 0x3800 then 0x3000 + idx % 0x100 else idx

/-- Identity, clocks, power, time (18 R518, R519). -/
def rowsTime : List DRow := [
  ⟨0x1000, 1, 0, 0, 4, .ro, 0⟩, ⟨0x1001, 1, 0, 0, 1, .ro, 0⟩, ⟨0x1008, 1, 0, 0, 0, .ro, 0⟩,
  ⟨0x1014, 1, 0, 0, 4, .rws, 0⟩, ⟨0x1015, 1, 0, 0, 2, .rw, 0⟩, ⟨0x1017, 1, 0, 0, 2, .rw, 100⟩,
  ⟨0x1018, 1, 1, 4, 4, .ro, 0⟩, ⟨0x2000, 1, 1, 1, 2, .ro, 0⟩, ⟨0x2000, 1, 2, 2, 4, .ro, 0⟩,
  ⟨0x2100, 1, 1, 1, 1, .ro, 0⟩, ⟨0x2100, 1, 2, 3, 4, .ro, 0⟩,
  ⟨0x2110, 1, 1, 0x30, 1, .rw, 1⟩, ⟨0x2111, 1, 1, 0x30, 1, .ro, 0⟩,
  ⟨0x2200, 1, 1, 1, 8, .ro, 0⟩, ⟨0x2200, 1, 2, 2, 4, .ro, 0⟩, ⟨0x2200, 1, 3, 3, 4, .rws, 20000⟩,
  ⟨0x2200, 1, 4, 4, 4, .rws, 0⟩, ⟨0x2200, 1, 5, 5, 1, .ro, 0⟩, ⟨0x2200, 1, 6, 6, 1, .ro, 255⟩,
  ⟨0x2200, 1, 7, 7, 8, .ro, 0⟩, ⟨0x2200, 1, 8, 8, 4, .ro, 0⟩, ⟨0x2200, 1, 9, 9, 2, .rw, 1000⟩,
  ⟨0x2200, 1, 0xA, 0xA, 1, .rw, 1⟩, ⟨0x2200, 1, 0xB, 0xC, 4, .ro, 0⟩,
  ⟨0x2200, 1, 0xD, 0xD, 2, .rw, 100⟩, ⟨0x2200, 1, 0xE, 0xE, 1, .rws, 0⟩,
  ⟨0x2201, 1, 1, 1, 1, .rws, 0⟩, ⟨0x2202, 1, 1, 1, 1, .rws, 1⟩, ⟨0x2201, 2, 2, 2, 1, .rws, 0⟩,
  ⟨0x2201, 1, 3, 3, 1, .rws, 1⟩, ⟨0x2202, 1, 3, 3, 1, .rws, 0⟩, ⟨0x2201, 2, 4, 4, 1, .ro, 0⟩,
  ⟨0x2201, 2, 5, 6, 8, .ro, 0⟩, ⟨0x2201, 2, 7, 8, 4, .ro, 0⟩,
  ⟨0x2203, 2, 1, 6, 4, .rws, 0⟩, ⟨0x2205, 1, 1, 4, 4, .rws, 0⟩, ⟨0x2206, 1, 1, 1, 1, .rw, 0⟩,
  ⟨0x2206, 1, 2, 2, 4, .rw, 100000⟩, ⟨0x2206, 1, 3, 3, 4, .rws, 0⟩, ⟨0x2206, 1, 4, 4, 8, .ro, 0⟩,
  ⟨0x2206, 1, 5, 6, 4, .ro, 0⟩]

/-- Ingest, scheduler and commands. -/
def rowsWork : List DRow := [
  ⟨0x2300, 1, 1, 3, 4, .ro, 0⟩, ⟨0x2300, 1, 4, 4, 4, .ro, 12582912⟩, ⟨0x2300, 1, 5, 6, 8, .ro, 0⟩,
  ⟨0x2301, 1, 1, 0x40, 1, .ro, 0⟩, ⟨0x2302, 1, 1, 0x30, 1, .ro, 0⟩, ⟨0x2303, 1, 1, 8, 1, .ro, 0⟩,
  ⟨0x2304, 1, 1, 4, 4, .rws, 0xE44⟩, ⟨0x2310, 1, 1, 1, 1, .rw, 0⟩, ⟨0x2310, 1, 2, 2, 8, .rws, 0⟩,
  ⟨0x2310, 1, 3, 3, 4, .rws, 1024⟩, ⟨0x2310, 1, 4, 5, 8, .rws, 0⟩, ⟨0x2310, 1, 6, 6, 8, .ro, 0⟩,
  ⟨0x2310, 1, 7, 7, 8, .rw, 0⟩, ⟨0x2310, 1, 8, 8, 8, .ro, 0⟩, ⟨0x2330, 4, 1, 0x40, 8, .rws, 0⟩,
  ⟨0x2400, 1, 1, 1, 4, .rw, 100000⟩, ⟨0x2400, 1, 2, 2, 2, .rw, 128⟩, ⟨0x2400, 1, 3, 6, 8, .ro, 0⟩,
  ⟨0x2401, 1, 1, 1, 8, .rws, 0⟩, ⟨0x2401, 1, 2, 4, 8, .ro, 0⟩, ⟨0x2401, 1, 5, 5, 4, .ro, 0⟩,
  ⟨0x2401, 1, 6, 6, 4, .rw, 0x30000⟩, ⟨0x2401, 1, 7, 7, 4, .ro, 0⟩,
  ⟨0x2410, 1, 1, 1, 2, .ro, 0⟩, ⟨0x2410, 1, 2, 2, 4, .ro, 65536⟩, ⟨0x2410, 1, 3, 3, 2, .ro, 0⟩,
  ⟨0x2410, 1, 4, 4, 2, .ro, 32768⟩, ⟨0x2410, 1, 5, 5, 2, .ro, 0⟩, ⟨0x2410, 1, 6, 6, 2, .ro, 1024⟩,
  ⟨0x2410, 1, 7, 7, 1, .ro, 0⟩, ⟨0x2410, 1, 8, 8, 2, .ro, 256⟩,
  ⟨0x2411, 16, 1, 1, 2, .rws, 0⟩, ⟨0x2411, 16, 2, 2, 4, .rws, 0⟩, ⟨0x2411, 16, 3, 6, 2, .rws, 0⟩,
  ⟨0x2411, 16, 7, 7, 1, .rws, 0⟩, ⟨0x2411, 16, 8, 8, 2, .rws, 0⟩,
  ⟨0x2410, 17, 9, 9, 8, .rw, 0⟩, ⟨0x2410, 17, 0xA, 0xA, 4, .rw, 0⟩, ⟨0x2410, 17, 0xB, 0xB, 2, .rw, 0⟩,
  ⟨0x2410, 17, 0xC, 0xC, 4, .rw, 0⟩, ⟨0x2410, 17, 0xD, 0xE, 4, .ro, 0⟩, ⟨0x2410, 17, 0xF, 0xF, 8, .ro, 0⟩,
  ⟨0x2430, 8, 1, 0x80, 1, .rws, 0⟩,
  ⟨0x2440, 64, 1, 1, 1, .rws, 0⟩, ⟨0x2440, 64, 2, 2, 1, .rw, 0⟩, ⟨0x2440, 64, 3, 3, 2, .rws, 0⟩,
  ⟨0x2440, 64, 4, 4, 4, .rw, 20000⟩, ⟨0x2440, 64, 5, 5, 4, .rw, 0⟩, ⟨0x2440, 64, 6, 6, 8, .rws, 0⟩,
  ⟨0x2440, 64, 7, 7, 1, .rws, 1⟩, ⟨0x2440, 64, 8, 8, 1, .rw, 3⟩, ⟨0x2440, 64, 9, 9, 2, .rw, 50⟩,
  ⟨0x2440, 64, 0xA, 0xA, 1, .rw, 0⟩, ⟨0x2440, 64, 0xB, 0xB, 4, .ro, 0⟩]

/-- Memory and arbitration, determinism and safety. -/
def rowsSafety : List DRow := [
  ⟨0x2500, 1, 1, 2, 1, .ro, 0⟩, ⟨0x2500, 1, 3, 3, 8, .ro, 0⟩, ⟨0x2500, 1, 4, 4, 2, .rws, 2048⟩,
  ⟨0x2500, 1, 5, 5, 1, .rws, 2⟩, ⟨0x2500, 1, 6, 6, 2, .rw, 24⟩, ⟨0x2500, 1, 7, 0xB, 8, .ro, 0⟩,
  ⟨0x2501, 1, 1, 4, 2, .rw, 2000⟩, ⟨0x2501, 1, 7, 0x10, 2, .rw, 2000⟩, ⟨0x2510, 1, 1, 0x10, 1, .rw, 4⟩,
  ⟨0x2540, 8, 1, 0x40, 2, .rw, 0x7FFF⟩, ⟨0x2548, 8, 1, 5, 1, .rw, 4⟩,
  ⟨0x2600, 1, 1, 2, 8, .ro, 0⟩, ⟨0x2600, 1, 3, 4, 4, .ro, 0⟩, ⟨0x2600, 1, 5, 5, 1, .rws, 0⟩,
  ⟨0x2600, 1, 6, 7, 8, .rws, 0⟩, ⟨0x2600, 1, 8, 8, 8, .ro, 0⟩, ⟨0x2600, 1, 0xA, 0xA, 2, .rws, 0⟩,
  ⟨0x2600, 1, 0xB, 0xB, 2, .rws, 2000⟩, ⟨0x2600, 1, 0xC, 0xC, 1, .rw, 0⟩, ⟨0x2600, 1, 0xD, 0xD, 1, .wo, 0⟩,
  ⟨0x2600, 1, 0xE, 0xE, 2, .ro, 0⟩, ⟨0x2600, 1, 0xF, 0xF, 4, .rw, 10000⟩, ⟨0x2600, 1, 0x10, 0x10, 1, .wo, 0⟩,
  ⟨0x2601, 1, 1, 4, 2, .ro, 0⟩,
  ⟨0x2700, 1, 1, 1, 1, .ro, 0⟩, ⟨0x2700, 1, 2, 2, 1, .wo, 0⟩, ⟨0x2700, 1, 3, 3, 4, .ro, 0⟩,
  ⟨0x2700, 1, 4, 4, 1, .ro, 255⟩, ⟨0x2700, 1, 5, 5, 2, .rws, 25⟩, ⟨0x2700, 1, 6, 6, 2, .rws, 5⟩,
  ⟨0x2700, 1, 7, 7, 2, .rws, 10⟩, ⟨0x2700, 1, 8, 8, 1, .otl, 0⟩, ⟨0x2700, 1, 9, 0xA, 1, .ro, 0⟩,
  ⟨0x2700, 1, 0xB, 0xB, 4, .ro, 0⟩, ⟨0x2700, 1, 0xC, 0xC, 4, .rw, 20000⟩, ⟨0x2700, 1, 0xD, 0xF, 4, .ro, 0⟩,
  ⟨0x2700, 1, 0x10, 0x10, 8, .ro, 0⟩, ⟨0x2700, 1, 0x11, 0x11, 4, .ro, 0⟩, ⟨0x2700, 1, 0x12, 0x12, 1, .rws, 31⟩,
  ⟨0x2700, 1, 0x13, 0x13, 2, .rw, 256⟩, ⟨0x2700, 1, 0x14, 0x14, 4, .ro, 0⟩, ⟨0x2700, 1, 0x15, 0x15, 1, .ro, 0⟩,
  ⟨0x2700, 1, 0x16, 0x19, 4, .ro, 0⟩, ⟨0x2701, 1, 1, 8, 4, .rws, 0⟩,
  ⟨0x2710, 1, 1, 1, 1, .rw, 0⟩, ⟨0x2710, 1, 2, 2, 2, .rws, 0⟩, ⟨0x2710, 1, 3, 8, 4, .rws, 0⟩,
  ⟨0x2710, 1, 9, 0xA, 8, .ro, 0⟩, ⟨0x2710, 1, 0xB, 0xB, 4, .ro, 0⟩]

/-- Faults and links. -/
def rowsLinks : List DRow := [
  ⟨0x2800, 1, 1, 1, 4, .ro, 0⟩, ⟨0x2800, 1, 2, 2, 2, .ro, 0⟩, ⟨0x2800, 1, 3, 3, 4, .wo, 0⟩,
  ⟨0x2800, 1, 4, 4, 1, .wo, 0⟩, ⟨0x2800, 1, 5, 8, 4, .rw, 1000⟩, ⟨0x2800, 1, 9, 9, 1, .rw, 0x1E⟩,
  ⟨0x2800, 1, 0xA, 0xB, 4, .ro, 0⟩, ⟨0x2800, 1, 0xC, 0xC, 2, .ro, 0⟩, ⟨0x2800, 1, 0xD, 0xD, 1, .ro, 0⟩,
  ⟨0x2800, 1, 0xE, 0xE, 4, .ro, 0⟩, ⟨0x2801, 1, 1, 1, 4, .rw, 0⟩, ⟨0x2801, 1, 2, 2, 0, .ro, 0⟩,
  ⟨0x2802, 1, 1, 5, 8, .ro, 0⟩, ⟨0x2880, 1, 1, 2, 1, .tst, 0⟩, ⟨0x2880, 1, 3, 3, 2, .tst, 0⟩,
  ⟨0x2880, 1, 4, 4, 1, .tst, 0⟩, ⟨0x2880, 1, 5, 5, 1, .tst, 1⟩, ⟨0x2880, 1, 6, 6, 1, .tst, 0⟩,
  ⟨0x2890, 1, 1, 1, 8, .rw, 0⟩, ⟨0x2890, 1, 2, 3, 4, .rw, 0⟩, ⟨0x2890, 1, 4, 4, 2, .rw, 1⟩,
  ⟨0x2890, 1, 5, 5, 1, .rw, 0x1F⟩, ⟨0x2890, 1, 6, 6, 2, .rw, 0⟩, ⟨0x2890, 1, 7, 7, 1, .wo, 0⟩,
  ⟨0x2890, 1, 8, 8, 1, .ro, 0⟩, ⟨0x2890, 1, 9, 9, 4, .ro, 0⟩,
  ⟨0x2900, 1, 1, 1, 1, .rws, 0⟩, ⟨0x2900, 1, 2, 2, 1, .rws, 1⟩, ⟨0x2900, 1, 3, 3, 1, .ro, 0⟩,
  ⟨0x2900, 1, 4, 4, 1, .ro, 255⟩, ⟨0x2900, 1, 5, 5, 1, .rws, 0⟩, ⟨0x2900, 1, 6, 6, 2, .ro, 0⟩,
  ⟨0x2901, 1, 1, 0x10, 1, .rws, 7⟩, ⟨0x2902, 1, 1, 4, 1, .ro, 0⟩, ⟨0x2903, 1, 1, 4, 1, .rws, 0⟩,
  ⟨0x2904, 1, 1, 4, 8, .ro, 0⟩, ⟨0x2905, 1, 1, 4, 4, .ro, 0⟩, ⟨0x2906, 1, 1, 1, 8, .ro, 0⟩,
  ⟨0x2908, 1, 1, 2, 1, .rws, 0⟩, ⟨0x2908, 1, 3, 3, 1, .ro, 0⟩, ⟨0x2908, 1, 4, 5, 1, .wo, 0⟩,
  ⟨0x2908, 1, 6, 6, 1, .rws, 5⟩, ⟨0x2908, 1, 7, 7, 2, .rws, 0⟩, ⟨0x2908, 1, 8, 0xA, 1, .ro, 0⟩,
  ⟨0x2908, 1, 0xB, 0xB, 1, .ro, 255⟩, ⟨0x2908, 1, 0xC, 0xD, 4, .ro, 0⟩,
  ⟨0x2910, 1, 1, 6, 8, .rws, 0⟩, ⟨0x2911, 1, 1, 6, 1, .rws, 0⟩, ⟨0x2912, 1, 1, 6, 8, .ro, 0⟩,
  ⟨0x2913, 1, 1, 0x10, 8, .rws, 0⟩, ⟨0x2914, 1, 1, 6, 1, .ro, 0⟩,
  ⟨0x2918, 1, 1, 1, 1, .rws, 0x40⟩, ⟨0x2918, 1, 2, 2, 4, .rws, 500000⟩,
  ⟨0x2918, 1, 3, 3, 4, .rws, 2000000⟩, ⟨0x2919, 1, 1, 1, 4, .rws, 3000000⟩,
  ⟨0x2920, 32, 1, 1, 2, .rws, 0⟩, ⟨0x2920, 32, 2, 2, 8, .rws, 0⟩, ⟨0x2920, 32, 3, 3, 2, .rws, 1⟩,
  ⟨0x2920, 32, 4, 4, 2, .rws, 145⟩, ⟨0x2920, 32, 5, 5, 2, .rws, 0⟩, ⟨0x2920, 32, 6, 7, 8, .ro, 0⟩,
  ⟨0x2940, 32, 1, 1, 1, .rws, 0⟩, ⟨0x2940, 32, 2, 2, 8, .rws, 0⟩, ⟨0x2940, 32, 3, 3, 2, .rws, 1⟩,
  ⟨0x2940, 32, 4, 4, 2, .rws, 2⟩, ⟨0x2940, 32, 5, 5, 2, .rws, 0⟩, ⟨0x2940, 32, 6, 7, 8, .ro, 0⟩,
  ⟨0x2960, 1, 1, 3, 1, .ro, 0⟩, ⟨0x2960, 1, 4, 4, 8, .ro, 0⟩]

/-- Boot, matrix, attention, set engine, isles, clients. -/
def rowsUnits : List DRow := [
  ⟨0x2A00, 1, 1, 1, 2, .ro, 0⟩, ⟨0x2A00, 1, 2, 2, 8, .rw, 0⟩, ⟨0x2A00, 1, 3, 3, 4, .rw, 4096⟩,
  ⟨0x2A00, 1, 4, 6, 1, .wo, 0⟩, ⟨0x2A00, 1, 7, 7, 1, .rw, 0⟩, ⟨0x2A00, 1, 8, 8, 1, .rws, 0⟩,
  ⟨0x2A00, 1, 9, 0xB, 1, .ro, 0⟩, ⟨0x2A00, 1, 0xC, 0xC, 0, .ro, 0⟩, ⟨0x2A00, 1, 0xD, 0xE, 1, .otl, 0⟩,
  ⟨0x2A10, 1, 1, 1, 0, .ro, 0⟩, ⟨0x2A10, 1, 2, 2, 8, .ro, 0⟩, ⟨0x2A11, 1, 1, 4, 0, .ro, 0⟩,
  ⟨0x2A20, 1, 1, 1, 1, .ro, 0⟩, ⟨0x2A20, 1, 2, 2, 1, .rw, 0⟩, ⟨0x2A20, 1, 3, 3, 8, .ro, 0⟩,
  ⟨0x2A21, 1, 1, 3, 1, .ro, 0⟩,
  ⟨0x2B00, 1, 1, 1, 2, .ro, 0⟩, ⟨0x2B00, 1, 2, 2, 4, .rw, 0⟩, ⟨0x2B00, 1, 3, 3, 1, .rw, 0⟩,
  ⟨0x2B00, 1, 4, 4, 1, .rws, 0⟩, ⟨0x2B00, 1, 5, 6, 2, .ro, 0⟩, ⟨0x2B00, 1, 7, 7, 8, .ro, 0⟩,
  ⟨0x2B40, 64, 1, 1, 4, .rws, 0x10804⟩, ⟨0x2B40, 64, 2, 2, 8, .rws, 0⟩, ⟨0x2B40, 64, 3, 3, 4, .rws, 0⟩,
  ⟨0x2B40, 64, 4, 4, 8, .rws, 0⟩, ⟨0x2B40, 64, 5, 7, 4, .ro, 0⟩,
  ⟨0x2B80, 1, 1, 1, 4, .rw, 0⟩, ⟨0x2B80, 1, 2, 4, 8, .ro, 0⟩,
  ⟨0x3010, 1, 1, 4, 4, .ro, 0⟩, ⟨0x3010, 1, 5, 5, 1, .ro, 0⟩, ⟨0x3011, 6, 1, 4, 8, .ro, 0⟩,
  ⟨0x3017, 1, 1, 2, 8, .ro, 0⟩, ⟨0x3020, 1, 1, 0x40, 1, .rw, 0x77⟩, ⟨0x3021, 1, 1, 0xB, 1, .rw, 4⟩,
  ⟨0x3022, 1, 1, 2, 8, .ro, 0⟩, ⟨0x3023, 1, 1, 4, 8, .ro, 0⟩,
  ⟨0x4000, 256, 1, 1, 2, .rw, 256⟩, ⟨0x4000, 256, 2, 2, 2, .rws, 0⟩, ⟨0x4000, 256, 3, 3, 2, .rws, 32768⟩,
  ⟨0x4000, 256, 4, 4, 8, .rws, 0⟩, ⟨0x4000, 256, 5, 5, 4, .rw, 0xFFFFFFFF⟩, ⟨0x4000, 256, 6, 8, 8, .ro, 0⟩,
  ⟨0x4000, 256, 9, 0xA, 4, .ro, 0⟩, ⟨0x4000, 256, 0xB, 0xB, 2, .ro, 256⟩, ⟨0x4000, 256, 0xC, 0xC, 4, .ro, 0⟩,
  ⟨0x4000, 256, 0xD, 0xD, 1, .ro, 0⟩, ⟨0x4000, 256, 0xE, 0xF, 8, .ro, 0⟩, ⟨0x4000, 256, 0x10, 0x10, 2, .ro, 0⟩,
  ⟨0x4000, 256, 0x11, 0x11, 8, .rw, 0⟩]

/-- The whole map. -/
def odRows : List DRow := rowsTime ++ rowsWork ++ rowsSafety ++ rowsLinks ++ rowsUnits

/-- Whether a row lists an index. -/
def DRow.hasIdx (r : DRow) (idx : Nat) : Bool :=
  decide (r.idx ≤ foldIsle idx) && decide (foldIsle idx < r.idx + r.n)

/-- Whether the map lists an index (18 R510 check 2). -/
def odHasIndex (idx : Nat) : Bool := odRows.any fun r => r.hasIdx idx

/-- The row of an entry. -/
def odRow (idx sub : Nat) : Option DRow :=
  odRows.find? fun r => r.hasIdx idx && decide (r.lo ≤ sub) && decide (sub ≤ r.hi)

/-- Highest subindex that an index defines (18 R509). -/
def odTopSub (idx : Nat) : Nat := (odRows.filter fun r => r.hasIdx idx).foldl (fun a r => max a r.hi) 0

/-- The default of an entry; UmpireBlock's is by variant (14 R431). -/
def odDefault (p : Part) (idx sub : Nat) : Nat :=
  if idx = 0x2700 ∧ sub = 0x12 then
    (match p.variant with
     | .cx960 => 31
     | .cx940 => 23
     | .cx920 => 15)
  else match odRow idx sub with
    | some r => r.dflt
    | none => 0

/-! ## Clamping (18 R511) -/

/-- Lowest and highest legal value of a plain numeric entry; entries with field maps and entries with
rules of their own are clamped by `odClamp`. -/
def odRange (idx sub : Nat) : Option (Nat × Nat) :=
  let f := foldIsle idx
  if idx = 0x2110 then some (0, 1)
  else if idx = 0x2200 then
    (if sub = 3 then some (10000, 50000) else if sub = 9 then some (1, 1000) else if sub = 0xA then some (0, 1)
     else if sub = 0xD then some (10, 2000) else if sub = 0xE then some (0, 1) else none)
  else if idx = 0x2201 ∨ idx = 0x2202 then
    (if sub = 1 then some (0, 127) else if sub = 2 then some (0, 5) else if sub = 3 then some (0, 1) else none)
  else if idx = 0x2206 then
    (if sub = 1 then some (0, 2) else if sub = 2 then some (1, 500000) else none)
  else if idx = 0x2310 then
    (if sub = 1 then some (0, 1) else if sub = 3 then some (1024, 268435456) else none)
  else if idx = 0x2400 then
    (if sub = 1 then some (1000, 100000000) else if sub = 2 then some (16, 512) else none)
  else if 0x2410 ≤ idx ∧ idx ≤ 0x2420 then
    (if sub = 2 then some (0, 65536) else if sub = 3 then some (0, 32767) else if sub = 4 then some (0, 32768)
     else if sub = 5 then some (0, 1023) else if sub = 6 then some (0, 1024) else if sub = 8 then some (0, 256)
     else none)
  else if 0x2440 ≤ idx ∧ idx < 0x2480 then
    (if sub = 2 then some (0, 1) else if sub = 3 then some (0, 32767) else if sub = 4 then some (1, 200000)
     else if sub = 5 then some (0, 200000) else if sub = 7 then some (1, 4) else if sub = 8 then some (1, 255)
     else if sub = 9 then some (1, 65535) else none)
  else if idx = 0x2500 then
    (if sub = 4 then some (512, 16384) else if sub = 5 then some (1, 2) else if sub = 6 then some (1, 168) else none)
  else if idx = 0x2501 then some (100, 65535)
  else if idx = 0x2510 ∨ (0x2548 ≤ idx ∧ idx < 0x2550) ∨ f = 0x3021 then some (0, 7)
  else if idx = 0x2600 then
    (if sub = 5 ∨ sub = 0xC then some (0, 1) else if sub = 0xA then some (0, 32767)
     else if sub = 0xB then some (16, 65535) else if sub = 0xF then some (100, 10000000) else none)
  else if idx = 0x2700 then
    (if sub = 5 then some (10, 40) else if sub = 6 then some (2, 8) else if sub = 7 then some (1, 100)
     else if sub = 8 then some (0, 1) else if sub = 0xC then some (1000, 50000) else if sub = 0x12 then some (0, 31)
     else none)
  else if idx = 0x2710 then
    (if sub = 1 then some (0, 1) else if sub = 2 then some (0, 1023) else none)
  else if idx = 0x2800 then (if 5 ≤ sub ∧ sub ≤ 8 then some (10, 16000) else none)
  else if idx = 0x2880 then (if sub = 4 then some (0, 1) else if sub = 5 then some (1, 255) else none)
  else if idx = 0x2890 then (if sub = 4 then some (1, 1024) else if sub = 6 then some (0, 32767) else none)
  else if idx = 0x2900 then
    (if sub = 1 then some (0, 15) else if sub = 2 ∨ sub = 5 then some (0, 1) else none)
  else if idx = 0x2903 then some (0, 1)
  else if idx = 0x2908 then
    (if sub ≤ 2 then some (0, 1) else if sub = 6 then some (2, 50) else if sub = 7 then some (0, 32767) else none)
  else if idx = 0x2918 then
    (if sub = 1 then some (1, 127) else if sub = 2 then some (125000, 1000000)
     else if sub = 3 then some (1000000, 8000000) else none)
  else if idx = 0x2919 then some (9600, 3000000)
  else if 0x2920 ≤ idx ∧ idx < 0x2940 then
    (if sub = 3 then some (1, 4096) else if sub = 4 then some (1, 1024) else if sub = 5 then some (0, 32767) else none)
  else if 0x2940 ≤ idx ∧ idx < 0x2960 then
    (if sub = 1 then some (0, 1) else if sub = 3 then some (1, 4096) else if sub = 4 then some (2, 1025)
     else if sub = 5 then some (0, 32767) else none)
  else if idx = 0x2A00 then
    (if sub = 3 then some (4096, 67108864) else if sub = 7 ∨ sub = 8 then some (0, 1) else none)
  else if idx = 0x2B00 then (if sub = 3 then some (0, 1) else if sub = 4 then some (0, 2) else none)
  else if 0x2B40 ≤ idx ∧ idx < 0x2B80 then (if sub = 3 then some (0, 1048576) else none)
  else if 0x4000 ≤ idx ∧ idx < 0x4100 then (if sub = 2 then some (0, 32767) else none)
  else none

/-- Largest power of two not above `v`, for `v < 2^17`. -/
def pow2Below (v : Nat) : Nat := if v = 0 then 0 else 2 ^ Nat.log2 v

/-- OwnER codes of a RouterSlot: 5 and 6 become 7 (12 R355). -/
def clampRouter (v : Nat) : Nat :=
  sumN (tab 5 fun o => (if bitsN v (3 * o) 3 = 5 ∨ bitsN v (3 * o) 3 = 6 then 7 else bitsN v (3 * o) 3) * 2 ^ (3 * o))

/-- A reserved IsleSlot owner becomes 7 (12 R354). -/
def clampIsleSlot (v : Nat) : Nat :=
  let l := bitsN v 0 3
  let s := bitsN v 4 3
  (if l = 5 ∨ l = 6 then 7 else l) + (if s = 6 then 7 else s) * 16

/-- Whether a 32-bit pattern is an FP32 NaN. -/
def isNan32 (v : Nat) : Bool := decide (bitsN v 23 8 = 255) && decide (bitsN v 0 23 ≠ 0)

/-- The value stored when `v` is written (18 R511); `cur k` reads another entry of the dictionary. -/
def odClamp (cur : Nat → Nat → Nat) (idx sub v : Nat) : Nat :=
  let f := foldIsle idx
  if idx = 0x1014 then clampN 1 0x7FF (bitsN v 0 11) + bitsN v 31 1 * 2 ^ 31
  else if idx = 0x2200 ∧ sub = 4 then min v (cur 0x2200 3 - 1)
  else if idx = 0x2304 then
    (let l := bitsN v 0 3
     (if l ≥ 4 then 4 else if l ≥ 2 then 2 else 1) + bitsN v 3 14 * 8)
  else if idx = 0x2310 ∧ sub = 5 then v - v % 64
  else if 0x2330 ≤ idx ∧ idx < 0x2334 then min (bitsN v 0 3) 5 + bitsN v 3 1 * 8 + bitsN v 16 48 * 2 ^ 16
  else if 0x2410 ≤ idx ∧ idx ≤ 0x2420 ∧ sub = 0xA then
    (if v = 0 then 0 else if v < 64 then 64 else if v > 65536 then 65536 else pow2Below v)
  else if 0x2410 ≤ idx ∧ idx ≤ 0x2420 ∧ sub = 0xB then
    min v (if idx = 0x2410 ∨ (idx = 0x2419 ∧ cur 0x2960 1 = 1) then 15 else 3)
  else if 0x2430 ≤ idx ∧ idx < 0x2438 then
    (let w := min (bitsN v 0 4) 3
     let r := min (bitsN v 4 4) 3
     w + (if r = 2 then 0 else r) * 16)
  else if 0x2440 ≤ idx ∧ idx < 0x2480 ∧ sub = 0xA then min v (cur idx 7 - 1)
  else if 0x2540 ≤ idx ∧ idx < 0x2548 then clampRouter v
  else if idx = 0x2700 ∧ sub = 0x13 then (if 1 ≤ v ∧ v ≤ 15 then 16 else v)
  else if idx = 0x2710 ∧ 3 ≤ sub ∧ sub ≤ 8 then (if isNan32 v then 0 else v)
  else if idx = 0x2800 ∧ sub = 9 then bitsN v 0 5
  else if idx = 0x2901 then (if 4 ≤ v then 7 else v)
  else if idx = 0x2910 then bitsN v 0 48
  else if idx = 0x2911 then bitsN v 0 1 + min (bitsN v 1 2) 2 * 2
  else if idx = 0x2913 then bitsN v 0 54
  else if 0x2920 ≤ idx ∧ idx < 0x2940 ∧ sub = 1 then
    min (bitsN v 0 3) 5 + bitsN v 3 10 * 8 + bitsN v 14 2 * 2 ^ 14
  else if idx = 0x2A00 ∧ sub = 3 then clampN 4096 67108864 (v - v % 64)
  else if 0x2B40 ≤ idx ∧ idx < 0x2B80 ∧ sub = 1 then
    (let fmt := bitsN v 0 4
     (if fmt = 0 ∨ fmt = 2 ∨ fmt = 3 ∨ fmt = 5 then fmt else 4) + clampN 1 16 (bitsN v 8 5) * 2 ^ 8 + clampN 1 16 (bitsN v 16 5) * 2 ^ 16)
  else if f = 0x3020 then clampIsleSlot v
  else if 0x4000 ≤ idx ∧ idx < 0x4100 ∧ sub = 3 then clampN 1 (32768 - cur idx 2) v
  else match odRange idx sub with
    | some (lo, hi) => clampN lo hi v
    | none => v

end Sys2Proof.Machine
end

