-- ==== Sys2Proof/Config.lean ====
section
/-! DEFINITION. What the spec fixes for no part and leaves open: the FREE VALUES. Each is an opaque
constant without a body, so nothing can be proved of its value and a claim holds whatever it is. The
log entry named at each says where the spec leaves it open. -/

namespace Sys2Proof.Config

/-- What a byte of scratch or lagoon holds that nothing has written since its domain's `gen`-th
power-up (01 R43). Log 3. -/
opaque undefByte (gen addr : Nat) : BitVec 8

/-- What a byte of host memory holds that the device has not written. Log 4. -/
opaque hostByte (addr : Nat) : BitVec 8

/-- A fresh undefined byte written where a rule leaves a destination undefined (07 R228, 14 R410).
Log 5. -/
opaque freeByte (n addr : Nat) : BitVec 8

/-- Engine cycles of a command (10 R299 CYCLES) and cycle counters: timing. Log 6. -/
opaque cycles (n : Nat) : Nat

/-- The row that a DRAM bank had open is no longer open at access `n` of the controllers (12 R366); the age in ns that read `n` of
theirs reaches (12 R365): timing. Log 105. -/
opaque rowClosed (n : Nat) : Bool
/-- See `rowClosed`. -/
opaque readAge (n : Nat) : Nat

/-- What the servo of 09 R273 makes of the selected domain's rate, in parts per 10^9: its estimate, and the
correction it drives towards zero offset with. The servo's law is not given. Log 16. -/
opaque rateEstimate (n : Nat) : Int
/-- See `rateEstimate`. -/
opaque servoTrim (n : Nat) : Int
/-- Delay of a transmission's start-of-frame delimiter after the moment at which it is asked for, in 2⁻¹⁶ ns (09 R276).
Log 16. -/
opaque sendDelay (n : Nat) : Nat

/-- Which of the FP32 values within two units in the last place of the exact one the vector unit's exp2 (0), log2 (1),
reciprocal (2) or reciprocal square root (3) gives, at one ArithLevel; and the result where no exact value exists: one
fixed algorithm that 02 R77 does not give. Log 7. -/
opaque vectorUnit (level op : Nat) (x : BitVec 32) : Nat

/-- Area of the clipped intersection of two rotated boxes (07 R223), at one ArithLevel. Log 8. -/
opaque rotatedInter (level : Nat) (a b : List (BitVec 32)) : BitVec 32

/-- Which of `count` terms or partial sums of an unordered sum arrives next, and which source row wins an unordered
SCATTER REPLACE (07 R226). Log 9. -/
opaque arrivalPick (n count : Nat) : Nat

/-- An INT32 element multiplied by an FP32 edge weight (07 R216): the spec states no result. Log 15. -/
opaque intWeighted (x w : BitVec 32) : BitVec 32

/-- Colour of one pixel by the fixed demosaic of 08 R239 stage 4, at one ArithLevel: the colour-filter
pattern, the pixel's position in it, the channel (0 R, 1 G, 2 B), and the 5 x 5 neighbourhood in row order,
with none beyond the frame's edge. Log 10. -/
opaque demosaic (level cfa pos chan : Nat) (nbh : List (Option Nat)) : BitVec 16

/-- Which of the values that 08 R239 leaves possible the fixed BT.709 limited-range rule gives for a YUV pixel, at one
ArithLevel: RAW_FMT, the pixel's place relative to its chroma sample, the channel, its luma, and the chroma pairs of the 3 x
3 chroma samples around its own, with none beyond the edge. Log 10. -/
opaque yuvToRgb (level fmt place chan y : Nat) (chroma : List (Option (Nat × Nat))) : Nat

/-- The FP32 luma of an RGB sample, where it lies within the bounds of 08 R239 (stage 7 with MONO). Log 10. -/
opaque luma (level : Nat) (rgb : List (BitVec 32)) : BitVec 32

/-- A byte of a decoded picture: stream, arming number, picture number, offset (08 R244). Log 11. -/
opaque decodedByte (stream arming pic off : Nat) : BitVec 8

/-- The low 132 bytes of an ECDSA P-521 signature by the part's identity key over a message
(15 R450, 17 R492). Log 12. -/
opaque identitySign (n : Nat) (msg : List (BitVec 8)) (i : Nat) : BitVec 8

/-- Emwick Silicon's JEDEC manufacturer identity (16 R478). Log 13. -/
opaque jedecId : BitVec 11

/-- What a NaN scale field of AT.SEQ clamps to: no positive normal value is nearest (06 R179). Log 14. -/
opaque nanScale (w : BitVec 16) : BitVec 16

/-- What the fuses hold after a write whose read-back failed (17 R491), within what the fuses allow. Log 29. -/
opaque fuseHeld (n : Nat) : Nat

end Sys2Proof.Config
end

