-- ==== Sys2Proof/Machine/Memory.lean ====
section
/-! DEFINITION. Device and host memory (12 R341-R347, R535, R537): the byte address map, what an
unlisted byte reads as, writes, poison, loss at power-off, and the canonical form. -/

namespace Sys2Proof.Machine

/-- Memory as a list of cells. -/
abbrev Memory := List Host.Cell

/-! ## The address map in bytes (12 R341) -/

/-- First byte above the DRAM window of the device address space: 64 × 0x0001_0000_0000. -/
def dramTop : Nat := 64 * 0x100000000

/-- First byte of the lagoon of isle `i`. -/
def lagoonBase (i : Nat) : Nat := 64 * (0x100000000 + 0x20000 * i)

/-- First byte of the scratch of block `b`, numbered isle × 4 + block. -/
def scratchBase (b : Nat) : Nat := 64 * (0x110000000 + 0x8000 * b)

/-- Bytes of a lagoon: 8 MiB. -/
def lagoonSize : Nat := 64 * 0x20000

/-- Bytes of a scratch: 2 MiB. -/
def scratchSize : Nat := 64 * 0x8000

/-- Which memory a byte address names. -/
inductive Region where
  | dram
  | lagoon (i : Nat)
  | scratch (b : Nat)
  | nowhere
  deriving DecidableEq, Repr

/-- The region of a byte address. -/
def regionOf (a : Nat) : Region :=
  if a < dramTop then .dram
  else if a < lagoonBase 8 then .lagoon ((a - dramTop) / lagoonSize)
  else if a < scratchBase 0 then .nowhere
  else if a < scratchBase 32 then .scratch ((a - scratchBase 0) / scratchSize)
  else .nowhere

/-- Power-up number key of a region: block `b` at `b`, lagoon `i` at 32 + i. -/
def regionKey : Region → Nat
  | .dram => 40
  | .lagoon i => 32 + i
  | .scratch b => b
  | .nowhere => 41

/-! ## Reading -/

/-- The listed byte at `a`, if any. -/
def cellAt (a : Nat) : Memory → Option Byte
  | [] => none
  | (k, b) :: m => if k = a then some b else cellAt a m

/-- What an unlisted device byte reads as: zero in DRAM (12 R537), a free value elsewhere (01 R43,
log 3). -/
def unlisted (gens : SMap Nat) (a : Nat) : Byte :=
  if a < dramTop then 0 else Config.undefByte (look 0 (regionKey (regionOf a)) gens) a

/-- One byte of device memory. -/
def devByte (m : Mems) (a : Nat) : Byte :=
  match cellAt a m.dev with
  | some b => b
  | none => unlisted m.gens a

/-- `n` bytes of device memory from `a`. -/
def devBytes (m : Mems) (a n : Nat) : List Byte := tab n fun i => devByte m (a + i)

/-- A little-endian number of `n` bytes at `a`. -/
def devNat (m : Mems) (a n : Nat) : Nat := ofLE (devBytes m a n)

/-- One byte of host memory; unlisted bytes are a free value (log 4). -/
def hostByte (m : Mems) (a : Nat) : Byte :=
  match cellAt a m.host with
  | some b => b
  | none => Config.hostByte a

/-- `n` bytes of host memory from bus address `a`. -/
def hostBytes (m : Mems) (a n : Nat) : List Byte := tab n fun i => hostByte m (a + i)

/-! ## Writing -/

/-- Whether a device cell is worth listing: a zero in DRAM is not. -/
def devKeep (a : Nat) (b : Byte) : Bool := !(decide (a < dramTop) && decide (b = 0))

/-- Whether a host cell is worth listing: always. -/
def hostKeep (_ : Nat) (_ : Byte) : Bool := true

/-- Write one byte, in order, keeping only cells that `keep` admits. -/
def putCell (keep : Nat → Byte → Bool) (a : Nat) (b : Byte) : Memory → Memory
  | [] => if keep a b then [(a, b)] else []
  | (k, c) :: m =>
    if k = a then (if keep a b then (a, b) :: m else m)
    else if a < k then (if keep a b then (a, b) :: (k, c) :: m else (k, c) :: m)
    else (k, c) :: putCell keep a b m

/-- Write bytes from `a` upwards. -/
def putBytes (keep : Nat → Byte → Bool) (a : Nat) : List Byte → Memory → Memory
  | [], m => m
  | b :: bs, m => putBytes keep (a + 1) bs (putCell keep a b m)

/-- Whether `lo ≤ a < lo + n`. -/
def inSpan (lo n a : Nat) : Bool := decide (lo ≤ a) && decide (a < lo + n)

/-- Drop every cell of a span. -/
def dropSpan (lo n : Nat) (m : Memory) : Memory := m.filter fun c => !inSpan lo n c.1

/-! ## Poison (12 R535) -/

/-- Bytes of the word that carries one poison mark: 64 in DRAM, 8 in scratch and lagoons. -/
def wordSize (a : Nat) : Nat := if a < dramTop then 64 else 8

/-- The word or unit of a byte address. -/
def wordOf (a : Nat) : Nat := a - a % wordSize a

/-- Marks left after `n` bytes are written at `a`: words written whole are cleared. -/
def unpoison (a n : Nat) (p : List Nat) : List Nat :=
  p.filter fun w => !(decide (a ≤ w) && decide (w + wordSize w ≤ a + n))

/-- Whether any byte of the span lies in a poisoned word. -/
def poisonedIn (m : Mems) (a n : Nat) : Bool :=
  m.poison.any fun w => decide (w < a + n) && decide (a < w + wordSize w)

/-! ## Posted effects -/

/-- Apply one memory effect. -/
def applyOp (m : Mems) : MemOp → Mems
  | .dev a bs => { m with dev := putBytes devKeep a bs m.dev, poison := unpoison a bs.length m.poison }
  | .poison a => { m with poison := insNat (wordOf a) m.poison }
  | .host a bs => { m with host := putBytes hostKeep a bs m.host }
  | .undef a n k =>
    { m with
      dev := putBytes devKeep a (tab n fun i => Config.freeByte k (a + i)) m.dev
      poison := unpoison a n m.poison }
  | .lose g a n =>
    { m with
      dev := dropSpan a n m.dev
      poison := unpoison a n m.poison
      gens := tweak 0 g (· + 1) m.gens }
  | .zero a n => { m with dev := dropSpan a n m.dev, poison := unpoison a n m.poison }

/-- Apply posted effects in order. -/
def applyOps (m : Mems) : List MemOp → Mems
  | [] => m
  | o :: os => applyOps (applyOp m o) os

/-! ## The canonical form -/

/-- Addresses strictly rise and every cell is one worth listing. -/
def memWf (keep : Nat → Byte → Bool) : Memory → Bool
  | [] => true
  | (a, b) :: m => keep a b && m.all (fun c => decide (a < c.1)) && memWf keep m

/-- Strictly rising numbers. -/
def rising : List Nat → Bool
  | [] => true
  | a :: l => l.all (fun b => decide (a < b)) && rising l

/-- Memory in canonical form: both cell lists and the marks. -/
def Memory.wf (m : Mems) : Bool :=
  memWf devKeep m.dev && memWf hostKeep m.host && rising m.poison && tidy 0 m.gens

end Sys2Proof.Machine
end

