-- ==== Sys2Proof/Machine/Ops.lean ====
section
/-! DEFINITION. The one way a command changes the state, and the registers' accessors. A meaning is a
function of a read-only view (part, fuses, memory) from control state to control state; it posts its
memory effects, and `act` applies them. -/

namespace Sys2Proof.Machine

/-- What a meaning may read besides the control state. -/
structure View where
  part : Part
  fuses : Fuses
  mems : Mems
  deriving DecidableEq, Repr

/-- The view of a state. -/
def State.view (s : State) : View := ⟨s.part, s.fuses, s.mems⟩

/-- Control state as a step finds it: nothing posted, nothing driven yet. -/
def Ctl.fresh (c : Ctl) : Ctl := { c with posted := [], out := [], msgs := [] }

/-- State whose posted memory effects have been applied. -/
def State.settleMem (s : State) : State :=
  { s with mems := applyOps s.mems s.ctl.posted, ctl := { s.ctl with posted := [] } }

/-! ## Posting and free values -/

/-- Post a memory effect. -/
def post (o : MemOp) (c : Ctl) : Ctl := { c with posted := c.posted ++ [o] }

/-- Post several memory effects. -/
def postAll (os : List MemOp) (c : Ctl) : Ctl := { c with posted := c.posted ++ os }

/-- Drive or answer something. -/
def emit (o : Out) (c : Ctl) : Ctl := { c with out := c.out ++ [o] }

/-- Number of the next free value, and the control state that has drawn it (log 5). -/
def draw (c : Ctl) : Nat × Ctl := (c.free, { c with free := c.free + 1 })

/-- Write a location in device or host memory (10 R287 RING_LOC, CPL_LOC). -/
def postAt (host : Bool) (a : Nat) (bs : List Byte) (c : Ctl) : Ctl :=
  post (if host then .host a bs else .dev a bs) c

/-- Read bytes at a device or host location. -/
def readAt (v : View) (host : Bool) (a n : Nat) : List Byte :=
  if host then hostBytes v.mems a n else devBytes v.mems a n

/-- A span of device memory becomes undefined: fresh free values. -/
def postUndef (a n : Nat) (c : Ctl) : Ctl :=
  post (.undef a n c.free) { c with free := c.free + 1 }

/-! ## Dictionary values -/

/-- Stored value of an entry. -/
def odVal (p : Part) (c : Ctl) (idx sub : Nat) : Nat := look (odDefault p idx sub) (odKey idx sub) c.od

/-- Store a value. -/
def odSet (p : Part) (idx sub v : Nat) (c : Ctl) : Ctl :=
  { c with od := stow (odDefault p idx sub) (odKey idx sub) v c.od }

/-- RWS value in effect (17 R495): what the last exit from setup applied. -/
def effVal (p : Part) (c : Ctl) (idx sub : Nat) : Nat := look (odDefault p idx sub) (odKey idx sub) c.eff

/-- A device counter of `w` bits grows by `k` and saturates (10 R317, 14 R431, 15 R453, 16 R480). -/
def bump (p : Part) (idx sub w k : Nat) (c : Ctl) : Ctl :=
  odSet p idx sub (satN w (odVal p c idx sub + k)) c

/-- OR bits into a flag entry (02 R82, 07 R230). -/
def orFlags (p : Part) (idx sub bits : Nat) (c : Ctl) : Ctl :=
  odSet p idx sub (odVal p c idx sub ||| bits) c

/-! ## Components -/

/-- Queue `q`. -/
def getQ (c : Ctl) (q : Nat) : Queue := look {} q c.queues
/-- Change queue `q`. -/
def modQ (q : Nat) (f : Queue → Queue) (c : Ctl) : Ctl := { c with queues := tweak {} q f c.queues }
/-- Block `b`. -/
def getB (c : Ctl) (b : Nat) : Block := look {} b c.blocks
/-- Change block `b`. -/
def modB (b : Nat) (f : Block → Block) (c : Ctl) : Ctl := { c with blocks := tweak {} b f c.blocks }
/-- Sequence entry `n`. -/
def getSeq (c : Ctl) (n : Nat) : Seq := look {} n c.seqs
/-- Change sequence entry `n`. -/
def modSeq (n : Nat) (f : Seq → Seq) (c : Ctl) : Ctl := { c with seqs := tweak {} n f c.seqs }
/-- Message FIFO `f`. -/
def getFifo (c : Ctl) (n : Nat) : Fifo := look {} n c.fifos
/-- Change message FIFO `n`. -/
def modFifo (n : Nat) (f : Fifo → Fifo) (c : Ctl) : Ctl := { c with fifos := tweak {} n f c.fifos }
/-- Value of sync object `n`. -/
def getSync (c : Ctl) (n : Nat) : Nat := look 0 n c.syncs
/-- Function `n`. -/
def getFn (c : Ctl) (n : Nat) : Fn := look {} n c.links.fns
/-- Change function `n`. -/
def modFn (n : Nat) (f : Fn → Fn) (c : Ctl) : Ctl :=
  { c with links := { c.links with fns := tweak {} n f c.links.fns } }
/-- Change the time unit. -/
def modTime (f : Time → Time) (c : Ctl) : Ctl := { c with time := f c.time }
/-- Change the safety cluster. -/
def modSafety (f : Safety → Safety) (c : Ctl) : Ctl := { c with safety := f c.safety }
/-- Change the fault system. -/
def modFaults (f : Faults → Faults) (c : Ctl) : Ctl := { c with faults := f c.faults }
/-- Change boot. -/
def modBoot (f : Boot → Boot) (c : Ctl) : Ctl := { c with boot := f c.boot }
/-- Change power. -/
def modPower (f : Power → Power) (c : Ctl) : Ctl := { c with power := f c.power }
/-- Change the scheduler. -/
def modSched (f : Sched → Sched) (c : Ctl) : Ctl := { c with sched := f c.sched }
/-- Change the links. -/
def modLinks (f : Links → Links) (c : Ctl) : Ctl := { c with links := f c.links }
/-- Change the journal. -/
def modJournal (f : Journal → Journal) (c : Ctl) : Ctl := { c with journal := f c.journal }

/-! ## Variant and presence (00 R2-R8, 01 R38) -/

/-- Isles present. -/
def isles (p : Part) : Nat :=
  match p.variant with
  | .cx960 => 8
  | .cx940 => 6
  | .cx920 => 4

/-- OD VariantCode (00 R7). -/
def variantCode (p : Part) : Nat :=
  match p.variant with
  | .cx960 => 0x0960
  | .cx940 => 0x0940
  | .cx920 => 0x0920

/-- OD UnitPresence (00 R8). -/
def unitPresence (p : Part) : Nat :=
  match p.variant with
  | .cx960 => 0x000C3FFF
  | .cx940 => 0x00080D3F
  | .cx920 => 0x0008040F

/-- The video decode engine is present. -/
def hasVd (p : Part) : Bool := (unitPresence p).testBit 8
/-- Training support is present. -/
def hasTrain (p : Part) : Bool := (unitPresence p).testBit 9
/-- Causeway `n` is present. -/
def hasCw (p : Part) (n : Nat) : Bool := decide (n < 4) && (unitPresence p).testBit (10 + n)
/-- Block `b` (isle × 4 + block) is present. -/
def hasBlock (p : Part) (b : Nat) : Bool := decide (b < 4 * isles p)
/-- Switched domain `d` is present (01 R38). -/
def hasDomain (p : Part) (d : Nat) : Bool :=
  if d < 40 then decide (d / 5 < isles p) else if d = 40 then hasVd p else decide (d < 48)

/-- Domain of block `b`. -/
def blockDomain (b : Nat) : Nat := 5 * (b / 4) + b % 4
/-- Domain of the lagoon of isle `i`. -/
def lagoonDomain (i : Nat) : Nat := 5 * i + 4

/-- State of a power domain. -/
def pdOf (c : Ctl) (d : Nat) : Pd := look .off d c.power.pd
/-- Whether a domain serves its units: on, and no shut-down under way. -/
def pdOn (c : Ctl) (d : Nat) : Bool := decide (pdOf c d = .on)
/-- Set the state of a domain. -/
def setPd (d : Nat) (s : Pd) (c : Ctl) : Ctl := modPower (fun p => { p with pd := stow .off d s p.pd }) c

/-- DramUsableBytes (12 R361): 31/32 of the population. -/
def usableBytes (p : Part) (c : Ctl) : Nat :=
  2 * odVal p c 0x2500 1 * odVal p c 0x2500 2 * 2 ^ 27 / 32 * 31

/-- Bytes of DRAM data below the device reserve (12 R341). -/
def dramLimit (p : Part) (c : Ctl) : Nat := usableBytes p c - 2 ^ 28

/-- Fenced units (15 R437, R443, R453). A fenced isle fences its four blocks. -/
def fencedUnit (c : Ctl) (u : Nat) : Bool :=
  if u < 32 then c.faults.fencedBlocks.testBit u
  else if u < 40 then c.faults.fencedOther.testBit (u - 32)
  else if u < 45 then c.faults.fencedOther.testBit (u - 32)
  else false

/-- Unit present (15 R437). -/
def hasUnit (p : Part) (u : Nat) : Bool :=
  if u < 32 then hasBlock p u
  else if u < 40 then decide (u - 32 < isles p)
  else if u = 0x2A then hasVd p
  else decide (u ≤ 0x3F)

/-! ## Injected checks (15 R448) -/

/-- An injection is pending for one of the mechanisms on a unit, in test mode. -/
def injected (c : Ctl) (ms : List Nat) (unit : Nat) : Bool :=
  c.boot.testActive && decide (0 < c.faults.injLeft) && ms.contains c.faults.injMech && decide (c.faults.injUnit = unit)

/-- One check has consumed an injection. -/
def useInjection (c : Ctl) : Ctl := modFaults (fun f => { f with injLeft := f.injLeft - 1 }) c

/-! ## Modes -/

/-- The device serves doorbells (10 R292): service, and no safe state or failure. -/
def serving (c : Ctl) : Bool := decide (c.safety.mode = .inService) || decide (c.safety.mode = .debugHold)

/-- Fusion-time value now. -/
def now (c : Ctl) : Nat := c.time.value

/-- One microsecond in units of the fusion-time value, 2^-16 ns (09 R259). -/
def us : Nat := 65536000

end Sys2Proof.Machine
end

