-- ==== Sys2Proof/Machine/Dram.lean ====
section
/-! DEFINITION. The DRAM controllers (12 R358-R368): where a data unit lies, in-band codes and their caches, activates and
refresh management, as the accesses of the device drive them. -/

namespace Sys2Proof.Machine

/-! ## Places (12 R360, R361) -/

/-- Channels per half. -/
def channels (p : Part) (c : Ctl) : Nat := odVal p c 0x2500 1

/-- DRAM half (0 or 1) of a data unit. -/
def halfOf (unit : Nat) : Nat := unit / 4 % 2

/-- Channel within the half. -/
def chanOf (p : Part) (c : Ctl) (unit : Nat) : Nat := unit / 8 % max 1 (channels p c)

/-- Number of a granule within its channel. -/
def granuleOf (p : Part) (c : Ctl) (unit : Nat) : Nat := unit / 8 / max 1 (channels p c)

/-- Data row. -/
def rowOf (p : Part) (c : Ctl) (unit : Nat) : Nat := granuleOf p c unit / 128

/-- Bank: bits [1:0] name the bank group, bits [3:2] the bank within it. -/
def bankOf (p : Part) (c : Ctl) (unit : Nat) : Nat := (granuleOf p c unit % 16) ^^^ (rowOf p c unit % 16)

/-- Unit within the 2 KiB page of its row: granule T[6:4], then the unit of the granule. Its code is the one of that
number in the row's code unit. -/
def columnOf (p : Part) (c : Ctl) (unit : Nat) : Nat := 4 * (granuleOf p c unit / 16 % 8) + unit % 4

/-- RowsPerBank. -/
def rowsPerBank (p : Part) (c : Ctl) : Nat := 4096 * odVal p c 0x2500 2

/-- DataRows: the top 1/32 of the rows are the code reserve. -/
def dataRows (p : Part) (c : Ctl) : Nat := rowsPerBank p c - rowsPerBank p c / 32

/-- Code row and unit of the code unit of data row `r`. -/
def codePlace (p : Part) (c : Ctl) (r : Nat) : Nat × Nat := (dataRows p c + r / 32, r % 32)

/-- Key of a bank. -/
def bankKey (half chan bank : Nat) : Nat := (half * 12 + chan) * 16 + bank

/-! ## Activates (12 R364) -/

/-- Change what the controllers keep of their accesses. -/
def modTraffic (f : Traffic → Traffic) (c : Ctl) : Ctl := { c with traffic := f c.traffic }

/-- A table of activates counts one of a row; the entry of lowest count makes way. -/
def countActivate (row : Nat) (t : List (Nat × Nat)) : List (Nat × Nat) :=
  let least := t.foldl (fun a e => min a e.2) (2 ^ 32)
  if t.any fun e => decide (e.1 = row) then t.map fun e => if e.1 = row then (row, e.2 + 1) else e
  else if t.length < 16 then t ++ [(row, 1)]
  else match t.findIdx? fun e => decide (e.2 = least) with
    | some i => t.set i (row, least + 1)
    | none => t

/-- One activate of a row of bank `k`: at ActThreshold, NeighbourRadius RFM commands, and the entry is freed. -/
def activateRow (p : Part) (c : Ctl) (k row : Nat) (t : Traffic) : Traffic :=
  let l := countActivate row (look [] k t.tables)
  let hot := l.any fun e => decide (e.1 = row) && decide (effVal p c 0x2500 4 ≤ e.2)
  { t with
    tables := stow [] k (if hot then l.filter fun e => decide (e.1 ≠ row) else l) t.tables
    opened := stow 0 k (row + 1) t.opened
    rfm := if hot then satN 64 (t.rfm + effVal p c 0x2500 5) else t.rfm }

/-- An access to a row of bank `k` activates it, unless it is still open: whether it is, is timing (12 R366, log 105). -/
def openRow (p : Part) (c : Ctl) (k row : Nat) (t : Traffic) : Traffic :=
  let t1 := { t with served := t.served + 1 }
  if look 0 k t.opened = row + 1 ∧ !Config.rowClosed t.served then t1 else activateRow p c k row t1

/-! ## Code caches (12 R362) -/

/-- The code unit of a row, when the cache of its channel holds it. -/
def codeHit (l : List CodeLine) (bank row : Nat) : Option CodeLine := l.find? fun x => decide (x.bank = bank) && decide (x.row = row)

/-- A code unit is used: it becomes the most recently used of its channel; of 64 others the least recently used one
makes way, and is written back when it has changed. -/
def useCode (p : Part) (c : Ctl) (half chan : Nat) (x : CodeLine) (t : Traffic) : Traffic :=
  let key := half * 12 + chan
  let l := ((look [] key t.cache).filter fun y => !(decide (y.bank = x.bank) && decide (y.row = x.row))) ++ [x]
  let out := if 64 < l.length then l.head? else none
  let t1 := { t with cache := stow [] key (if 64 < l.length then l.drop 1 else l) t.cache }
  match out with
  | some y => if y.dirty then openRow p c (bankKey half chan y.bank) (codePlace p c y.row).1 t1 else t1
  | none => t1

/-- The controller of a data unit serves it: its half is on. -/
def servedUnit (p : Part) (c : Ctl) (unit : Nat) : Bool := decide (0 < channels p c) && pdOn c (46 + halfOf unit)

/-- Hub port of a unit (01 R27, R28, 15 R437): blocks and isles by their Straits link, engines, ferry, crypto engine,
PCIe endpoint, causeways and MACs; everything else is control. -/
def hubPort (u : Nat) : Nat :=
  let i := if u < 32 then u / 4 else u - 32
  if u < 40 then 2 * (i / 4) + i % 4 / 2
  else if u = 0x28 ∨ u = 0x29 then 9
  else if u = 0x2A then 6
  else if u = 0x2B then 7
  else if u = 0x2C then 8
  else if u = 0x2D then 10
  else if u = 0x2E then 11
  else if u = 0x3B then 12
  else if u = 0x3C then 13
  else if u = 0x3D then 14
  else 15

/-- A read has reached urgency 4 (12 R365): its age, a free value (log 105), is that of the LatencyTarget of its port. -/
def urgentRead (p : Part) (c : Ctl) (port : Option Nat) (t : Traffic) : Bool :=
  match port with
  | some k => decide (4 ≤ readUrgency (Config.readAge t.served) (odVal p c 0x2501 (k + 1)))
  | none => false

/-- A read of a data unit that came through a hub port, or that the controller makes itself: its code unit first, when the
cache misses it, then the unit. -/
def readUnit (p : Part) (c : Ctl) (port : Option Nat) (unit : Nat) (t : Traffic) : Traffic :=
  if !servedUnit p c unit then t
  else
    let h := halfOf unit
    let ch := chanOf p c unit
    let b := bankOf p c unit
    let r := rowOf p c unit
    let t1 := match codeHit (look [] (h * 12 + ch) t.cache) b r with
      | some x => useCode p c h ch x t
      | none => useCode p c h ch { bank := b, row := r }
          (openRow p c (bankKey h ch b) (codePlace p c r).1 { t with misses := satN 64 (t.misses + 1) })
    let t2 := openRow p c (bankKey h ch b) r t1
    if urgentRead p c port t2 then { t2 with urgent := satN 64 (t2.urgent + 1) } else t2

/-- A write of a data unit, `whole` or of part of it, which reads the unit first: the cached code is updated. A whole
write needs no old code (log 105). -/
def writeUnit (p : Part) (c : Ctl) (whole : Bool) (unit : Nat) (t : Traffic) : Traffic :=
  if !servedUnit p c unit then t
  else
    let h := halfOf unit
    let b := bankOf p c unit
    let r := rowOf p c unit
    openRow p c (bankKey h (chanOf p c unit) b) r
      (useCode p c h (chanOf p c unit) { bank := b, row := r, dirty := true } (if whole then t else readUnit p c none unit t))

/-- A half writes back its code caches before it powers off (12 R368). -/
def flushCodes (p : Part) (half : Nat) (c : Ctl) : Ctl :=
  modTraffic (fun t =>
    let t1 := (List.range 12).foldl (fun t ch =>
      ((look [] (half * 12 + ch) t.cache).filter CodeLine.dirty).foldl (fun t y =>
        openRow p c (bankKey half ch y.bank) (codePlace p c y.row).1 t) t) t
    { t1 with cache := t1.cache.filter fun e => decide (e.1 / 12 ≠ half) }) c

/-! ## Accesses of the device -/

/-- Units of DRAM that a span of device memory touches, in ascending order. -/
def dramUnits (s : Nat × Nat) : List Nat :=
  if s.1 < dramTop ∧ 0 < s.2 then tab ((s.1 + s.2 - 1) / 64 + 1 - s.1 / 64) fun i => s.1 / 64 + i else []

/-- Reads of spans by unit `u` (15 R437). -/
def dramReads (p : Part) (u : Nat) (l : List (Nat × Nat)) (c : Ctl) : Ctl :=
  modTraffic (fun t => (l.flatMap dramUnits).foldl (fun t x => readUnit p c (some (hubPort u)) x t) t) c

/-- A write of a span. -/
def dramWrite (p : Part) (c : Ctl) (s : Nat × Nat) (t : Traffic) : Traffic :=
  (dramUnits s).foldl (fun t u => writeUnit p c (decide (s.1 ≤ 64 * u) && decide (64 * u + 64 ≤ s.1 + s.2)) u t) t

/-- The DRAM controllers serve what a step has written, in its order. -/
def serveWrites (p : Part) (c : Ctl) : Ctl :=
  modTraffic (fun t => c.posted.foldl (fun t o => match o with
    | .dev a bs => dramWrite p c (a, bs.length) t
    | _ => t) t) c

end Sys2Proof.Machine
end

