-- ==== Sys2Proof/Machine/Message.lean ====
section
/-! DEFINITION. Functions and their ranges (10 R294), unsolicited messages and EMCY (10 R310-R315), the
error pins (15 R444). -/

namespace Sys2Proof.Machine

/-- Field of a descriptor: `w` bits from bit `lo`. -/
def fld (d : Desc) (lo w : Nat) : Nat := bitsN d.toNat lo w

/-- A numeric field: first bit, width, least and largest legal value. -/
abbrev NumField := Nat × Nat × Nat × Nat

/-- The clamped value of a numeric field (10 R285). -/
def numF (d : Desc) (f : NumField) : Nat := clampN f.2.2.1 f.2.2.2 (fld d f.1 f.2.1)

/-- Subindex of the base of a kind of range: queues 1, sync objects 3, FIFOs 5, clients 7 (10 R317). -/
inductive Kind where
  | queue
  | sync
  | fifo
  | client
  deriving DecidableEq, Repr

/-- Subindex of the base of a kind. -/
def kindSub : Kind → Nat
  | .queue => 1
  | .sync => 3
  | .fifo => 5
  | .client => 7

/-- Function `n` holds number `x` of a kind (10 R294). -/
def holds (p : Part) (c : Ctl) (n : Nat) (k : Kind) (x : Nat) : Bool :=
  let base := effVal p c (0x2410 + n) (kindSub k)
  decide (base ≤ x) && decide (x < base + effVal p c (0x2410 + n) (kindSub k + 1))

/-- Owning function: the virtual function whose range contains it, else function 0 (10 R294). -/
def owner (p : Part) (c : Ctl) (k : Kind) (x : Nat) : Nat :=
  match (List.range 16).find? fun n => holds p c (n + 1) k x with
  | some n => n + 1
  | none => 0

/-! ## Error pins (15 R444) and the error register (18 R518) -/

/-- STATE OPEN or ESCALATED (15 R440). -/
def isUncleared (l : Logged) : Bool := decide (l.state = .opened) || decide (l.state = .escalated)

/-- Every record the log holds. -/
def allLogged (c : Ctl) : List Logged := c.faults.ring ++ c.faults.log

/-- Some record is uncleared. -/
def anyUncleared (c : Ctl) : Bool := (allLogged c).any isUncleared

/-- FltState (15 R453): 0 toggling, 1 no fault, 2 fault uncleared, 3 failed. -/
def fltState (c : Ctl) : Nat :=
  match c.safety.mode with
  | .failed => 3
  | .inService => if c.boot.testActive then 0 else if anyUncleared c then 2 else 1
  | _ => 0

/-- ErrorRegister (18 R518). -/
def errorRegister (c : Ctl) : Nat :=
  b2n (anyUncleared c) + 8 * b2n c.power.derated + 128 * b2n (decide (c.safety.mode ≠ .inService))

/-! ## Messages -/

/-- EMCY identifier: bits [10:0] of EmcyCobId, 0x80 + CanNodeId until first written (18 R518). -/
def emcyId (p : Part) (c : Ctl) : Nat :=
  let v := effVal p c 0x1014 0
  if v = 0 then 0x80 + effVal p c 0x2918 1 else bitsN v 0 11

/-- Send the EMCY of a function-0 message (10 R315). -/
def sendEmcy (p : Part) (type serial : Nat) (pay : List Byte) (c : Ctl) : Ctl :=
  if (odVal p c 0x2401 6).testBit type && !(effVal p c 0x1014 0).testBit 31 &&
      (decide (c.links.can.nmt = 127) || decide (c.links.can.nmt = 5)) then
    let busy := match c.links.can.lastEmcy with
      | some t => decide ((now c + 2 ^ 64 - t) % 2 ^ 64 < odVal p c 0x1015 0 * 100 * us)
      | none => false
    if busy then bump p 0x2401 7 32 1 c
    else
      emit (.can (emcyId p c)
        (leBytes 2 (0xFF00 + type) ++ leBytes 1 (errorRegister c) ++ leBytes 1 serial ++ (pay ++ List.replicate 4 0).take 4))
        (modLinks (fun l => { l with can := { l.can with lastEmcy := some (now c) } }) c)
  else c

/-- Message types that are written even into a nearly full ring (10 R313). -/
def msgUrgent (type : Nat) : Bool := decide (0x10 ≤ type) && decide (type ≤ 0x13)

/-- A message record (10 R310). -/
def msgRecord (phase type serial time : Nat) (pay : List Byte) : List Byte :=
  leBytes 1 phase ++ leBytes 1 type ++ leBytes 2 0 ++ leBytes 4 serial ++ leBytes 8 time ++
    (pay.take 48 ++ List.replicate (48 - pay.length) 0)

/-- Free entries of a function's message ring. -/
def msgFree (p : Part) (c : Ctl) (fn : Nat) : Nat :=
  odVal p c (0x2410 + fn) 0xA - (odVal p c (0x2410 + fn) 0xD + 2 ^ 32 - odVal p c (0x2410 + fn) 0xC) % 2 ^ 32

/-- Send vector `n` of a function's MSI-X (10 R314, 16 R454): while it is masked, by itself or with its function, its
pending bit is set instead; nothing is sent while MSI-X is disabled. -/
def sendMsix (fn n : Nat) (c : Ctl) : Ctl :=
  let x := (getFn c fn).msix
  let e : MsixVec := look {} n x.table
  if !x.enable then c
  else if x.mask || e.masked then modFn fn (fun f => { f with msix := { f.msix with pending := f.msix.pending ||| 2 ^ n } }) c
  else emit (.msix fn n e.addr e.data) c

/-- Write a message into its function's ring (10 R310-R313), then its EMCY (10 R315). -/
def writeMsg (p : Part) (m : Msg) (c : Ctl) : Ctl :=
  let i := 0x2410 + m.fn
  let depth := odVal p c i 0xA
  let tail := odVal p c i 0xD
  let serial := (getFn c m.fn).serial
  let c1 := modFn m.fn (fun f => { f with serial := (serial + 1) % 2 ^ 32 }) c
  let ok := decide (0 < depth) &&
    (decide (8 < msgFree p c m.fn) || (msgUrgent m.type && decide (0 < msgFree p c m.fn)))
  let c2 :=
    if ok then
      sendMsix m.fn (odVal p c i 0xB)
        (odSet p i 0xD ((tail + 1) % 2 ^ 32)
          (post (.host (64 * odVal p c i 9 + 64 * (tail % depth))
            (msgRecord (1 - tail / depth % 2) m.type serial m.time m.pay)) c1))
    else bump p i 0xE 32 1 c1
  if m.fn = 0 then sendEmcy p m.type serial m.pay c2 else c2

/-- Put a message among those of its cycle: by ascending TYPE, after those of its own TYPE (10 R313). -/
def placeMsg (m : Msg) : List Msg → List Msg
  | [] => [m]
  | x :: l => if m.type < x.type then m :: x :: l else x :: placeMsg m l

/-- The cycle ends: its messages are written. -/
def flushMsgs (p : Part) (c : Ctl) : Ctl := c.msgs.foldl (fun c m => writeMsg p m c) { c with msgs := [] }

/-- Send a message to a function (10 R310, R312); `pay` holds bytes 16 to 63. It is written at the end of its cycle: one
moment of fusion time within a step is one cycle (log 103). -/
def sendMsg (p : Part) (fn type : Nat) (pay : List Byte) (c : Ctl) : Ctl :=
  let c1 := if c.msgs.any fun m => decide (m.time ≠ now c) then flushMsgs p c else c
  { c1 with msgs := placeMsg ⟨fn, type, now c, pay⟩ c1.msgs }

/-! ## Running a meaning -/

/-- The end of a step: its messages are written, and the DRAM controllers serve its writes. -/
def endStep (p : Part) (c : Ctl) : Ctl := serveWrites p (flushMsgs p c)

/-- Run a meaning: it always answers a next state. -/
def act (s : State) (f : View → Ctl → Ctl) : Host.Outcome State Fault Refusal :=
  .next ({ s with ctl := endStep s.part (f s.view s.ctl.fresh) } : State).settleMem

/-- Run a meaning that may also program fuses (17 R491). -/
def actFuse (s : State) (f : View → Ctl → Ctl × Fuses) : Host.Outcome State Fault Refusal :=
  let r := f s.view s.ctl.fresh
  .next ({ s with ctl := endStep s.part r.1, fuses := r.2 } : State).settleMem

end Sys2Proof.Machine
end

