-- ==== Sys2Proof/Machine/Harbour.lean ====
section
/-! DEFINITION. The causeway ports as State holds them, the members of the archipelago, and the choice of the harbour
(16 R475). -/

namespace Sys2Proof.Machine

/-- Causeway port `k`. -/
def getCw (c : Ctl) (k : Nat) : Cw := look {} k c.links.cw

/-- Change causeway port `k`. -/
def modCw (k : Nat) (f : Cw → Cw) (c : Ctl) : Ctl := modLinks (fun l => { l with cw := tweak {} k f l.cw }) c

/-- Own causeway ID. -/
def archId (p : Part) (c : Ctl) : Nat := effVal p c 0x2900 1

/-- The device as its link-state flits describe it (16 R475). -/
def selfMember (p : Part) (c : Ctl) : Member :=
  { id := archId p c
    strap := c.boot.harbourSel
    eligible := decide (effVal p c 0x2900 2 = 1)
    inService := decide (c.safety.mode = .inService) }

/-- The members of the archipelago that this device knows, itself included. -/
def allMembers (p : Part) (c : Ctl) : List Member :=
  if effVal p c 0x2900 5 ≠ 1 then []
  else
    selfMember p c :: ((List.range 4).flatMap fun k =>
      let x := getCw c k
      if x.state = 2 then (x.peer.toList ++ x.members).filter fun m => decide (m.id ≠ archId p c) else [])

/-- ArchMembers (16 R480). -/
def archMembers (p : Part) (c : Ctl) : Nat := ((allMembers p c).map Member.id).dedup.foldl (fun a i => a ||| 2 ^ (i % 16)) 0

/-- The harbour among members (16 R475): 0xFF when there is none. -/
def chooseHarbour (l : List Member) : Nat :=
  match ((l.filter fun m => m.inService && m.strap).map Member.id).min? with
  | some i => i
  | none => (((l.filter fun m => m.inService && m.eligible).map Member.id).min?).getD 255

/-- A pending arm, go or wait is cancelled (13 R391); BarrierExcluded stays. -/
def cancelBarrier (p : Part) (c : Ctl) : Ctl := odSet p 0x2600 0xC 0 { c with barrier := {} }

/-- The harbour is chosen again; a change cancels any barrier wait (16 R475). -/
def electHarbour (p : Part) (c : Ctl) : Ctl :=
  let h := chooseHarbour (allMembers p c)
  if h = c.links.harbour then c else cancelBarrier p (modLinks (fun l => { l with harbour := h }) c)

end Sys2Proof.Machine
end

