-- ==== Sys2Proof/Machine/SgRows.lean ====
section
/-! DEFINITION. Fields, arrays and destination ranges of set/graph descriptors (07 R213, R215, R218). -/

namespace Sys2Proof.Machine

/-! ## Fields and arrays (07 R213, R215) -/

/-- Bytes of an element of VAL_FMT. -/
def sgSize (f : Nat) : Nat := if f = 1 then 1 else if f = 4 ∨ f = 5 then 2 else 4

/-- VAL_FMT is listed. -/
def sgFmt (f : Nat) : Bool := [1, 4, 5, 9, 10, 11].contains f

/-- INT32 or FP32. -/
def sgWide (f : Nat) : Bool := decide (f = 9) || decide (f = 10)

/-- N and N2. -/
def sgN (d : Desc) : Nat := numF d (96, 32, 1, 16777216)
/-- See `sgN`. -/
def sgN2 (d : Desc) : Nat := numF d (384, 32, 1, 16777216)

/-- A strided array of rows: base, stride and bytes per row. -/
structure Rows where
  base : Nat
  stride : Nat
  len : Nat
  deriving DecidableEq, Repr

/-- Span of row `i`. -/
def Rows.row (x : Rows) (i : Nat) : Nat × Nat := (x.base + x.stride * i, x.len)

/-- Spans of the first `n` rows. -/
def Rows.all (x : Rows) (n : Nat) : List (Nat × Nat) := (List.range n).map x.row

/-- SRC with rows of `wb` bytes. -/
def sgSrc (d : Desc) (wb : Nat) : Rows := ⟨64 * fld d 128 48, numF d (176, 16, wb, 65535), wb⟩
/-- DST with rows of `wb` bytes. -/
def sgDst (d : Desc) (wb : Nat) : Rows := ⟨64 * fld d 192 48, numF d (240, 16, wb, 65535), wb⟩
/-- IDX_ADDR in bytes. -/
def sgIdx (d : Desc) : Nat := 64 * fld d 256 48
/-- AUX_ADDR in bytes. -/
def sgAux (d : Desc) : Nat := 64 * fld d 320 48
/-- DST_ADDR in bytes. -/
def sgOut (d : Desc) : Nat := 64 * fld d 192 48

/-- Elements of a row of GATHER, SCATTER, SEGRED and MSGPASS. -/
def sgW (d : Desc) : Nat := numF d (80, 13, 1, 4096)
/-- K of TOPK. -/
def sgK (d : Desc) : Nat := numF d (416, 13, 1, min 4096 (sgN d))
/-- MAX_KEEP of NMS. -/
def sgKeep (d : Desc) : Nat := numF d (432, 16, 1, 4096)

/-- The destination ranges of a descriptor, by its opcode (07 R218, R228): 0 GATHER, 1 SCATTER, 2 SEGRED, 3 SORT,
4 TOPK, 5 NMS, 6 ASSIGN, 7 MSGPASS. -/
def sgDests (d : Desc) : List (Nat × Nat) :=
  let s := sgSize (fld d 64 4)
  let rows := sgDst d (sgW d * s)
  match fld d 0 6 with
  | 1 | 2 => rows.all (sgN2 d)
  | 3 => (sgAux d, 4 * sgN d) :: (sgDst d s).all (sgN d)
  | 4 => (sgAux d, 4 * sgK d) :: (sgDst d s).all (sgK d)
  | 5 => [(sgOut d, 4 * min (sgN d) (sgKeep d)), (sgAux d, 8)]
  | 6 => [(sgOut d, 2 * sgN d), (sgIdx d, 2 * sgN2 d), (sgAux d, 8)]
  | _ => rows.all (sgN d)

end Sys2Proof.Machine
end

