-- ==== Sys2Proof/Machine/Commands.lean ====
section
/-! DEFINITION. Commands by reference, and what the scheduler keeps of them (11): units and clients, windows and
layers, redo lists, resident contexts, virtual times and accounts. -/

namespace Sys2Proof.Machine

/-! ## Commands by reference -/

/-- Class code of a command (10 R284). -/
def dClass (d : Desc) : Nat := fld d 6 3
/-- Opcode of a command. -/
def dOp (d : Desc) : Nat := fld d 0 6
/-- TARGET of a command. -/
def dTarget (d : Desc) : Nat := fld d 9 5

/-- The command of a reference, while it is unretired. -/
def findCmd (c : Ctl) (r : Ref) : Option Cmd := (getQ c r.q).cmds.find? fun m => decide (m.idx = r.i)

/-- Change the command of a reference. -/
def modCmd (r : Ref) (f : Cmd → Cmd) (c : Ctl) : Ctl :=
  modQ r.q (fun q => { q with cmds := q.cmds.map fun m => if m.idx = r.i then f m else m }) c

/-- Every unretired command with its queue. -/
def allCmds (c : Ctl) : List (Nat × Cmd) := c.queues.flatMap fun e => e.2.cmds.map fun m => (e.1, m)

/-- Unit code of a command's target (10 R283, 15 R437). -/
def unitOfDesc (d : Desc) : Nat :=
  match dClass d with
  | 0 => if dOp d = 6 ∨ dOp d = 7 then 0x2F else dTarget d
  | 1 => 0x28 + dTarget d
  | 2 => 0x2A
  | 3 => 0x2B
  | 4 => 0x2C
  | 5 => 0x2D
  | 6 => 0x2E
  | _ => 0x30

/-- Whether a descriptor is signed, with its SIG_TAG (14 R402): MX.DRAIN, AT.SCORE, SG, DM.COPY; and AT.GRAD, whose
layout is that of AT.SCORE (06 R209, log 92). -/
def sigTag (d : Desc) : Option Nat :=
  match dClass d, dOp d with
  | 0, 1 => if fld d 73 1 = 1 then some (fld d 240 16) else none
  | 0, 4 => if fld d 76 1 = 1 then some (fld d 400 16) else none
  | 0, 8 => if fld d 76 1 = 1 then some (fld d 400 16) else none
  | 1, _ => if fld d 69 1 = 1 then some (fld d 496 16) else none
  | 5, 0 => if fld d 66 1 = 1 then some (fld d 320 16) else none
  | _, _ => none

/-- Command fields of a fault record (15 R438): a re-execution names the command that it re-executes. -/
def opOf (c : Ctl) (r : Ref) : Option (Ref × Nat × Nat × Nat × Nat) :=
  (findCmd c r).map fun m => (m.redo.getD r, (getQ c r.q).ctx.client, dOp m.desc, dClass m.desc, m.step)

/-- The command that stands at the head of dispatch of a queue. -/
def headCmd (q : Queue) : Option Cmd := q.cmds.find? fun m => decide (m.stage = .read) && decide (m.status = 0)

/-- Unit that must be running the command's client, or none, for its dispatch (11 R318, R322): blocks,
sequence unit, SG halves, ferry, crypto engine. -/
def scheduledUnit (d : Desc) : Option Nat :=
  let u := unitOfDesc d
  if u < 32 ∨ u = 0x28 ∨ u = 0x29 ∨ (0x2D ≤ u ∧ u ≤ 0x2F) then some u else none

/-- Isle whose context a command needs (11 R330), if it runs on a block. -/
def isleOf (d : Desc) : Option Nat :=
  if dClass d = 0 ∧ dOp d ≠ 6 ∧ dOp d ≠ 7 then some (dTarget d / 4) else none

/-- Function of a queue's owner, when virtual, may name a sync object (10 R286, R294). -/
def mayName (p : Part) (c : Ctl) (q : Nat) (k : Kind) (x : Nat) : Bool :=
  let n := owner p c .queue q
  decide (n = 0) || holds p c n k x

/-- A client is marked in SafetyClientMask (14 R431). -/
def safetyClient (p : Part) (c : Ctl) (cl : Nat) : Bool :=
  (effVal p c 0x2701 (cl / 32 + 1)).testBit (cl % 32)

/-! ## Windows (11 R319, R331) -/

/-- First unit and number of units of a client's window (11 R340). -/
def windowSpan (p : Part) (c : Ctl) (cl : Nat) : Nat × Nat :=
  (effVal p c (0x4000 + cl) 2, effVal p c (0x4000 + cl) 3)

/-- Two clients' windows share a scratch unit. -/
def windowsMeet (p : Part) (c : Ctl) (a b : Nat) : Bool :=
  let x := windowSpan p c a
  let y := windowSpan p c b
  decide (x.1 < y.1 + y.2) && decide (y.1 < x.1 + x.2)

/-- The window of a client on a block. -/
def getW (c : Ctl) (cl b : Nat) : Window := look {} (32 * cl + b) c.sched.windows

/-- Change the window of a client on a block. -/
def modW (cl b : Nat) (f : Window → Window) (c : Ctl) : Ctl :=
  modSched (fun s => { s with windows := tweak {} (32 * cl + b) f s.windows }) c

/-- A layer of a client is live on a block. -/
def isLive (c : Ctl) (cl b : Nat) : Bool := !(getW c cl b).live.isEmpty

/-- Redo list of a queue on a block. -/
def getRedo (c : Ctl) (q b : Nat) : Redo := look {} (32 * q + b) c.sched.redo

/-- Queue of the re-executions of a client's abandoned layers on block `b` (11 R328): beyond the 65,536 queues. -/
def redoQueue (cl b : Nat) : Nat := 65536 + 32 * cl + b

/-- Scheduler work for block `b` is queued at the ferry: a switch is in progress there (11 R326, R327, R329). -/
def moving (c : Ctl) (b : Nat) : Bool := c.sched.ferry.any fun f => decide (f.isle = b / 4) && f.mask.testBit (b % 4)

/-- The windows that stand in the way of running client `cl` on block `b`: its own window spilled or abandoned, or
a switch in progress (11 R327-R329). -/
def windowReady (c : Ctl) (cl b : Nat) : Bool := !(getW c cl b).spilled && !(getW c cl b).abandoned && !moving c b

/-! ## Ready clients (11 R318, R321, R322) -/

/-- Commands dispatched to a scheduled unit and not yet executed. -/
def onUnit (c : Ctl) (u : Nat) : List (Nat × Cmd) :=
  (allCmds c).filter fun e => decide (e.2.stage = .dispatched) && decide (scheduledUnit e.2.desc = some u)

/-- Queues of a task's tiers other than the tier in force are not dispatched (11 R335). -/
def tierGated (p : Part) (c : Ctl) (q : Nat) : Bool :=
  (List.range 64).any fun n =>
    let i := 0x2440 + n
    decide (odVal p c i 2 = 1) && (look {} n c.sched.tasks).released &&
      (List.range (effVal p c i 7)).any fun k =>
        decide (bitsN (effVal p c i 6) (16 * k) 16 = q) && decide (k ≠ (look {} n c.sched.tasks).tierNow) &&
          decide ((getQ c q).ctx.client = effVal p c i 1)

/-- The dispatchable command of a queue (11 R321): its waits are satisfied, it stands at the head of dispatch, and
no tier gates its queue. -/
def dispatchable (p : Part) (c : Ctl) (q : Nat) : Option Cmd :=
  let u := getQ c q
  match headCmd u with
  | some m => if m.waits.testBit 7 ∧ u.state = .enabled ∧ !u.stopped ∧ !tierGated p c q then some m else none
  | none => none

/-- Clients ready on a unit (11 R321): those with a dispatchable command for it, and those whose commands it holds
dispatched and not executed (log 31). -/
def readyClients (p : Part) (c : Ctl) (u : Nat) : List Nat :=
  ((c.queues.filterMap fun e =>
      if ((dispatchable p c e.1).bind fun m => scheduledUnit m.desc) = some u then some e.2.ctx.client else none) ++
    (onUnit c u).map fun e => (getQ c e.1).ctx.client).dedup

/-- V(c, u) of a client on a unit, in 2^-16 ns (11 R321). -/
def vtimeOf (c : Ctl) (u cl : Nat) : Nat := look 0 (256 * u + cl) c.sched.vtime

/-- A client that becomes ready on a unit has its virtual time raised to the least among the clients
ready or running there (11 R321). -/
def becomeReady (p : Part) (u cl : Nat) (c : Ctl) : Ctl :=
  if (readyClients p c u).contains cl ∨ look 0 u c.sched.running = cl + 1 then c
  else
    let others := readyClients p c u ++ (if look 0 u c.sched.running = 0 then [] else [look 0 u c.sched.running - 1])
    match (others.map (vtimeOf c u)).min? with
    | some v => modSched (fun s =>
        { s with vtime := stow 0 (256 * u + cl) (max v (vtimeOf c u cl)) s.vtime }) c
    | none => c

/-! ## Accounts (11 R321, R323) -/

/-- Share of a client on a unit: a write takes effect at the unit's next kernel boundary (11 R340). -/
def shareOn (p : Part) (c : Ctl) (u cl : Nat) : Nat :=
  match look 0 (256 * u + cl) c.sched.old with
  | 0 => odVal p c (0x4000 + cl) 1
  | v + 1 => v

/-- Units that are scheduled (11 R318). -/
def scheduledUnits : List Nat := List.range 32 ++ [0x28, 0x29, 0x2D, 0x2E, 0x2F]

/-- A Share is about to be written: every unit keeps the present one until its next kernel boundary (11 R340). -/
def keepShare (p : Part) (cl : Nat) (c : Ctl) : Ctl :=
  scheduledUnits.foldl (fun c u =>
    if look 0 (256 * u + cl) c.sched.old = 0 then
      modSched (fun s => { s with old := stow 0 (256 * u + cl) (odVal p c (0x4000 + cl) 1 + 1) s.old }) c else c) c

/-- A kernel boundary of unit `u` brings the Shares written since into force. -/
def dropOld (u : Nat) (c : Ctl) : Ctl :=
  modSched (fun s => { s with old := s.old.filter fun e => decide (e.1 / 256 ≠ u) }) c

/-- A client gains `t` ns of W. -/
def addWait (p : Part) (cl t : Nat) (c : Ctl) : Ctl :=
  modSched (fun s => { s with acct := tweak {} cl (fun a => { a with w := a.w + t }) s.acct }) (bump p (0x4000 + cl) 7 64 t c)

/-- A client gains `t` ns of P. -/
def addLoss (p : Part) (cl t : Nat) (c : Ctl) : Ctl :=
  modSched (fun s => { s with acct := tweak {} cl (fun a => { a with p := a.p + t }) s.acct }) (bump p (0x4000 + cl) 8 64 t c)

/-- A client gains `t` ns of E. -/
def addEngine (p : Part) (cl t : Nat) (c : Ctl) : Ctl :=
  modSched (fun s => { s with acct := tweak {} cl (fun a => { a with e := a.e + t }) s.acct }) (bump p (0x4000 + cl) 6 64 t c)

/-- While unit `u` works for client `cl` during `t` ns, every other client ready on it waits for a part of that time,
a free value (11 R323, log 6). -/
def chargeWait (p : Part) (u cl t : Nat) (c : Ctl) : Ctl :=
  ((readyClients p c u).filter fun x => decide (x ≠ cl)).foldl (fun c x =>
    addWait p x (Config.cycles c.free % (t + 1)) { c with free := c.free + 1 }) c

/-- Unit `u` has executed commands of client `cl` for a time that is a free value (log 6): its V rises, the part of the
time that no other of its commands already counts goes to E, or to P when work is re-run, and W of those who wait
(11 R321, R323, R328). -/
def charge (p : Part) (u cl : Nat) (rerun : Bool) (c : Ctl) : Ctl :=
  let t := Config.cycles c.free % 2 ^ 32
  let own := Config.cycles (c.free + 1) % (t + 1)
  let share := shareOn p c u cl
  let c1 := modSched (fun s =>
    { s with vtime := if share = 0 then s.vtime else tweak 0 (256 * u + cl) (· + t * 65536 / share) s.vtime })
    { c with free := c.free + 2 }
  chargeWait p u cl t (if rerun then addLoss p cl own c1 else addEngine p cl own c1)

/-- The time of a command's execution is charged to its queue's client (11 R320), if its unit is scheduled. -/
def chargeCmd (p : Part) (r : Ref) (c : Ctl) : Ctl :=
  match findCmd c r with
  | some m => (match scheduledUnit m.desc with
    | some u => charge p u (getQ c r.q).ctx.client m.redo.isSome c
    | none => c)
  | none => c

/-- A wait of client `cl` has ended: its length, a free value (log 6), counts in DependWait (`sub` 0xE) or SlotWait
(0xF) (11 R323). -/
def countWait (p : Part) (cl sub : Nat) (c : Ctl) : Ctl :=
  bump p (0x4000 + cl) sub 64 (Config.cycles c.free % 2 ^ 32) { c with free := c.free + 1 }

/-- A command that waited on a sync object, a domain or reader counts goes on. -/
def endDepends (p : Part) (r : Ref) (c : Ctl) : Ctl :=
  if ((findCmd c r).map Cmd.depends) = some true then
    modCmd r (fun m => { m with depends := false }) (countWait p (getQ c r.q).ctx.client 0xE c) else c

/-- A command that waited for a context slot has one. -/
def endSlotless (p : Part) (r : Ref) (c : Ctl) : Ctl :=
  if ((findCmd c r).map Cmd.slotless) = some true then
    modCmd r (fun m => { m with slotless := false }) (countWait p (getQ c r.q).ctx.client 0xF c) else c

/-! ## Resident contexts (11 R330, R340) -/

/-- Some client has a dispatchable command for an isle, or one that its blocks hold dispatched and not executed
(log 31). -/
def runnable (p : Part) (c : Ctl) (isle cl : Nat) : Bool :=
  (c.queues.any fun e => decide (e.2.ctx.client = cl) &&
    decide (((dispatchable p c e.1).bind fun m => isleOf m.desc) = some isle)) ||
  (allCmds c).any fun e => decide (e.2.stage = .dispatched) && decide (isleOf e.2.desc = some isle) &&
    decide ((getQ c e.1).ctx.client = cl)

/-- A client has a live window on an isle. -/
def liveOn (c : Ctl) (isle cl : Nat) : Bool := (List.range 4).any fun b => isLive c cl (4 * isle + b)

/-- ResidentMask of a client follows the resident contexts (11 R340). -/
def setResident (p : Part) (isle : Nat) (l : List Nat) (c : Ctl) : Ctl :=
  let old := look [] isle c.sched.resident
  let c1 := modSched (fun s => { s with resident := stow [] isle l s.resident }) c
  let c2 := (old.filter fun x => !l.contains x).foldl (fun c x =>
    odSet p (0x4000 + x) 0xD (setBitN (odVal p c (0x4000 + x) 0xD) isle false) c) c1
  l.foldl (fun c x => odSet p (0x4000 + x) 0xD (setBitN (odVal p c (0x4000 + x) 0xD) isle true) c) c2

/-- The slots of idle contexts are freed at once and nothing is saved (11 R330). -/
def freeIdle (p : Part) (c : Ctl) : Ctl :=
  (List.range 8).foldl (fun c i =>
    let l := look [] i c.sched.resident
    let k := l.filter fun x => runnable p c i x || liveOn c i x
    if k = l then c else setResident p i k c) c

/-! ## Layer marks (11 R319, 14 R417) -/

/-- A block has completed a layer of client `cl`: one of a unit under observation waits for its replay (14 R416), and
every SampleInterval-th one with an intact redo list, of a client outside SafetyClientMask, is sampled (14 R417). -/
def countLayer (p : Part) (cl b : Nat) (intact : Bool) (c : Ctl) : Ctl :=
  let c1 := if (look {} b c.safety.suspects).suspect then
    modSafety (fun s => { s with suspects := tweak {} b (fun x => { x with layers := x.layers ++ [cl] }) s.suspects }) c else c
  let n := odVal p c 0x2700 0x13
  let k := look 0 b c.safety.layers + 1
  if safetyClient p c cl ∨ !intact ∨ n = 0 then c1
  else if k < n then modSafety (fun s => { s with layers := stow 0 b k s.layers }) c1
  else modSafety (fun s =>
    { s with layers := stow 0 b 0 s.layers, samples := tweak [] b (fun l => l ++ [cl]) s.samples }) c1

/-- Layers up to `n` of queue `q` complete on the blocks that executed them. -/
def countLayers (p : Part) (q n : Nat) (c : Ctl) : Ctl :=
  (List.range 32).foldl (fun c b =>
    let r := getRedo c q b
    let l := r.cmds.filter fun m => decide (m.layer ≤ n)
    if l.isEmpty then c
    else countLayer p (getQ c q).ctx.client b (l.any fun m => !r.overflow.contains m.layer) c) c

/-- What is left of a window once layers up to `n` of queue `q` are dead: a dead window holds nothing to bring back,
but for one that host software saved (11 R319, R332). -/
def Window.without (q n : Nat) (w : Window) : Window :=
  let l := w.live.filter fun x => !(decide (x.1 = q) && decide (x.2 ≤ n))
  if l.isEmpty ∧ !w.live.isEmpty then { live := [], spilled := w.spilled && decide (w.why = .host), abandoned := false, why := w.why }
  else { w with live := l }

/-- Layers up to `n` of queue `q` are dead: their windows, and their part of the redo lists (11 R319, R328). That a redo
list has overflowed stays known while a command of the layer is unretired, for its third evaluation (14 R415). -/
def clearLayer (q n : Nat) (c : Ctl) : Ctl :=
  modSched (fun s =>
    { s with
      redo := (s.redo.map fun e => (e.1, if e.1 / 32 = q then
        ({ cmds := e.2.cmds.filter fun m => decide (n < m.layer), overflow := e.2.overflow.filter fun l => decide (n < l) || (getQ c q).cmds.any fun m => decide (m.layer = l) } : Redo)
        else e.2)).filter fun e => decide (e.2 ≠ {})
      windows := (s.windows.map fun e => (e.1, e.2.without q n)).filter fun e => decide (e.2 ≠ {}) }) c

/-- A layer mark is passed: layers up to `n` of queue `q` end. -/
def passMark (p : Part) (q n : Nat) (c : Ctl) : Ctl := clearLayer q n (countLayers p q n c)

/-- Every command before command `i` of a queue is done. -/
def earlierDone (u : Queue) (i : Nat) : Bool :=
  (u.cmds.takeWhile fun m => decide (m.idx ≠ i)).all fun m => decide (m.stage = .done)

/-- A layer mark that has executed and whose earlier commands are all done, and that has not been passed yet. -/
def passable (u : Queue) (m : Cmd) : Bool :=
  decide (m.stage = .done) && decide (m.status = 0) && decide (dClass m.desc = 7) && decide (dOp m.desc = 0) &&
    decide (m.phase = 0) && earlierDone u m.idx

/-- The marks of MX queue `q` whose earlier commands are all done are passed (11 R319). -/
def passMarks (p : Part) (q : Nat) (c : Ctl) : Ctl :=
  let u := getQ c q
  if u.ctx.cls ≠ 0 then c
  else (u.cmds.filter (passable u)).foldl (fun c m =>
    passMark p q m.layer (modCmd ⟨q, m.idx⟩ (fun x => { x with phase := 1 }) c)) c

/-- The marks of every queue. -/
def passAll (p : Part) (c : Ctl) : Ctl := c.queues.foldl (fun c e => passMarks p e.1 c) c

end Sys2Proof.Machine
end

