-- ==== Sys2Proof/Machine/Tick.lean ====
section
/-! DEFINITION. The passing of fusion time (09 R259-R267, log 24). -/

namespace Sys2Proof.Machine

/-- Nominal increment of a TCLK cycle: 131,072 units with 32 further fractional bits (09 R260). -/
def nominalStep : Nat := 131072 * 2 ^ 32

/-- Full time: epoch × 2^64 + value (09 R259). -/
def fullTime (t : Time) : Nat := t.epoch * 2 ^ 64 + t.value

/-- Fusion time at a full time. -/
def setFull (f : Nat) (t : Time) : Time :=
  { t with value := f % 2 ^ 64, epoch := f / 2 ^ 64 % 2 ^ 32, frac := 0 }

/-- The offset at which SLEWING becomes LOCKED: 16 ns (09 R272). -/
def lockedOffset : Int := 16 * 65536

/-- What `d` units of fusion time leave of the selected tracker's offset `x`, when fusion time runs `trim` parts per 10⁹ off
the domain's rate: SLEWING brings it to 16 ns, LOCKED to 0 (09 R272, R273). -/
def slewTo (state : Nat) (trim : Int) (d : Nat) (x : Int) : Int :=
  let a : Int := d * trim.natAbs / (1000000000 + trim).natAbs
  let stop : Int := if state = 2 then min lockedOffset x.natAbs else 0
  if 0 < x then max stop (x - a) else min (-stop) (x + a)

/-- The selected tracker's offset follows the slew; in FREE_RUN and HOLDOVER an offset changes with Syncs only. -/
def slewed (d : Nat) (t : Time) : Time :=
  if t.state ≠ 1 ∧ t.state ≠ 2 then t
  else if t.selected = 0 then { t with track0 := { t.track0 with offset := slewTo t.state t.trim d t.track0.offset } }
  else if t.selected = 1 then { t with track1 := { t.track1 with offset := slewTo t.state t.trim d t.track1.offset } }
  else t

/-- Fusion time grows by `n` units of 2^-48 ns; the epoch counts wraps of the value (09 R259). -/
def advance (n : Nat) (t : Time) : Time :=
  let f := t.frac + n
  let v := t.value + f / 2 ^ 32
  slewed (f / 2 ^ 32) { t with frac := f % 2 ^ 32, value := v % 2 ^ 64, epoch := (t.epoch + v / 2 ^ 64) % 2 ^ 32 }

/-- Increment in force: the nominal one changed by `rate` parts per 10^9, always positive (09 R260, R273). -/
def increment (t : Time) : Nat := max 1 ((nominalStep : Int) + nominalStep * t.rate / 1000000000).toNat

/-- Signed difference a - b of two values (09 R263). -/
def diff (a b : Nat) : Int := sgn 64 (a + 2 ^ 64 - b % 2 ^ 64)

/-- Fusion time reaches full time `f`, if that is later than now. -/
def reachFull (f : Nat) (t : Time) : Time := if fullTime t < f then slewed (f - fullTime t) (setFull f t) else t

/-- Fusion time reaches value `v`, if `v` is later than now: an event named by a time happens no earlier
(log 24). -/
def reach (v : Nat) (t : Time) : Time := if 0 < diff v t.value then reachFull (fullTime t + (diff v t.value).toNat) t else t

/-- The first frame boundary later than full time `f` (09 R265, R267). -/
def boundaryAfter (period phase f : Nat) : Nat :=
  if f < phase then phase else phase + ((f - phase) / period + 1) * period

end Sys2Proof.Machine
end

