-- ==== Sys2Proof/Machine/Settle.lean ====
section
/-! DEFINITION. What becomes of commands: signals (10 R295, R303), waits (10 R296), commitment and
speculation (10 R297, 14 R409-R411), retirement (10 R302), withdrawn sides and orphans (14 R406, R536),
and disabled queues (10 R289). -/

namespace Sys2Proof.Machine

/-! ## Fault records before the log (15 R432, R433) -/

/-- Class of a mechanism (15 R436). -/
def mechClass (m : Nat) : Nat :=
  if m = 3 ∨ m = 5 ∨ m = 7 ∨ m = 13 ∨ m = 15 then 0
  else if m = 12 ∨ m = 23 ∨ m = 25 then 2
  else if 18 ≤ m ∧ m ≤ 20 then 3
  else if m = 17 ∨ m = 21 then 4
  else 1

/-- Collector at which a record enters (15 R436 "Logged via"): block 0, isle 1, chip 2. MECH 9 enters at
the consumer's collector. -/
def mechVia (m unit : Nat) : Nat :=
  if 1 ≤ m ∧ m ≤ 4 then 0
  else if m = 5 ∨ m = 6 ∨ m = 11 ∨ m = 22 then 1
  else if m = 9 then (if unit < 32 then 0 else if unit < 40 then 1 else 2)
  else 2

/-- A correctable record of the same MECH, UNIT and SUB that arrives within 1 ms of one held at `t` merges into it
(15 R433). -/
def mergesInto (r h : Rec) (t : Nat) : Bool :=
  decide (mechClass r.mech = 0) && decide (h.mech = r.mech) && decide (h.unit = r.unit) && decide (h.sub = r.sub) &&
    decide (diff r.at_ t < ((1000 * us : Nat) : Int))

/-- Merge a correctable record into one held since less than 1 ms (15 R433). -/
def mergeRec (r : Rec) : List Rec → Option (List Rec)
  | [] => none
  | h :: t => if mergesInto r h h.at_ then some ({ h with count := h.count + r.count } :: t) else (mergeRec r t).map (h :: ·)

/-- A record joins those of a collector: the newest, but records of one unit and one cycle go in ascending MECH
(15 R432, R452). -/
def placeRec (r : Rec) : List Rec → List Rec
  | [] => [r]
  | h :: t => if h.unit = r.unit ∧ h.at_ = r.at_ ∧ r.mech < h.mech then r :: h :: t else h :: placeRec r t

/-- A record reaches the chip collector's inbox. -/
def toInbox (r : Rec) (c : Ctl) : Ctl :=
  modFaults (fun f => { f with inbox := match mergeRec r f.inbox with
    | some l => l
    | none => placeRec r f.inbox }) c

/-- A record reaches a collector of `cap` entries: merged, stored, dropped when correctable and the
collector is full, else held by the unit that it stops (15 R433). -/
def collect (cap : Nat) (r : Rec) (k : Coll) : Coll × Bool :=
  match mergeRec r k.recs with
  | some l => ({ k with recs := l }, false)
  | none =>
    if k.recs.length < cap then ({ k with recs := placeRec r k.recs }, false)
    else if mechClass r.mech = 0 then (k, true)
    else ({ k with waiting := k.waiting ++ [r] }, false)

/-- A record reaches an isle collector. -/
def toIsle (p : Part) (i : Nat) (r : Rec) (c : Ctl) : Ctl :=
  let k := collect 64 r (look {} i c.faults.isles)
  let c1 := modFaults (fun f => { f with isles := stow {} i k.1 f.isles }) c
  if k.2 then bump p 0x2800 0xA 32 1 c1 else c1

/-- A record reaches a block collector; a full one stops the block and has MECH 22 to report to the isle collector
(15 R433). -/
def toBlock (p : Part) (b : Nat) (r : Rec) (c : Ctl) : Ctl :=
  let old := look {} b c.faults.blocks
  let k := collect 32 r old
  let full := decide (old.waiting = []) && decide (k.1.waiting ≠ [])
  let k1 := if full then { k.1 with overflow := some { mech := 22, unit := b, at_ := now c } } else k.1
  let c1 := modFaults (fun f => { f with blocks := stow {} b k1 f.blocks }) c
  if k.2 then bump p 0x2800 0xA 32 1 c1 else c1

/-- A block runs no command: an error has halted its sequencer (01 R17), or a full collector holds a record of the block,
or of a unit of its isle, that it has not been able to store (15 R433). -/
def blockStopped (c : Ctl) (b : Nat) : Bool :=
  (getB c b).halted || !(look {} b c.faults.blocks).waiting.isEmpty ||
    (look {} (b / 4) c.faults.isles).waiting.any fun r => decide (r.unit = b) || decide (32 ≤ r.unit)

/-- A check raises a record (15 R432). -/
def raise (p : Part) (r : Rec) (c : Ctl) : Ctl :=
  let r := { r with at_ := now c }
  match mechVia r.mech r.unit with
  | 0 => toBlock p r.unit r c
  | 1 => toIsle p (if r.unit < 32 then r.unit / 4 else r.unit - 32) r c
  | _ => toInbox r c

/-! ## Sync objects (10 R295) -/

/-- A signal: the counter grows by `a` and saturates; SyncSaturations counts (10 R295). -/
def signal (p : Part) (s a : Nat) (c : Ctl) : Ctl :=
  let v := getSync c s + a
  let c1 := { c with syncs := stow 0 s (min v (2 ^ 64 - 1)) c.syncs }
  if 2 ^ 64 ≤ v then bump p 0x2401 5 32 1 c1 else c1

/-- Commands recorded at a sync object (14 R409). -/
def recorded (c : Ctl) (s : Nat) : List Ref := look [] s c.safety.uncommitted

/-- Apply the done signal of a command and record the command while it is uncommitted. -/
def applyDone (p : Part) (r : Ref) (m : Cmd) (c : Ctl) : Ctl :=
  let s := fld m.desc 32 15
  let c1 := modCmd r (fun x => { x with doneSig := .applied }) (signal p s 1 c)
  if m.committed then c1
  else modSafety (fun t => { t with uncommitted := tweak [] s (fun l => l ++ [r]) t.uncommitted }) c1

/-- Whether the header signals when done. -/
def signalsDone (d : Desc) : Bool := decide (fld d 31 1 = 1) && decide (fld d 47 1 = 0)
/-- Whether the header signals at commit. -/
def signalsCommit (d : Desc) : Bool := decide (fld d 31 1 = 1) && decide (fld d 47 1 = 1)

/-! ## Waits (10 R296, R298) -/

/-- The header wait is satisfied (10 R296). -/
def waitOk (v wv : Nat) : Bool := decide (0 ≤ sgn 16 ((v + 65536 - wv) % 65536))

/-- The waits of a command: bit number in `Cmd.waits`, sync object, satisfied now. -/
def waitsOf (c : Ctl) (d : Desc) : List (Nat × Nat × Bool) :=
  (if fld d 15 1 = 1 then [(0, fld d 16 15, waitOk (getSync c (fld d 16 15)) (fld d 48 16))] else []) ++
  (if dClass d = 7 ∧ dOp d = 1 then
    tab (fld d 384 2 + 1) fun n =>
      (n + 1, fld d (16 * n + 64) 15, decide (fld d (64 * n + 128) 64 ≤ getSync c (fld d (16 * n + 64) 15)))
   else [])

/-- Bit of `Cmd.waits` that says that every wait has been satisfied and its parents are known. -/
def allWaited : Nat := 2 ^ 7

/-- Every signed command of client `cl` that is done but not committed (14 R411). -/
def doneUncommitted (c : Ctl) (cl : Nat) : List Ref :=
  (allCmds c).filterMap fun e =>
    if (getQ c e.1).ctx.client = cl ∧ e.2.stage = .done ∧ e.2.status = 0 ∧ !e.2.committed ∧ e.2.sig ≠ .none then
      some ⟨e.1, e.2.idx⟩ else none

/-- Whether `d` writes bytes of the ring of an enabled transmission channel, with the channel and slot:
a DM.COPY to a device address whose extent meets the ring (16 R464, R465). -/
def txRingHit (p : Part) (c : Ctl) (d : Desc) (ch : Nat) : Bool :=
  let base := 64 * effVal p c (0x2920 + ch) 2
  let size := effVal p c (0x2920 + ch) 3 * effVal p c (0x2920 + ch) 4 * 64
  let dst := 64 * fld d 192 58
  let last := dst + (max 1 (fld d 112 16) - 1) * (64 * max 1 (fld d 288 32)) + max 1 (fld d 80 24)
  (effVal p c (0x2920 + ch) 1).testBit 15 && decide (dst < base + size) && decide (base < last)

/-- An export command (14 R411): DM.COPY to the host or a transmission. -/
def isExport (p : Part) (c : Ctl) (d : Desc) : Bool :=
  decide (dClass d = 5) && decide (dOp d = 0) &&
    (decide (fld d 65 1 = 1) || (List.range 32).any fun ch => txRingHit p c d ch)

/-- The transmission that a DM.COPY is (16 R465): channel, slot and payload bytes. -/
def transmissionOf (p : Part) (c : Ctl) (d : Desc) : Option (Nat × Nat × Nat) :=
  let n := max 1 (fld d 80 24)
  let dst := 64 * fld d 192 58
  if dClass d ≠ 5 ∨ dOp d ≠ 0 ∨ fld d 65 1 = 1 ∨ max 1 (fld d 112 16) ≠ 1 then none
  else (List.range 32).findSome? fun ch =>
    let t := effVal p c (0x2920 + ch) 1
    let base := 64 * effVal p c (0x2920 + ch) 2
    let slot := 64 * effVal p c (0x2920 + ch) 4
    let k := (dst - base) / slot
    if t.testBit 15 ∧ base ≤ dst ∧ k < effVal p c (0x2920 + ch) 3 ∧ (dst - base) % slot = 0 ∧ n ≤ slot ∧
        (if t.testBit 3 then n + 64 ≤ slot else 14 ≤ n ∧ n ≤ 9212) then some (ch, k, n) else none

/-- A transmission that retires OK joins its channel's queue (16 R466). -/
def queueTx (p : Part) (d : Desc) (c : Ctl) : Ctl :=
  match transmissionOf p c d with
  | some x => { c with links := { c.links with
      tx := tweak {} x.1 (fun t => { t with queue := t.queue ++ [⟨x.2.1, x.2.2, c.links.txNext⟩] }) c.links.tx
      txNext := c.links.txNext + 1 } }
  | none => c

/-- Re-examine the waits of the command at the head of dispatch of queue `q`; a satisfied wait stays
satisfied, and when the last one is satisfied the command's parents are fixed (10 R296, 14 R409). A command that
waits on a sync object outside its function's ranges is checked at once (10 R286). -/
def latchQ (p : Part) (q : Nat) (c : Ctl) : Ctl :=
  match headCmd (getQ c q) with
  | none => c
  | some m =>
    if m.poisoned ∨ m.waits.testBit 7 then c
    else
      let ws := waitsOf c m.desc
      let bits := ws.foldl (fun a w => if w.2.2 then a ||| 2 ^ w.1 else a) m.waits
      let full := (ws.all fun w => bits.testBit w.1) || ws.any fun w => !mayName p c q .sync w.2.1
      let pars := if full then (ws.flatMap fun w => recorded c w.2.1).dedup else []
      let ex := if full && isExport p c m.desc && safetyClient p c (getQ c q).ctx.client then
        doneUncommitted c (getQ c q).ctx.client else []
      let c1 := match full, scheduledUnit m.desc with
        | true, some un => becomeReady p un (getQ c q).ctx.client c
        | _, _ => c
      let c2 := if full then endDepends p ⟨q, m.idx⟩ c1 else c1
      modCmd ⟨q, m.idx⟩ (fun x =>
        { x with
          waits := if full then bits ||| allWaited else bits
          since := now c
          depends := !full
          parents := x.parents ++ pars
          exportOn := ex }) c2

/-- Re-examine every queue. -/
def latchAll (p : Part) (c : Ctl) : Ctl := c.queues.foldl (fun c e => latchQ p e.1 c) c

/-! ## Outcomes -/

/-- Remove a command that has committed or retired from every record of uncommitted commands. -/
def forget (r : Ref) (c : Ctl) : Ctl :=
  { c with
    safety := { c.safety with
      uncommitted := (c.safety.uncommitted.map fun e => (e.1, e.2.filter (fun x => x ≠ r))).filter
        fun e => !e.2.isEmpty }
    queues := c.queues.map fun e =>
      (e.1, { e.2 with
        spec := e.2.spec.filter (fun x => x ≠ r)
        cmds := e.2.cmds.map fun m =>
          { m with parents := m.parents.filter (fun x => x ≠ r), exportOn := m.exportOn.filter (fun x => x ≠ r) } }) }

/-- READERS of a list of sequences fall by one each (06 R194). -/
def dropReaders (l : List Nat) (c : Ctl) : Ctl := l.foldl (fun c s => modSeq s (fun x => { x with readers := x.readers - 1 }) c) c

/-- The counts that a command in execution holds are released (06 R194). -/
def releaseWork (r : Ref) (c : Ctl) : Ctl :=
  match findCmd c r with
  | some m => if m.work.isEmpty then c else modCmd r (fun x => { x with work := [] }) (dropReaders m.work c)
  | none => c

/-- The counts that a block halted in command `r` still holds are released (06 R205). -/
def releaseHalted (b : Nat) (r : Ref) (c : Ctl) : Ctl :=
  if (getB c b).haltedBy = some r ∧ (getB c b).readers ≠ [] then
    modB b (fun x => { x with readers := [] }) (dropReaders (getB c b).readers c)
  else c

/-- Give a command that has not committed its status: its signals not yet applied are dropped (10 R303), and the reader
counts of what it had not done are released; those of a halted block when its work is discarded (06 R194, R205). -/
def resolve (r : Ref) (status detail : Nat) (disables : Bool) (c : Ctl) : Ctl :=
  match findCmd c r with
  | none => c
  | some m =>
    if m.status ≠ 0 ∨ m.committed then c
    else
      let c1 := if status = 3 then releaseHalted (unitOfDesc m.desc) r c else c
      modCmd r (fun x =>
        { x with
          status := status
          detail := detail
          stage := .done
          disables := disables
          doneSig := if x.doneSig = .applied then .applied else .dropped }) (releaseWork r c1)

/-- A command commits (10 R297): a deferred done signal is applied now, and nothing stays speculative on
it. -/
def commit (p : Part) (r : Ref) (c : Ctl) : Ctl :=
  match findCmd c r with
  | none => c
  | some m =>
    let c1 := modCmd r (fun x => { x with committed := true }) c
    let c2 := if m.doneSig = .deferred ∧ signalsDone m.desc then applyDone p r { m with committed := true } c1 else c1
    forget r c2

/-- Some command of the list has a status other than OK. -/
def anyFailed (c : Ctl) (rs : List Ref) : Bool :=
  rs.any fun r => match findCmd c r with
    | some m => decide (m.status ≠ 0)
    | none => false

/-- No command dispatched to the unit of `m` before it is still to run there. -/
def foremost (c : Ctl) (m : Cmd) : Bool :=
  (allCmds c).all fun e => !(decide (e.2.stage = .dispatched) && decide (unitOfDesc e.2.desc = unitOfDesc m.desc) && decide (e.2.order < m.order))

/-- A discarded command leaves what it wrote undefined (14 R410), and a set/graph descriptor that it interrupts its whole
destination ranges (07 R228). -/
def spoil (m : Cmd) (c : Ctl) : Ctl :=
  (m.dst ++ if dClass m.desc = 1 ∧ m.stage = .dispatched ∧ foremost c m then sgDests m.desc else []).foldl
    (fun c d => postUndef d.1 d.2 c) c

/-- One look at one command: discard it when a parent failed, commit it when nothing is owed, apply its
deferred signal when the deferral ends. -/
def settleCmd (p : Part) (r : Ref) (c : Ctl) : Ctl :=
  match findCmd c r with
  | none => c
  | some m =>
    if m.status ≠ 0 ∨ m.committed then c
    else if anyFailed c (m.parents ++ m.exportOn) then
      modQ r.q (fun q => { q with stopped := true }) (resolve r 3 0 true (spoil m c))
    else if m.stage ≠ .done then c
    else if m.parents.isEmpty ∧ (m.sig = .none ∨ m.sig = .passed) then commit p r c
    else if m.parents.isEmpty ∧ m.doneSig = .deferred ∧ (recorded c (fld m.desc 32 15)).length < 4 then
      applyDone p r m c
    else c

/-- One pass over all commands. -/
def settleOnce (p : Part) (c : Ctl) : Ctl :=
  (allCmds c).foldl (fun c e => settleCmd p ⟨e.1, e.2.idx⟩ c) c

/-- Passes until nothing changes: `n` bounds them by the number of commands. -/
def settleN (p : Part) : Nat → Ctl → Ctl
  | 0, c => c
  | n + 1, c => settleN p n (settleOnce p c)

/-- Return page sets to a pool: they are pushed in the order of the list (06 R180). -/
def pushPool (p : Part) (set : Nat) (l : List Nat) (c : Ctl) : Ctl :=
  let k := odVal p c (0x2B40 + set) 5
  if l.isEmpty then c
  else odSet p (0x2B40 + set) 5 (k + l.length)
    (post (.dev (64 * effVal p c (0x2B40 + set) 4 + 4 * k) (l.flatMap (leBytes 4))) c)

/-- The command of an AT.APPEND has ended otherwise than by publishing. -/
def appendEnded (c : Ctl) (a : Append) : Bool :=
  decide (((findCmd c a.ref).map fun m => decide (m.status = 0)) ≠ some true)

/-- Such an AT.APPEND gives its page sets back and releases its sequences (06 R200). -/
def releaseAppend (p : Part) (c : Ctl) (a : Append) : Ctl :=
  a.recs.foldl (fun c r => modSeq r.seq (fun x => { x with appendBusy := false }) c)
    (pushPool p a.set (a.recs.flatMap AppendRec.taken).reverse c)

/-- AT.APPENDs that have ended otherwise than by publishing are released, in the order in which they began. -/
def sweepAppends (p : Part) (c : Ctl) : Ctl :=
  (c.appends.filter (appendEnded c)).foldl (releaseAppend p)
    { c with appends := c.appends.filter fun a => !appendEnded c a }

/-- Re-executions that have ended leave without a record (11 R328). -/
def sweepRedo (c : Ctl) : Ctl :=
  { c with queues := c.queues.map fun e =>
      (e.1, { e.2 with cmds := e.2.cmds.filter fun m => !(m.redo.isSome && decide (m.stage = .done)) }) }

/-- Settle outcomes, pass layer marks, re-examine waits and free the slots of idle contexts after anything that may
have changed them. -/
def settle (p : Part) (c : Ctl) : Ctl :=
  freeIdle p (latchAll p (passAll p (sweepRedo (sweepAppends p (settleN p ((allCmds c).length + 1) c)))))

/-- AT.APPENDs that wait for the comparison of pair `n` fail with it (06 R200). -/
def failAppends (n : Nat) (c : Ctl) : Ctl :=
  c.appends.foldl (fun c a =>
    match findCmd c a.ref with
    | some m => if fld m.desc 74 1 = 1 ∧ fld m.desc 224 16 % 32768 = n ∧ a.pos = 0 ∧ !a.waiting then resolve a.ref 4 0 false c else c
    | none => c) c

/-! ## Pairs withdrawn (14 R406, R536) -/

/-- The unretired command that owes a side of a pair. -/
def owing (c : Ctl) (pair side : Nat) : Option Ref :=
  ((allCmds c).find? fun e =>
    decide (sigTag e.2.desc = some (pair + 32768 * side)) && decide (e.2.status = 0) && e.2.redo.isNone).map
    fun e => ⟨e.1, e.2.idx⟩

/-- The pair becomes an orphan: the held command retires COMPARE_FAIL and its queue is disabled after it;
OrphanPairs counts and MECH 17 is raised (14 R406). -/
def orphan (p : Part) (pair : Nat) (missing : Nat) (held : Side) (c : Ctl) : Ctl :=
  let unit := match owing c pair missing with
    | some r => (match findCmd c r with
      | some m => unitOfDesc m.desc
      | none => 255)
    | none => 255
  let c1 := failAppends pair (resolve held.ref 4 0 true c)
  let c2 := modSafety (fun s =>
    { s with pairs := stow {} pair {} s.pairs, decided := s.decided.filter (fun x => x ≠ pair) }) c1
  settle p (raise p { mech := 17, unit := unit, sub := pair } (bump p 0x2700 0xE 32 1 c2))

/-- A side of a pair is withdrawn when its command retires with a status other than OK (14 R536). -/
def withdraw (p : Part) (pair side : Nat) (c : Ctl) : Ctl :=
  if !serving c then c
  else
    let e := look {} pair c.safety.pairs
    let e := if side = 0 then { e with a := none, gone0 := true } else { e with b := none, gone1 := true }
    let c1 := failAppends pair (modSafety (fun s => { s with pairs := stow {} pair e s.pairs }) c)
    if e.gone0 && e.gone1 then
      modSafety (fun s =>
        { s with pairs := stow {} pair {} s.pairs, decided := s.decided.filter (fun x => x ≠ pair) }) c1
    else match (if side = 0 then e.b else e.a) with
      | some held => orphan p pair side held c1
      | none => c1

/-! ## Retirement and disabled queues (10 R289, R299, R302) -/

/-- The first check of a DRAINING queue: disabled once nothing dispatched is left (10 R289). -/
def finishDrain (q : Queue) : Queue :=
  if q.state = .draining ∧ q.cmds.isEmpty then { q with state := .disabled, head := q.retired, stopped := false, spec := [], marked := false }
  else q

/-- Disable a queue: what is read but not dispatched is dropped without a record (10 R289). -/
def drain (q : Queue) : Queue :=
  finishDrain { q with
    state := .draining
    cmds := q.cmds.filter fun m => decide (m.stage ≠ .read) || decide (m.status ≠ 0) }

/-- A completion record (10 R299). -/
def cplRecord (phase status detail cycles time : Nat) : List Byte :=
  leBytes 1 phase ++ leBytes 1 status ++ leBytes 2 detail ++ leBytes 4 (satN 32 cycles) ++ leBytes 8 time

/-- PHASE of command `i` of a ring (10 R299): 1 on the first pass after ENABLE. Indices start at 0 at
ENABLE and count modulo 65,536, a multiple of twice every DEPTH. -/
def cplPhase (depthLog2 i : Nat) : Nat := 1 - i / 2 ^ depthLog2 % 2

/-- Retire the oldest command of a queue (10 R302), which has its outcome: commit signal, completion
record, COMPLETION message. -/
def retireHead (p : Part) (q : Nat) (c : Ctl) : Ctl :=
  let u := getQ c q
  match u.cmds with
  | [] => c
  | m :: rest =>
    let r : Ref := ⟨q, m.idx⟩
    if m.redo.isSome then modQ q (fun x => { x with cmds := rest }) (forget r c)
    else
    let c0 := if m.status = 0 then queueTx p m.desc c else c
    let c1 := if m.status = 0 ∧ signalsCommit m.desc then signal p (fld m.desc 32 15) 1 c0 else c0
    let record := cplRecord (cplPhase u.ctx.depthLog2 m.idx) m.status m.detail m.cycles (now c)
    let c2 := postAt u.ctx.cplHost (64 * u.ctx.cplAddr + 16 * (m.idx % 2 ^ u.ctx.depthLog2)) record c1
    let c3 := if !m.poisoned ∧ fld m.desc 14 1 = 1 then
        sendMsg p (owner p c .queue q) 1 (leBytes 2 q ++ leBytes 2 0 ++ leBytes 2 m.idx ++ List.replicate 10 0 ++ record) c2
      else c2
    let c4 := modQ q (fun x => { x with retired := (m.idx + 1) % 65536, cmds := rest }) (forget r c3)
    let c5 := match sigTag m.desc with
      | some t => if m.status ≠ 0 ∧ m.sig ≠ .none then withdraw p (t % 32768) (t / 32768) c4 else c4
      | none => c4
    let c6 := if m.disables ∨ m.poisoned then modQ q drain c5 else modQ q finishDrain c5
    settle p c6

/-- A command that work in flight is stopped with (14 R427, R429): DISCARDED, whether or not it had committed, what it
has written undefined, and a deferred signal dropped (10 R303, R316). -/
def discarded (m : Cmd) : Cmd :=
  { m with status := 3, detail := 0, stage := .done, disables := false, poisoned := false,
           doneSig := if m.doneSig = .applied then .applied else .dropped }

/-- Retire the commands of a queue in index order. -/
def retireQ (p : Part) (q : Nat) : Nat → Ctl → Ctl
  | 0, c => c
  | n + 1, c => if (getQ c q).cmds.isEmpty then c else retireQ p q n (retireHead p q c)

/-- Retire everything DISCARDED and disable every queue (10 R316, 14 R429): every command has its status before the
first one retires, so that none commits or signals meanwhile. -/
def discardAll (p : Part) (c : Ctl) : Ctl :=
  let c0 := (allCmds c).foldl (fun c e => spoil e.2 c) c
  let c1 := { c0 with queues := c0.queues.map fun (e : Nat × Queue) => (e.1, { e.2 with cmds := e.2.cmds.map discarded }) }
  let c2 := c1.queues.foldl (fun c (e : Nat × Queue) => retireQ p e.1 e.2.cmds.length c) c1
  { c2 with queues := c2.queues.map fun (e : Nat × Queue) =>
      (e.1, { e.2 with state := .disabled, head := e.2.retired, cmds := [], spec := [], stopped := false }) }

end Sys2Proof.Machine
end

