-- ==== Sys2Proof/Machine/Select.lean ====
section
/-! DEFINITION. The choice of the scheduler (11 R318-R330): kernel boundaries, selection, pre-emption, abandoned
layers, spills and fills, and contexts. -/

namespace Sys2Proof.Machine

/-! ## Kernel boundaries (11 R318) -/

/-- The journal pipeline stands between two batches (08 R255). -/
def betweenBatches (j : Journal) : Bool :=
  match j.replay with
  | some r => decide (r.drawn = 0) && r.cur.isNone && j.ready.isEmpty
  | none => true

/-- A command dispatched to a unit and not executed stands at a kernel boundary (11 R318): it has not begun, or it is an
AT.SCORE between records, a DM.COPY or DM.LAYOUT after 64 KiB of output, or a DM.REPLAY between batches. -/
def pausable (c : Ctl) (m : Cmd) : Bool :=
  decide (m.phase = 0) ||
    (match dClass m.desc, dOp m.desc with
     | 0, 4 => true
     | 5, 0 => true
     | 5, 1 => true
     | 5, 3 => betweenBatches c.journal
     | _, _ => false)

/-- A unit is at a kernel boundary (11 R318): a block with both banks FREE, no scores held for AT.GRAD (06 R208) and
its sequencer not halted; and every command on the unit at a boundary of its own. -/
def atBoundary (c : Ctl) (u : Nat) : Bool :=
  (decide (32 ≤ u) ||
    (let b := getB c u
     decide (b.bank0.state = .free) && decide (b.bank1.state = .free) && b.kept.isNone && !blockStopped c u)) &&
    (onUnit c u).all fun e => pausable c e.2

/-! ## Selection (11 R322, R326) -/

/-- Share of a client. -/
def shareOf (p : Part) (c : Ctl) (cl : Nat) : Nat := odVal p c (0x4000 + cl) 1

/-- The client of least virtual time, lowest number on a tie. -/
def leastV (c : Ctl) (u : Nat) : List Nat → Option Nat
  | [] => none
  | a :: l => match leastV c u l with
    | none => some a
    | some b => if vtimeOf c u a < vtimeOf c u b ∨ (vtimeOf c u a = vtimeOf c u b ∧ a < b) then some a else some b

/-- The client selected among the ready ones (11 R322). -/
def selectClient (p : Part) (c : Ctl) (u : Nat) : Option Nat :=
  let r := readyClients p c u
  match leastV c u (r.filter fun x => decide (1 ≤ shareOf p c x)) with
  | some x => some x
  | none => leastV c u r

/-- The running client is pre-empted (11 R326). -/
def preempted (p : Part) (c : Ctl) (u r : Nat) : Bool :=
  let lead := odVal p c 0x2400 1 * 65536
  (readyClients p c u).any fun x =>
    decide (x ≠ r) && decide (1 ≤ shareOf p c x) &&
      (decide (vtimeOf c u x + lead < vtimeOf c u r) || decide (shareOf p c r = 0))

/-- Slack of a client in 2^-16 ns (11 R327, R333): the least over its enabled tasks of deadline, less now,
less Reserve, for its oldest release not met; DefaultSlack when it has none. -/
def slackOf (p : Part) (c : Ctl) (cl : Nat) : Int :=
  let l := (List.range 64).filterMap fun n =>
    if odVal p c (0x2440 + n) 2 = 1 ∧ effVal p c (0x2440 + n) 1 = cl then
      (look {} n c.sched.tasks).open_.head?.map fun o => sgn 64 (o.due + 2 ^ 64 - now c) - (o.reserve * us : Nat)
    else none
  match l.min? with
  | some x => x
  | none => (odVal p c (0x4000 + cl) 5 * us : Nat)

/-- The spill of a client's window fits the newcomer's slack (11 R327): 2 µs + units × 64 B / rate. -/
def spillFits (p : Part) (c : Ctl) (old new : Nat) : Bool :=
  decide (((2 * us + (windowSpan p c old).2 * 64 * 65536 / odVal p c 0x2400 2 : Nat) : Int) ≤ slackOf p c new)

/-! ## Abandoned layers (11 R328) -/

/-- The layers live in a window can all be re-run: their queues carry marks and no redo list has overflowed. -/
def rerunnable (c : Ctl) (cl b : Nat) : Bool :=
  (getW c cl b).live.all fun x => (getQ c x.1).marked && !(getRedo c x.1 b).overflow.contains x.2

/-- A command of client `cl` on block `b` whose layer is abandoned runs again from its start, once its layer is re-run:
one that has executed but is not done, and an AT.SCORE that has begun, which releases the counts of its unfinished
records (06 R194). An AT.APPEND has published and writes no scratch. -/
def restartCmd (r : Ref) (m : Cmd) (c : Ctl) : Ctl :=
  if (m.stage = .executed ∨ m.stage = .dispatched) ∧ m.status = 0 ∧ dOp m.desc ≠ 5 then
    modCmd r (fun x => { x with stage := .dispatched, phase := 0 }) (releaseWork r c)
  else c

/-- The layers of a window are given up: nothing of them is kept, and what was being re-executed of them is forgotten
(11 R327, R328). -/
def abandon (p : Part) (b cl : Nat) (c : Ctl) : Ctl :=
  let n := (getW c cl b).live.length
  let c1 := (allCmds c).foldl (fun c e =>
    if dClass e.2.desc = 0 ∧ unitOfDesc e.2.desc = b ∧ (getQ c e.1).ctx.client = cl then restartCmd ⟨e.1, e.2.idx⟩ e.2 c else c) c
  bump p 0x2400 5 64 n (bump p (0x4000 + cl) 0xA 32 n
    (modW cl b (fun w => { w with abandoned := true, spilled := false }) (modQ (redoQueue cl b) (fun _ => {}) c1)))

/-- Re-execution of a client's abandoned layers (11 R328): the commands of their redo lists that were done, in the
order of their dispatch and before any later command. An AT.APPEND rebuilds no scratch and is not among them. -/
def queueRedo (b cl : Nat) (c : Ctl) : Ctl :=
  let l := (getW c cl b).live.flatMap fun x => ((getRedo c x.1 b).cmds.filter fun m =>
    decide (m.layer = x.2) && !(decide (dClass m.desc = 0) && decide (dOp m.desc = 5)) &&
      (match findCmd c ⟨x.1, m.idx⟩ with
       | some k => decide (k.stage = .done) && decide (k.status = 0)
       | none => true)).map fun m => (x.1, m)
  modQ (redoQueue cl b) (fun _ =>
    { state := .draining, ctx := { client := cl }
      cmds := (List.range l.length).zipWith (fun i x =>
        { idx := i, desc := x.2.desc, order := x.2.order, layer := x.2.layer, stage := .dispatched, step := x.2.step, redo := some ⟨x.1, x.2.idx⟩ }) l }) c

/-! ## Switches (11 R325-R329) -/

/-- The device asks the ferry for a move, ahead of queued ferry commands: once for one window. -/
def askFerry (j : Job) (c : Ctl) : Ctl :=
  if c.sched.ferry.contains j then c else modSched (fun s => { s with ferry := s.ferry ++ [j] }) c

/-- Client `r` is switched out of block `b` for client `new` while it holds a live layer there (11 R325, R327): no save,
a spill when it `fits` or the layer cannot be re-run, or abandonment. A window that is not in scratch needs nothing. -/
def switchOut (p : Part) (b r new : Nat) (fits : Bool) (c : Ctl) : Ctl :=
  let w := getW c r b
  let c1 := bump p 0x2400 3 64 1 (bump p (0x4000 + r) 9 32 1 c)
  if w.spilled ∨ w.abandoned ∨ !windowsMeet p c r new then c1
  else if fits ∨ !rerunnable c r b then
    bump p 0x2400 4 64 1 (askFerry { client := r, isle := b / 4, mask := 2 ^ (b % 4), fill := false, why := .preempt } c1)
  else abandon p b r c1

/-- The selected client comes onto block `b`: an abandoned layer is re-run, a spilled window filled
(11 R328, R329). -/
def switchIn (b new : Nat) (c : Ctl) : Ctl :=
  let w := getW c new b
  if w.abandoned then modW new b (fun x => { x with abandoned := false }) (queueRedo b new c)
  else if w.spilled then askFerry { client := new, isle := b / 4, mask := 2 ^ (b % 4), fill := true, why := w.why } c
  else c

/-- Unit `u` runs client `n` from this kernel boundary on (11 R322, R340). -/
def runClient (u n : Nat) (c : Ctl) : Ctl :=
  let c1 := modSched (fun s => { s with running := stow 0 u (n + 1) s.running }) (dropOld u c)
  if u < 32 then switchIn u n c1 else c1

/-- Unit `u` runs nobody. -/
def runNobody (u : Nat) (c : Ctl) : Ctl := modSched (fun s => { s with running := stow 0 u 0 s.running }) (dropOld u c)

/-- Client `cl` no longer runs on block `b`: it has to be selected again. -/
def stopRunning (cl b : Nat) (c : Ctl) : Ctl := if look 0 b c.sched.running = cl + 1 then runNobody b c else c

/-- The unit of a command for client `cl` (11 R322): it runs the client, or it is idle at a kernel boundary and the
client is the one selected; none otherwise. -/
def takeUnit (p : Part) (c : Ctl) (d : Desc) (cl : Nat) : Option Ctl :=
  match scheduledUnit d with
  | none => some c
  | some u =>
    if look 0 u c.sched.running = cl + 1 then some c
    else if look 0 u c.sched.running = 0 ∧ atBoundary c u ∧ !(decide (u < 32) && moving c u) ∧ selectClient p c u = some cl then
      some (runClient u cl c)
    else none

/-! ## Contexts (11 R330) -/

/-- A context may be evicted: each block of the isle that runs its client is at a kernel boundary (03 R103, log 31). -/
def evictable (c : Ctl) (isle cl : Nat) : Bool :=
  (List.range 4).all fun b => decide (look 0 (4 * isle + b) c.sched.running ≠ cl + 1) || atBoundary c (4 * isle + b)

/-- A blocked context is evicted (11 R325, R330): its live windows are queued for a spill in ascending block order, and
its client runs on no block of the isle. -/
def evict (p : Part) (isle cl : Nat) (c : Ctl) : Ctl :=
  let live := ((List.range 4).map fun b => 4 * isle + b).filter fun b => isLive c cl b
  let here := live.filter fun b => !(getW c cl b).spilled && !(getW c cl b).abandoned
  let c1 := bump p 0x2400 6 64 1 (bump p 0x2400 4 64 here.length (bump p (0x4000 + cl) 9 32 live.length c))
  let c2 := here.foldl (fun c b => askFerry { client := cl, isle := isle, mask := 2 ^ (b % 4), fill := false, why := .evict } c) c1
  (List.range 4).foldl (fun c b => stopRunning cl (4 * isle + b) c) c2

/-- Spills of an eviction from an isle are under way: the waiting context is loaded after them (11 R330). -/
def evicting (c : Ctl) (isle : Nat) : Bool := c.sched.ferry.any fun f => decide (f.isle = isle) && decide (f.why = .evict) && !f.fill

/-- CONTEXT_LOAD (11 R330): none when the client must wait for a slot. Of blocked contexts the least recently run one
is evicted, ties to the lowest client number. -/
def loadContext (p : Part) (isle cl : Nat) (c : Ctl) : Option Ctl :=
  let l := look [] isle c.sched.resident
  if l.contains cl then some c
  else if l.length < 8 then some (setResident p isle (l ++ [cl]) c)
  else if l.any (fun x => runnable p c isle x) then none
  else match l with
    | x :: rest => if evictable c isle x then some (setResident p isle (rest ++ [cl]) (evict p isle x c)) else none
    | [] => none

/-- The context whose client dispatches becomes the one most recently run (11 R330). -/
def touchContext (isle cl : Nat) (c : Ctl) : Ctl :=
  modSched (fun s => { s with resident := tweak [] isle (fun l => (l.filter fun x => x ≠ cl) ++ [cl]) s.resident }) c

end Sys2Proof.Machine
end

