-- ==== Sys2Proof/Machine/Record.lean ====
section
/-! DEFINITION. Recording inputs in the journal (08 R257, 13 R382, R383). -/

namespace Sys2Proof.Machine

/-- Write bytes into the payload ring from offset `off`, wrapping at its end (log 26). -/
def postRing (base size off : Nat) (bs : List Byte) (c : Ctl) : Ctl :=
  if size = 0 then c
  else
    let k := size - off % size
    let c1 := post (.dev (base + off % size) (bs.take k)) c
    if bs.length ≤ k then c1 else post (.dev base (bs.drop k)) c1

/-- Bytes of the payload ring that a payload takes: whole 64-byte units. -/
def payRoom (n : Nat) : Nat := 64 * cdiv n 64

/-- A journal record (08 R257). -/
def journalRecord (kind source len arrival epoch check addr : Nat) : List Byte :=
  leBytes 4 (kind + 16 * (source % 4096)) ++ leBytes 4 len ++ leBytes 8 arrival ++ leBytes 4 epoch ++
    leBytes 4 check ++ leBytes 6 addr ++ leBytes 2 0

/-- Append one record and its payload. -/
def putRecord (p : Part) (kind source len arrival epoch : Nat) (pay : List Byte) (c : Ctl) : Ctl :=
  let w := odVal p c 0x2310 6
  let cnt := effVal p c 0x2310 3
  let base := 64 * effVal p c 0x2310 4
  let size := effVal p c 0x2310 5
  let off := c.journal.payWrite
  let addr := (base + (if size = 0 then 0 else off % size)) / 64
  let c1 := post (.dev (64 * effVal p c 0x2310 2 + 32 * (w % max 1 cnt))
    (journalRecord kind source len arrival epoch (crc32c pay) addr)) (postRing base size off pay c)
  odSet p 0x2310 6 ((w + 1) % 2 ^ 64) (modJournal (fun j =>
    { j with payWrite := if size = 0 then 0 else (off + payRoom pay.length) % size
             sizes := j.sizes ++ [payRoom pay.length] }) c1)

/-- Record one external input (08 R257): a GAP first when inputs were lost before it; without room it is
counted in JournalLost and reported. -/
def record (p : Part) (kind source arrival epoch : Nat) (pay : List Byte) (c : Ctl) : Ctl :=
  if odVal p c 0x2310 1 = 0 then c
  else
    let need := if c.journal.gap = 0 then 1 else 2
    let used := sumN c.journal.sizes
    let room := decide (odVal p c 0x2310 6 + need ≤ odVal p c 0x2310 7 + effVal p c 0x2310 3) &&
      decide (used + payRoom pay.length ≤ effVal p c 0x2310 5)
    if room then
      let c1 := if c.journal.gap = 0 then c
        else modJournal (fun j => { j with gap := 0 }) (putRecord p 6 0 c.journal.gap arrival epoch [] c)
      putRecord p kind source pay.length arrival epoch pay c1
    else
      let c1 := bump p 0x2310 8 64 1 (modJournal (fun j => { j with gap := satN 32 (j.gap + 1) }) c)
      sendMsg p 0 0x0C (leBytes 8 (odVal p c1 0x2310 8) ++ leBytes 8 (odVal p c1 0x2310 6)) c1

/-- Record an input that is complete now. -/
def recordNow (p : Part) (kind source : Nat) (pay : List Byte) (c : Ctl) : Ctl :=
  record p kind source (now c) c.time.epoch pay c

/-- Tracker `t` (0 or 1). -/
def getTr (c : Ctl) (t : Nat) : Tracker := if t = 0 then c.time.track0 else c.time.track1

/-- Offset of the selected tracker, 0 when none is selected (09 R282 OffsetNow). -/
def offsetNow (c : Ctl) : Int := if c.time.selected < 2 then (getTr c c.time.selected).offset else 0

/-- A STATE record (13 R382, R383; 08 R254 at entry into the safe state). -/
def recordState (p : Part) (c : Ctl) : Ctl :=
  recordNow p 7 0 (leBytes 1 c.time.state ++ leBytes 1 c.time.selected ++ leBytes 6 0 ++
    leBytes 8 (ofInt 64 (offsetNow c))) c

end Sys2Proof.Machine
end

