-- ==== Sys2Proof/Machine/Counter.lean ====
section
/-! DEFINITION. The counter generator (13 R380) and the replay permutation (08 R256). -/

namespace Sys2Proof.Machine

/-! ## The counter generator (13 R380) -/

/-- One round of Philox4x64 with keys `k0`, `k1`. -/
def philoxRound (k0 k1 : Nat) (x : Nat × Nat × Nat × Nat) : Nat × Nat × Nat × Nat :=
  let a := 0xd2e7470ee14c6c93 * x.1
  let b := 0xca5a826395121157 * x.2.2.1
  ((b / 2 ^ 64) ^^^ x.2.1 ^^^ k0, b % 2 ^ 64, (a / 2 ^ 64) ^^^ x.2.2.2 ^^^ k1, a % 2 ^ 64)

/-- F(seed, stream, step, element): the first output word after ten rounds. -/
def counterGen (seed stream step element : Nat) : Nat :=
  ((List.range 10).foldl (fun x i =>
    philoxRound ((bitsN seed 0 64 + i * 0x9e3779b97f4a7c15) % 2 ^ 64) ((bitsN seed 64 64 + i * 0xbb67ae8584caa73b) % 2 ^ 64) x)
    (cut 64 element, cut 64 step, cut 32 stream, 0)).1

/-- h of 08 R256: the smallest integer from 1 with 4^h ≥ n. -/
def feistelHalf (n : Nat) : Nat := (((List.range 17).drop 1).find? fun h => decide (n ≤ 4 ^ h)).getD 16

/-- One pass of the six Feistel rounds. -/
def feistel (seed stream epoch h x : Nat) : Nat :=
  let r := (List.range 6).foldl (fun (y : Nat × Nat) k =>
    (y.2, y.1 ^^^ (counterGen seed stream epoch (k * 2 ^ 32 + y.2) % 2 ^ h))) (x / 2 ^ h, x % 2 ^ h)
  r.1 * 2 ^ h + r.2

/-- Walk until the value lies below `n`; `fuel` bounds the walk, which a permutation of 4^h values ends. -/
def permWalk (seed stream epoch n : Nat) : Nat → Nat → Nat
  | 0, x => x
  | fuel + 1, x =>
    let y := feistel seed stream epoch (feistelHalf n) x
    if y < n then y else permWalk seed stream epoch n fuel y

/-- perm(i) of 08 R256. -/
def perm (shuffle : Bool) (seed stream epoch n i : Nat) : Nat :=
  if shuffle then permWalk seed stream epoch n (4 ^ feistelHalf n) i else i

end Sys2Proof.Machine
end

