-- ==== Sys2Proof/Machine/Samples.lean ====
section
/-! DEFINITION. Descriptor fields that place samples: formats (03 R111, R114), the slots of the three ingest engines (08
R234, R243, R246, R250), and the draws of a replay (08 R256). -/

namespace Sys2Proof.Machine

/-! ## Element formats: codes 0 to 8 of 03 R111, 9 INT32 and 10 FP32 of 03 R114 -/

/-- Half bytes of an element. -/
def nibbles (f : Nat) : Nat := if f = 0 then 1 else if f = 4 ∨ f = 5 then 4 else if f = 9 ∨ f = 10 then 8 else 2

/-- Bytes of `n` elements, the last byte padded (02 R46). -/
def elemBytes (f n : Nat) : Nat := cdiv (nibbles f * n) 2

/-- Bytes of one record of 64 channels as it is written (05 R147). -/
def recordLen (f : Nat) : Nat := 32 * nibbles f

/-! ## Armings (08 R233, R234) -/

/-- SOURCE of an arming (08 R233): 2 is the journal. -/
def armSource (a : Arm) : Nat := fld a.desc 66 2
/-- SLOTS, clamped to 1-255 (10 R285). -/
def armSlots (a : Arm) : Nat := max 1 (fld a.desc 240 8)
/-- Byte address of slot 0. -/
def armOut (a : Arm) : Nat := 64 * fld a.desc 192 48
/-- Byte address of the status ring. -/
def armStatus (a : Arm) : Nat := 64 * fld a.desc 256 48
/-- SYNC. -/
def armSync (a : Arm) : Nat := fld a.desc 304 15

/-! ## Slots -/

/-- IN_W, IN_H, OUT_W and OUT_H. -/
def inW (d : Desc) : Nat := numF d (96, 14, 1, 8192)
/-- See `inW`. -/
def inH (d : Desc) : Nat := numF d (112, 14, 1, 8192)
/-- See `inW`. -/
def outW (d : Desc) : Nat := numF d (128, 14, 1, 8192)
/-- See `inW`. -/
def outH (d : Desc) : Nat := numF d (144, 14, 1, 8192)

/-- SRC_ID (08 R243): a CSI-2 channel, or a video stream. -/
def imgSrc (d : Desc) : Nat := if fld d 66 2 = 1 then min 47 (fld d 74 6) else fld d 74 6

/-- Bytes of an output row, planar. -/
def outRow (d : Desc) : Nat := 64 * cdiv (elemBytes (fld d 88 4) (outW d)) 64

/-- Channels of the output tensor. -/
def outChans (d : Desc) : Nat := if fld d 86 1 = 1 then 1 else 3

/-- Slot size (08 R243). -/
def imgSlot (d : Desc) : Nat :=
  if fld d 92 1 = 1 then outH d * outW d * recordLen (fld d 88 4) else outChans d * outH d * outRow d

/-- Bytes of a sample and stride of a decoded picture's lines (08 R246). -/
def picBytes (depth : Nat) : Nat := if depth = 8 then 1 else 2
/-- See `picBytes`. -/
def picStride (a : Arm) (depth : Nat) : Nat := 64 * cdiv (clampN 1 8192 (fld a.desc 96 14) * picBytes depth) 64
/-- Bytes of a slot of decoded pictures. -/
def picSlot (a : Arm) (depth : Nat) : Nat :=
  64 * cdiv (picStride a depth * clampN 1 8192 (fld a.desc 112 14) * 3 / 2) 64

/-- MAX_PTS. -/
def maxPts (d : Desc) : Nat := numF d (88, 7, 1, 64)
/-- MAX_PILLARS. -/
def maxPillars (d : Desc) : Nat := numF d (128, 17, 1, 65536)
/-- Bytes of the index area of a slot. -/
def indexBytes (d : Desc) : Nat := 64 * cdiv (4 * maxPillars d) 64

/-- Bytes of a lidar slot (08 R250). -/
def ptsSlot (d : Desc) : Nat := 64 + indexBytes d + 64 * cdiv (maxPillars d * maxPts d * 16) 64

/-! ## Draws of a replay (08 R256) -/

/-- BATCH, clamped. -/
def repBatch (d : Desc) : Nat := numF d (80, 13, 1, 4096)
/-- N, clamped. -/
def repN (d : Desc) : Nat := numF d (128, 32, 1, 0xFFFFFFFF)
/-- START, clamped to N − 1. -/
def repStart (d : Desc) : Nat := min (fld d 160 32) (repN d - 1)
/-- COUNT, clamped to N − START. -/
def repCount (d : Desc) : Nat := min (fld d 192 32) (repN d - repStart d)
/-- TABLE_ADDR as a byte address. -/
def repTable (d : Desc) : Nat := 64 * fld d 256 48
/-- Sample that position `i` of the epoch draws. -/
def repPerm (d : Desc) (i : Nat) : Nat := perm (decide (fld d 64 1 = 1)) (fld d 320 128) (fld d 224 32) (fld d 96 32) (repN d) i

end Sys2Proof.Machine
end

