-- ==== Sys2Proof/Machine/Streams.lean ====
section
/-! DEFINITION. What the three ingest engines share (08 R231-R236, R252-R254): streams, status entries, and
halts of live streams and of the journal pipeline. Engine classes are those of 10 R283: 2 VD, 3 IMG, 4 PTS. -/

namespace Sys2Proof.Machine

/-- Streams of an engine. -/
def streamsOf (c : Ctl) (cls : Nat) : SMap Stream := if cls = 2 then c.vd else if cls = 3 then c.img else c.pts

/-- Replace the streams of an engine. -/
def setStreams (cls : Nat) (m : SMap Stream) (c : Ctl) : Ctl :=
  if cls = 2 then { c with vd := m } else if cls = 3 then { c with img := m } else { c with pts := m }

/-- A stream. -/
def getS (c : Ctl) (cls n : Nat) : Stream := look {} n (streamsOf c cls)

/-- Change a stream. -/
def modS (cls n : Nat) (f : Stream → Stream) (c : Ctl) : Ctl := setStreams cls (tweak {} n f (streamsOf c cls)) c

/-- A sample status entry (08 R234). -/
def statusEntry (seq status cause flags time info0 info1 : Nat) : List Byte :=
  leBytes 4 seq ++ leBytes 1 (status + 8 * cause) ++ leBytes 1 flags ++ leBytes 2 0 ++ leBytes 8 time ++
    leBytes 4 info0 ++ leBytes 4 info1 ++ leBytes 8 0

/-- Write a status entry and signal SYNC (08 R234). -/
def writeStatus (p : Part) (x : Sample) (status cause : Nat) (c : Ctl) : Ctl :=
  let a := x.arm
  settle p (signal p (armSync a) 1
    (post (.dev (armStatus a + 32 * (x.seq % armSlots a))
      (statusEntry x.seq status cause x.flags x.stamp x.info0 x.info1)) c))

/-- Image streams that take the pictures of video stream `n` (08 R246). -/
def takers (c : Ctl) (n : Nat) : List Nat :=
  (c.img.filter fun e => decide (e.2.state = .running) && decide (armSource e.2.arm = 1) &&
    decide (min 47 (fld e.2.arm.desc 74 6) = n)).map Prod.fst

/-- A sample's status entry PRESENT (08 R234): a video sample is then there for the image streams that take
it (08 R246). -/
def writePresent (p : Part) (cls n : Nat) (x : Sample) (c : Ctl) : Ctl :=
  let c1 := writeStatus p x 0 0 c
  if cls = 2 then
    (takers c1 n).foldl (fun c k => modS 3 k (fun s =>
      { s with pics := s.pics ++ [{ addr := armOut x.arm + picSlot x.arm x.depth * (x.seq % armSlots x.arm), stride := picStride x.arm x.depth, width := x.width, height := x.height, stamp := x.stamp, epoch := x.epoch }] }) c) c1
  else c1

/-- A sample has been processed: its entry is written at once in drive mode, with its batch in replay
(08 R255). -/
def present (p : Part) (cls n : Nat) (x : Sample) (c : Ctl) : Ctl :=
  if armSource x.arm = 2 then modJournal (fun j => { j with ready := j.ready ++ [⟨cls, n, x⟩] }) c
  else writePresent p cls n x c

/-! ## Armings of a stream (08 R232) -/

/-- An arming takes journal samples. -/
def fromJournal (a : Arm) : Bool := decide (armSource a = 2)

/-- The present arming and what is in progress under it. -/
def Stream.present (s : Stream) : Era :=
  { arm := s.arm, seq := s.seq, win := s.win, pts := s.pts, overs := s.overs, late := s.late, last := s.last }

/-- All armings under which samples are in progress, oldest first; the present one last. -/
def Stream.eras (s : Stream) : List Era := s.before ++ [s.present]

/-- Change the `k`-th of `eras`. -/
def Stream.modEra (k : Nat) (f : Era → Era) (s : Stream) : Stream :=
  if k < s.before.length then { s with before := s.before.modify k f }
  else
    let e := f s.present
    { s with seq := e.seq, win := e.win, pts := e.pts, overs := e.overs, late := e.late, last := e.last }

/-- Place of a sample's arming among `eras`. -/
def Stream.eraOf (s : Stream) (a : Arm) : Nat := (s.before.findIdx? fun e => decide (e.arm.number = a.number)).getD s.before.length

/-- Next SEQ of a sample's arming. -/
def Stream.seqOf (s : Stream) (a : Arm) : Nat := (s.eras.getD (s.eraOf a) s.present).seq

/-- A stream that goes out of service: nothing in progress, nothing waiting at its input. Complete camera
frames and closed windows are still written; pictures not yet output are not. -/
def haltedStream (cls cause : Nat) (s : Stream) : Stream :=
  { s with state := .halted, cause := cause, cur := none, units := [], inbox := [], pics := [], pts := [], overs := [],
           column := [], before := [], done := if cls = 2 then [] else s.done }

/-- The slot of a sample. The depth of a picture that was not decoded is unknown: its slot is either of those that the
codec allows. -/
def sampleSlot (cls : Nat) (x : Sample) : List (Nat × Nat) :=
  let a := x.arm
  let at_ := fun (n : Nat) => (armOut a + n * (x.seq % armSlots a), n)
  if cls = 3 then [at_ (imgSlot a.desc)]
  else if cls = 4 then [at_ (ptsSlot a.desc)]
  else if x.depth ≠ 0 then [at_ (picSlot a x.depth)]
  else at_ (picSlot a 8) :: if fld a.desc 74 1 = 1 then [at_ (picSlot a 10)] else []

/-- The slot of a corrupt sample is undefined (08 R252); of a claim beyond the limits no memory is written (R247). -/
def loseSlot (cls cause : Nat) (x : Sample) (c : Ctl) : Ctl :=
  if cause = 4 then c else (sampleSlot cls x).foldl (fun c s => postUndef s.1 s.2 c) c

/-- Drive mode (08 R252): the stream halts at sample `x`: its slot is undefined; an ABSENT entry with cause, TIME and what
is known of the sample (log 28), SYNC, and one STREAM_HALTED message to the owner of the queue that armed it. -/
def haltLive (p : Part) (cls n cause : Nat) (x : Sample) (c : Ctl) : Ctl :=
  let c1 := writeStatus p x 1 cause (loseSlot cls cause x c)
  let c2 := modS cls n (fun s =>
    { haltedStream cls cause s with seq := if x.arm = s.arm then max s.seq (x.seq + 1) else s.seq }) c1
  sendMsg p (owner p c .queue x.arm.queue) 0x0A
    (leBytes 1 cls ++ leBytes 1 n ++ leBytes 1 cause ++ List.replicate 5 0 ++ leBytes 8 x.stamp) c2

/-- Halt the journal streams of an engine. -/
def haltJournalOf (cls cause : Nat) (c : Ctl) : Ctl :=
  setStreams cls ((streamsOf c cls).map fun e =>
    (e.1, if e.2.state = .running ∧ armSource e.2.arm = 2 then { haltedStream cls cause e.2 with done := [] } else e.2)) c

/-- Replay mode (08 R253): the whole journal pipeline halts; nothing of the batch is emitted, the DM.REPLAY
completes with the input-halted status, and JOURNAL_HALTED names the corrupt sample by the position that drew it, its
index and the journal record. -/
def haltJournal (p : Part) (cause draw record : Nat) (c : Ctl) : Ctl :=
  let c1 := [2, 3, 4].foldl (fun c k => haltJournalOf k cause c) c
  match c.journal.replay with
  | none => modJournal (fun j => { j with ready := [] }) c1
  | some r =>
    let d := ((findCmd c r.ref).map Cmd.desc).getD 0
    let c2 := sendMsg p 0 0x0B
      (leBytes 4 (fld d 96 32) ++ leBytes 4 draw ++ leBytes 4 (repPerm d draw) ++ leBytes 1 cause ++ List.replicate 3 0 ++
        leBytes 4 record) c1
    settle p (resolve r.ref 5 0 false (modJournal (fun j => { j with ready := [], replay := none }) c2))

/-- Position of the sample of the replay that is being delivered, or is the next to be drawn. -/
def drawNow (c : Ctl) : Nat := (c.journal.replay.map fun r => (r.cur.map Prod.fst).getD r.pos).getD 0

/-- Journal record that was delivered last. -/
def recordNo (c : Ctl) : Nat := ((c.journal.replay.bind Replay.cur).map fun x => x.2.2.1 - 1).getD 0

/-- A corrupt sample (08 R252, R253). -/
def haltAt (p : Part) (cls n cause : Nat) (x : Sample) (c : Ctl) : Ctl :=
  if fromJournal x.arm then haltJournal p cause x.draw x.record c else haltLive p cls n cause x c

/-- The sample at which stream `s` stands: the one in progress, else the next, with TIME `t` (log 28). -/
def standing (s : Stream) (t : Nat) : Sample :=
  match s.cur with
  | some x => x
  | none => { arm := s.arm, seq := s.seq, stamp := t }

/-- The window at which a point-cloud stream stands: the oldest of a kind, live or journal, not closed; the table gives no
exception for the flags of an ABSENT entry (08 R234). -/
def standingWindow (s : Stream) (journal : Bool) : Sample :=
  let e := (s.eras.find? fun e => decide (fromJournal e.arm = journal)).getD s.present
  { arm := e.arm, seq := e.seq, stamp := e.win % 2 ^ 64, epoch := e.win / 2 ^ 64
    flags := b2n (e.overs.contains e.win) + 2 * b2n (decide (0 < e.late)) }

/-- Halt every running stream of an engine (08 R254): unit 0x2A VD, 0x2B IMG, 0x2C PTS. -/
def haltEngine (p : Part) (u cause : Nat) (c : Ctl) : Ctl :=
  let cls := u - 0x28
  if u < 0x2A ∨ 0x2C < u then c
  else
    let live := (streamsOf c cls).filter fun e => decide (e.2.state = .running) && decide (armSource e.2.arm ≠ 2)
    let journal := (streamsOf c cls).any fun e => decide (e.2.state = .running) && decide (armSource e.2.arm = 2)
    let c1 := live.foldl (fun c e =>
      let y := e.2.done.headD (if cls = 4 then standingWindow e.2 false else standing e.2 (now c))
      haltLive p cls e.1 cause { y with seq := if cls = 2 then e.2.seqOf y.arm else y.seq } (modS cls e.1 (fun s => { s with done := [] }) c)) c
    if journal then haltJournal p cause (drawNow c) (recordNo c) c1 else c1

/-- Streams that become IDLE (08 R232, R254): the cause of the last halt stays readable (08 R258). -/
def idle (m : SMap Stream) : SMap Stream :=
  (m.map fun e => (e.1, ({ cause := e.2.cause, arm := { number := e.2.arm.number } } : Stream))).filter fun e => decide (e.2 ≠ {})

/-- Index of the numbers of armings: distinct for every arming of a stream. -/
def nextArming (c : Ctl) (cls n : Nat) : Nat := (getS c cls n).arm.number + 1

end Sys2Proof.Machine
end

