-- ==== Sys2Proof/Machine/Fault.lean ====
section
/-! DEFINITION. The safe state and the failed device (14 R426-R429, 17 R495), the fault log (15 R434,
R438-R440), fences (15 R441-R443), and halts of blocks (01 R17, 15 R442). -/

namespace Sys2Proof.Machine

/-! ## Streams and the failed device -/

/-- Every stream becomes IDLE and every admission is given back (08 R254, 14 R427). -/
def idleStreams (p : Part) (c : Ctl) : Ctl :=
  odSet p 0x2300 1 0 (odSet p 0x2300 2 0 (odSet p 0x2300 3 0 (odSet p 0x2300 4 12582912
    { c with
      img := idle c.img
      vd := idle c.vd
      pts := idle c.pts })))

/-- Transmissions not yet started are dropped: TxDropped counts them and TxSync is signalled (16 R466,
14 R429). -/
def dropTx (p : Part) (c : Ctl) : Ctl :=
  settle p (c.links.tx.foldl (fun c e =>
    let n := e.2.queue.length
    let c1 := if n = 0 then c else signal p (effVal p c (0x2920 + e.1) 5) n c
    modLinks (fun l => { l with tx := stow {} e.1 { e.2 with queue := [] } l.tx })
      (bump p (0x2920 + e.1) 7 64 n c1)) c)

/-- A fleet export under way stops (15 R452): its buffer is undefined, FleetStatus reads IDLE. -/
def stopExport (p : Part) (c : Ctl) : Ctl :=
  match c.fleet with
  | a :: n :: _ => odSet p 0x2890 8 0 (postUndef a n { c with fleet := [] })
  | _ => c

/-- Work in flight stops (14 R427 at 1 ms, R429): every unretired command retires DISCARDED, streams
become IDLE, spills and contexts go (11 R339). -/
def stopWork (p : Part) (c : Ctl) : Ctl :=
  let c0 := odSet p 0x2600 0xC 0 (idleStreams p (discardAll p (stopExport p c)))
  let c1 := (List.range 8).foldl (fun c i => setResident p i [] c) c0
  { c1 with
    sched := { c1.sched with running := [], resident := [], windows := [], redo := [], ferry := [], old := [] }
    journal := { c1.journal with replay := none, ready := [] }
    appends := []
    barrier := {} }

/-- A device that leaves IN_SERVICE becomes STANDBY in the same cycle, and TwinSync gains 1 (16 R473). -/
def twinStandby (p : Part) (c : Ctl) : Ctl :=
  if c.links.twin.role = 1 then
    settle p (signal p (effVal p c 0x2908 7) 1 (modLinks (fun l => { l with twin := { l.twin with role := 0 } }) c))
  else c

/-- A segmented USDO transfer under way aborts when the safe state is entered (18 R517). -/
def dropSegmented (c : Ctl) : Ctl :=
  match c.links.can.segmented with
  | some _ => emit (.od .can (.abort 0x08000022)) (modLinks (fun l => { l with can := { l.can with segmented := none } }) c)
  | none => c

/-- The device becomes failed (14 R429, 17 R488, R495) with a BootStatus ERROR. During the safe state the
steps of 14 R427 run on; otherwise work stops at once. -/
def failDevice (p : Part) (err : Nat) (c : Ctl) : Ctl :=
  if c.safety.mode = .failed then c
  else
    let inSafe := decide (c.safety.mode = .safeState)
    let c1 := electHarbour p <| twinStandby p <| modBoot (fun b => { b with error := err })
      (modSafety (fun s => { s with mode := .failed, halted := false, phase := if inSafe then s.phase else 7 }) c)
    if inSafe then c1 else dropTx p (stopWork p c1)

/-- CoreState of OD 0x2700:0A (14 R431). -/
def coreStateByte (c : Ctl) : Nat :=
  sumN ((List.range 3).map fun i =>
    (match c.safety.cores.getD i .inService with
     | .inService => 0
     | .resync => 1
     | .fenced => 2
     | .spare => 3) * 4 ^ i)

/-- Stop every running timer; with cause 0 the OPEN records become ACTED (15 R440, R452). -/
def quietLog (acted : Bool) (l : Logged) : Logged :=
  { l with timer := none, state := if acted ∧ l.state = .opened then .acted else l.state }

/-- An entry into the safe state (14 R426, R429, R430). `index` is the fault-log index of its record. -/
def enterSafe (p : Part) (cause index : Nat) (c : Ctl) : Ctl :=
  match c.safety.mode with
  | .failed => c
  | .notReady => failDevice p 13 c
  | m =>
    let n := satN 32 (odVal p c 0x2700 3 + 1)
    let c1 := odSet p 0x2700 3 n (odSet p 0x2700 4 cause c)
    let c2 := sendMsg p 0 0x12
      (leBytes 1 cause ++ leBytes 1 (coreStateByte c) ++ leBytes 2 0 ++ leBytes 4 n ++ leBytes 4 index) c1
    let recent := c.safety.entries.filter fun t => decide (diff (now c) t < ((60000000 * us : Nat) : Int))
    let c3 := modSafety (fun s => { s with entries := (recent ++ [now c]).drop (recent.length - 3) }) c2
    let c4 := if m = .safeState then c3
      else
        let c5 := modFaults (fun f =>
          { f with log := f.log.map (quietLog (decide (cause = 0))), ring := f.ring.map (quietLog (decide (cause = 0))) }) c3
        recordState p <| dropSegmented <| electHarbour p <| twinStandby p
          (modSafety (fun s => { s with mode := .safeState, phase := 0, halted := false, breaks := [] }) c5)
    if 3 ≤ recent.length then failDevice p 12 c4 else c4

/-! ## The fault record in bytes (15 R438) -/

/-- STATE code. -/
def recStateCode : RecState → Nat
  | .opened => 0
  | .cleared => 1
  | .acted => 2
  | .escalated => 3
  | .closed => 4

/-- ISLE and BLOCK of a unit; 15 when none applies. -/
def unitIsle (u : Nat) : Nat := if u < 32 then u / 4 else if u < 40 then u - 32 else 15
/-- See `unitIsle`. -/
def unitBlock (u : Nat) : Nat := if u < 32 then u % 4 else 15

/-- Bytes 0 to 59 of a fault record. -/
def recBody (arch : Nat) (l : Logged) : List Byte :=
  let r := l.rec_
  let op := match r.op with
    | some (ref, client, code, cls, step) =>
      leBytes 2 client ++ leBytes 2 ref.q ++ leBytes 2 ref.i ++ leBytes 2 (code + cls * 64 + 512) ++
        leBytes 2 0 ++ leBytes 8 step
    | none => List.replicate 18 0
  let w := l.cls + 8 * b2n r.superseded + 16 * b2n r.injected + 256 * r.mech + 65536 * r.unit +
    2 ^ 24 * recStateCode l.state
  let cell := r.cell.getD 0 + 256 * b2n r.cell.isSome + 512 * b2n r.spare
  leBytes 4 l.index ++ leBytes 4 w ++
    leBytes 2 (arch + 16 * unitIsle r.unit + 256 * unitBlock r.unit) ++ leBytes 2 cell ++ leBytes 2 r.sub ++
    op ++ leBytes 8 l.time ++ leBytes 2 (ofInt 16 l.temp) ++ leBytes 2 l.vCore ++ leBytes 2 l.vArray ++
    leBytes 2 l.vMem ++ leBytes 8 r.addr ++ leBytes 4 r.count

/-- The 64 bytes of a fault record, CHECK included. -/
def recBytes (arch : Nat) (l : Logged) : List Byte :=
  let b := recBody arch l
  b ++ leBytes 4 (crc32c b)

/-- Change the records of the log. -/
def mapLog (f : Logged → Logged) (c : Ctl) : Ctl :=
  modFaults (fun t => { t with log := t.log.map f, ring := t.ring.map f }) c

/-! ## Fences (15 R443) -/

/-- Commands in execution on a unit retire FAULTED (15 R443). An isle covers its four blocks. -/
def coversUnit (u x : Nat) : Bool :=
  decide (u = x) || (decide (32 ≤ u) && decide (u < 40) && decide (x < 32) && decide (x / 4 = u - 32))

/-- Pairs whose missing side a fenced unit owes become orphans at once (14 R406). -/
def orphanOwed (p : Part) (u : Nat) (c : Ctl) : Ctl :=
  if !serving c then c
  else c.safety.pairs.foldl (fun c e =>
    match e.2.a, e.2.b with
    | some s, none => (match owing c e.1 1 with
      | some r => if ((findCmd c r).map fun m => coversUnit u (unitOfDesc m.desc)) = some true then orphan p e.1 1 s c else c
      | none => c)
    | none, some s => (match owing c e.1 0 with
      | some r => if ((findCmd c r).map fun m => coversUnit u (unitOfDesc m.desc)) = some true then orphan p e.1 0 s c else c
      | none => c)
    | _, _ => c) c

/-- Some class-1 record of a block is OPEN: in the log, or on its way there (15 R441). -/
def openContained (c : Ctl) (b : Nat) : Bool :=
  (allLogged c).any (fun l => decide (l.rec_.unit = b) && decide (l.cls = 1) && decide (l.state = .opened)) ||
    (c.faults.inbox ++ (look {} (b / 4) c.faults.isles).recs).any fun r => decide (r.unit = b) && decide (mechClass r.mech = 1)

/-- The isle collector would fence a block for a record (15 R441): a second class-1 record while another is OPEN, or a
collector overflow. -/
def fencesBlock (c : Ctl) (b : Nat) (r : Rec) : Bool :=
  decide (r.mech = 22) || (decide (mechClass r.mech = 1) && openContained c b)

/-- What a collector holds, an overflow that it has still to report among it. -/
def Coll.held (k : Coll) : List Rec := k.overflow.toList ++ k.recs ++ k.waiting

/-- The collectors of a fenced unit forward every record they hold (15 R443). With its isle fenced, the fence of a
block is superseded (01 R18, 15 R452). -/
def forwardAll (p : Part) (u : Nat) (c : Ctl) : Ctl :=
  if u < 32 then
    let k := look {} u c.faults.blocks
    let c1 := modFaults (fun f => { f with blocks := stow {} u {} f.blocks }) c
    k.held.foldl (fun c r => toIsle p (u / 4) r c) c1
  else if u < 40 then
    let c1 := (List.range 4).foldl (fun c b =>
      let x := 4 * (u - 32) + b
      let k := look {} x c.faults.blocks
      k.held.foldl (fun c r => toInbox { r with superseded := r.superseded || fencesBlock c x r } c)
        (modFaults (fun f => { f with blocks := stow {} x {} f.blocks }) c)) c
    let k := look {} (u - 32) c1.faults.isles
    k.held.foldl (fun c r => toInbox r c)
      (modFaults (fun f => { f with isles := stow {} (u - 32) {} f.isles }) c1)
  else c

/-- Domains that a fence powers off (15 R443). -/
def fenceDomains (u : Nat) : List Nat :=
  if u < 32 then [blockDomain u]
  else if u < 40 then tab 5 fun k => 5 * (u - 32) + k
  else if 0x2A ≤ u ∧ u ≤ 0x2C then [40 + (u - 0x2A)]
  else []

/-- READERS that the AT.SCOREs in execution on a fenced unit, and its halted blocks, still hold are released
(06 R205). -/
def releaseReaders (u : Nat) (c : Ctl) : Ctl :=
  (allCmds c).foldl (fun c e => if coversUnit u (unitOfDesc e.2.desc) then releaseWork ⟨e.1, e.2.idx⟩ c else c)
    (c.blocks.foldl (fun c e =>
      if coversUnit u e.1 then modB e.1 (fun b => { b with readers := [] }) (dropReaders e.2.readers c) else c) c)

/-- Set the fence bits of a unit. -/
def setFence (u : Nat) (c : Ctl) : Ctl :=
  modFaults (fun f =>
    if u < 32 then { f with fencedBlocks := f.fencedBlocks ||| 2 ^ u }
    else if u < 40 then
      { f with fencedBlocks := f.fencedBlocks ||| 15 * 2 ^ (4 * (u - 32)), fencedOther := f.fencedOther ||| 2 ^ (u - 32) }
    else { f with fencedOther := f.fencedOther ||| 2 ^ (u - 32) }) c

/-- A read of memory finds a word corrected, or uncorrected for the first time (12 R345, R347, R362, R535): counted,
recorded, and poisoned when uncorrected. `okSub` and `badSub` are subindices of counters at `idx`, 0 for none. -/
def memFound (p : Part) (bad : Bool) (addr : Nat) (rc : Rec) (okMech badMech idx okSub badSub : Nat) (c : Ctl) : Ctl :=
  let sub := if bad then badSub else okSub
  let c1 := if sub = 0 then c else bump p idx sub 64 1 c
  raise p { rc with mech := if bad then badMech else okMech, addr := addr } (if bad then post (.poison addr) c1 else c1)

/-- The same for a lagoon word. -/
def lagoonFound (p : Part) (bad : Bool) (addr : Nat) (inj : Bool) (c : Ctl) : Ctl :=
  let i := (addr - dramTop) / lagoonSize
  memFound p bad addr { unit := 32 + i, sub := addr / 256 % 4, injected := inj } 5 6 (0x3022 + 0x100 * i) 1 2 c

/-- The same for a DRAM unit; a corrected one is rewritten. -/
def dramFound (p : Part) (bad : Bool) (addr : Nat) (inj : Bool) (c : Ctl) : Ctl :=
  memFound p bad addr { unit := 0x32 + halfOf (addr / 64), sub := chanOf p c (addr / 64), injected := inj } 7 8 0x2500 7 8
    (if bad then c else modTraffic (writeUnit p c true (addr / 64)) c)

/-- The same for a scratch word, by the command `op` of its block. -/
def scratchFound (p : Part) (op : Option (Ref × Nat × Nat × Nat × Nat)) (bad : Bool) (addr : Nat) (inj : Bool) (c : Ctl) : Ctl :=
  let b := (addr - scratchBase 0) / scratchSize
  memFound p bad addr { unit := b, sub := addr / 64 % 16, injected := inj, op := op } 3 4 (0x3023 + 0x100 * (b / 4)) (b % 4 + 1) 0 c

/-- The same for any word or unit of the device address space. -/
def wordFound (p : Part) (op : Option (Ref × Nat × Nat × Nat × Nat)) (bad : Bool) (addr : Nat) (inj : Bool) (c : Ctl) : Ctl :=
  match regionOf addr with
  | .dram => dramFound p bad addr inj c
  | .lagoon _ => lagoonFound p bad addr inj c
  | .scratch _ => scratchFound p op bad addr inj c
  | .nowhere => c

/-- Fence a fenceable unit (15 R437, R443) for the record with log index `index`; commands in execution
retire FAULTED with it, or wait stopped for the record when it has no index yet. -/
def fence (p : Part) (u : Nat) (index : Option Nat) (c : Ctl) : Ctl :=
  if 0x2C < u ∨ !hasUnit p u ∨ fencedUnit c u then c
  else
    let c0 := releaseReaders u c
    let c1 := (allCmds c0).foldl (fun c e =>
      if coversUnit u (unitOfDesc e.2.desc) ∧ (e.2.stage = .dispatched ∨ e.2.stage = .stopped ∨ e.2.stage = .executed) then
        (match index with
         | some i => resolve ⟨e.1, e.2.idx⟩ 6 (i % 65536) false c
         | none => modCmd ⟨e.1, e.2.idx⟩ (fun m => { m with stage := .stopped }) c)
      else c) (setFence u c0)
    let c2 := forwardAll p u (orphanOwed p u c1)
    let c3 := haltEngine p u 11 c2
    let c4 := (fenceDomains u).foldl (fun c d =>
      if pdOf c d = .on ∨ pdOf c d = .poweringUp then setPd d .shuttingDown c else c) c3
    let lost : Nat → Bool := fun k => coversUnit u (k % 32) && decide (u < 40)
    let c5 := modSched (fun s =>
      { s with
        windows := s.windows.filter fun e => !lost e.1
        redo := s.redo.filter fun e => !lost e.1
        running := s.running.filter fun e => !coversUnit u e.1
        ferry := s.ferry.filter fun f => !((List.range 4).all fun b => !f.mask.testBit b || lost (4 * f.isle + b)) }) c4
    settle p (if 32 ≤ u ∧ u < 40 then setResident p (u - 32) [] c5 else c5)

/-! ## The log (15 R434, R439) -/

/-- EscTimer of a class, in units of the fusion-time value. -/
def escTime (p : Part) (c : Ctl) (cls : Nat) : Nat := odVal p c 0x2800 (4 + cls) * us

/-- Mechanisms without a timer (15 R436); correctable records have none either. -/
def noTimer (m : Nat) : Bool :=
  decide (m = 14) || decide (m = 16) || decide (m = 20) || decide (m = 21) || decide (m = 24) || decide (m = 26) ||
    decide (mechClass m = 0)

/-- Whether the action of a record's mechanism would enter the safe state (15 R436). -/
def actsSafe (m unit : Nat) : Bool :=
  decide (m = 12) || decide (m = 18) || decide (m = 23) || decide (m = 25) ||
    ((decide (m = 9) || decide (m = 19)) && decide (0x2C < unit))

/-- The overflow ring is available: both DRAM halves on and the reserve filled (15 R434). -/
def ringAvailable (c : Ctl) : Bool := pdOn c 46 && pdOn c 47 && c.boot.reserveFilled

/-- Uncleared and not correctable: never overwritten. -/
def mustKeep (l : Logged) : Bool := isUncleared l && decide (l.cls ≠ 0)

/-- Where a new record goes: the new log, and whether a record was lost, or none when the log cannot take
it. -/
def logPlace (f : Faults) (avail : Bool) (l : Logged) : Option (Faults × Bool) :=
  if f.log.length < 256 then some ({ f with log := f.log ++ [l] }, false)
  else if avail then
    match f.log with
    | [] => some ({ f with log := [l] }, false)
    | o :: rest =>
      if f.ring.any fun x => decide (x.index % 65536 = o.index % 65536) && mustKeep x then none
      else some ({ f with
        log := rest ++ [l]
        ring := (f.ring.filter fun x => decide (x.index % 65536 ≠ o.index % 65536)) ++ [o] }, false)
  else
    match f.log.find? (fun x => !mustKeep x) with
    | some o => some ({ f with log := f.log.filter (fun x => decide (x.index ≠ o.index)) ++ [l] }, true)
    | none => none

/-- The records that the log holds (15 R434): the ring's while it is available. -/
def heldRecs (c : Ctl) : List Logged := if ringAvailable c then allLogged c else c.faults.log

/-- The records on chip after a correctable record has merged into one of them (15 R433). -/
def mergeLogged (r : Rec) : List Logged → Option (List Logged)
  | [] => none
  | h :: t =>
    if mergesInto r h.rec_ h.time then some ({ h with rec_ := { h.rec_ with count := h.rec_.count + r.count } } :: t)
    else (mergeLogged r t).map (h :: ·)

/-- State and timer of a record as it is logged (15 R436, R439, R452). -/
def openState (p : Part) (c : Ctl) (r : Rec) (cls : Nat) : RecState × Option Nat :=
  if cls = 0 ∨ r.mech = 26 then (.closed, none)
  else if r.mech = 24 then (.acted, none)
  else if r.mech = 17 ∧ fencedUnit c r.unit then (.closed, none)
  else if noTimer r.mech ∨ !serving c then (.opened, none)
  else (.opened, some (now c + escTime p c cls))

/-- The chip collector logs a record (15 R433, R434, R439): index, log, or a merge into a correctable record held on chip, message, FAULTED command, and the safe
state or failure that it causes. -/
def logRecord (p : Part) (r : Rec) (c : Ctl) : Ctl :=
  let cls := mechClass r.mech
  let i := c.faults.next
  let st := openState p c r cls
  let l : Logged := { index := i, rec_ := r, cls := cls, state := st.1, timer := st.2, time := now c, temp := c.power.temp, vCore := c.power.vCore, vArray := c.power.vArray, vMem := c.power.vMem }
  let c0 := modFaults (fun f => { f with next := (i + 1) % 2 ^ 32 }) c
  let c1 := match mergeLogged r c.faults.log, logPlace c0.faults (ringAvailable c0) l with
    | some k, _ => bump p 0x2802 1 64 r.count (modFaults (fun f => { f with log := k }) c0)
    | none, some (f, lost) =>
      let c2 := { c0 with faults := f }
      let c3 := if lost then bump p 0x2800 0xA 32 1 c2 else c2
      let c4 := bump p 0x2802 (cls + 1) 64 r.count c3
      if (odVal p c 0x2800 9).testBit cls then
        sendMsg p 0 0x10 ((recBytes (effVal p c 0x2900 1) l).take 48) c4 else c4
    | none, none => if cls = 0 then bump p 0x2800 0xA 32 1 c0 else enterSafe p 1 i c0
  let c5 := if r.halts.isEmpty then c1
    else settle p (r.halts.foldl (fun c ref => resolve ref 6 (i % 65536) false c) c1)
  if c5.safety.mode = .notReady ∧ actsSafe r.mech r.unit then failDevice p 13 c5 else c5

/-- A fence asked for by host software or the safety cluster (15 R440, R441): the unit is fenced and one
MECH 24 record is logged; OPEN records of the unit become ACTED. -/
def fenceNow (p : Part) (u : Nat) (c : Ctl) : Ctl :=
  let i := c.faults.next
  let c1 := mapLog (fun l => if l.state = .opened ∧ l.rec_.unit = u then { l with state := .acted, timer := none } else l) c
  fence p u (some i) (logRecord p { mech := 24, unit := u, at_ := now c } c1)

/-! ## Halts (01 R17, 15 R442) -/

/-- An uncorrected error in a block's kernel: the output tile is poisoned, the sequencer halts, and the
command waits for its record's index; its time until then is charged (11 R320). -/
def haltBlock (p : Part) (b : Nat) (r : Ref) (rc : Rec) (c : Ctl) : Ctl :=
  let poisonBank : Bank → Bank := fun k => if k.state = .opened then { k with poisoned := true } else k
  let c1 := modB b (fun x =>
    { x with halted := true, haltedBy := some r, bank0 := poisonBank x.bank0, bank1 := poisonBank x.bank1 }) c
  raise p { rc with unit := b, op := opOf c r, halts := [r] } (modCmd r (fun m => { m with stage := .stopped }) (chargeCmd p r c1))

/-- An engine or unit above the blocks consumes a poisoned word or fails its own check: the command stops
until the record is logged. -/
def stopEngine (p : Part) (r : Ref) (rc : Rec) (c : Ctl) : Ctl :=
  raise p { rc with op := opOf c r, halts := [r] } (modCmd r (fun m => { m with stage := .stopped }) (chargeCmd p r c))

end Sys2Proof.Machine
end

