-- ==== Sys2Proof/Machine/Queues.lean ====
section
/-! DEFINITION. Doorbells, fetch, dispatch, done and retirement of commands (10 R286-R303), sync objects
(10 R295), message FIFOs (10 R304-R309). -/

namespace Sys2Proof.Machine

/-- Dispatch goes on in service and, in the safe state, until its 0.010 ms step (14 R427). -/
def dispatching (c : Ctl) : Bool := serving c || (decide (c.safety.mode = .safeState) && decide (c.safety.phase = 0))

/-- Engines run on in service and, in the safe state, until its 1 ms step (14 R427, 10 R316). -/
def enginesRun (c : Ctl) : Bool := serving c || (decide (c.safety.mode = .safeState) && decide (c.safety.phase < 2))

/-! ## BAR0 regions (16 R456) -/

/-- An access to an unlisted or unpopulated offset counts in BarMisses (16 R456). -/
def barMissed (p : Part) (c : Ctl) : Ctl := bump p 0x2960 4 64 1 c

/-- Device-wide number of a slot of a function's region, when the region holds it. -/
def slotOf (p : Part) (c : Ctl) (fn : Nat) (k : Kind) (slot : Nat) : Option Nat :=
  if fn ≤ 16 ∧ slot < effVal p c (0x2410 + fn) (kindSub k + 1) then
    some (effVal p c (0x2410 + fn) (kindSub k) + slot)
  else none

/-! ## Doorbells (10 R287-R292) -/

/-- Context of queue `q` in the queue table (10 R287). -/
def readCtx (v : View) (c : Ctl) (q : Nat) : QCtx × Bool :=
  let d := devNat v.mems (64 * (effVal v.part c 0x2401 1 + q)) 64
  ({ ringAddr := bitsN d 0 58
     ringHost := bitN d 58
     cplAddr := bitsN d 64 58
     cplHost := bitN d 122
     depthLog2 := bitsN d 128 4
     cls := bitsN d 132 3
     client := bitsN d 136 8 },
   decide (bitsN d 132 3 ≠ 7) && decide (4 ≤ bitsN d 128 4))

/-- A byte span inside the device address space as engines other than the ferry reach it (12 R341). -/
def inDevice (p : Part) (c : Ctl) (a n : Nat) : Bool :=
  decide (n = 0) || (decide (a + n ≤ dramLimit p c)) ||
    (decide (dramTop ≤ a) && decide (a + n ≤ lagoonBase (isles p)))

/-- A byte span inside the device address space as the ferry reaches it: scratch as well (12 R341). -/
def inFerry (p : Part) (c : Ctl) (a n : Nat) : Bool :=
  inDevice p c a n || (decide (scratchBase 0 ≤ a) && decide (a + n ≤ scratchBase (4 * isles p)))

/-- Some part of a span lies in a switched domain that was off when its command was dispatched (12 R342): `off` holds
the domains by bit. -/
def spanOff (off : Nat) (s : Nat × Nat) : Bool :=
  decide (0 < s.2) && ((List.range 8).any (fun i => decide (s.1 < lagoonBase (i + 1)) && decide (lagoonBase i < s.1 + s.2) && off.testBit (lagoonDomain i)) ||
    (List.range 32).any (fun b => decide (s.1 < scratchBase (b + 1)) && decide (scratchBase b < s.1 + s.2) && off.testBit (blockDomain b)))

/-- A span at a device or bus address lies in its space (10 R290 REASON 3); the bus has 64-bit byte
addresses. -/
def inSpace (p : Part) (c : Ctl) (host : Bool) (a n : Nat) : Bool :=
  if host then decide (a + n ≤ 2 ^ 64) else inDevice p c a n

/-- The checks of ENABLE on a context (10 R287, R290). -/
def ctxOk (p : Part) (c : Ctl) (q : Nat) (x : QCtx) : Bool :=
  let n := 2 ^ x.depthLog2
  let o := owner p c .queue q
  holds p c o .client x.client && inSpace p c x.ringHost (64 * x.ringAddr) (64 * n) &&
    inSpace p c x.cplHost (64 * x.cplAddr) (16 * n)

/-- A refused doorbell (10 R290): counted, and the first on a queue reported; Refusals of the queue's
client counts it too (11 R340). -/
def refuseDoorbell (p : Part) (fn q reason tail : Nat) (c : Ctl) : Ctl :=
  let u := getQ c q
  let c1 := bump p 0x2401 4 64 1 (bump p (0x2410 + fn) 0xF 64 1 (bump p (0x4000 + u.ctx.client) 0xC 32 1 c))
  if u.refusedReported then c1
  else
    sendMsg p (owner p c .queue q) 2
      (leBytes 2 q ++ leBytes 1 reason ++ leBytes 1 0 ++ leBytes 2 tail ++ leBytes 2 u.retired)
      (modQ q (fun x => { x with refusedReported := true }) c1)

/-- The TAIL rule (10 R289). -/
def tailOk (u : Queue) (tail : Nat) : Bool :=
  decide ((tail + 65536 - u.tail) % 65536 + (u.tail + 65536 - u.retired) % 65536 ≤ 2 ^ u.ctx.depthLog2)

/-- A TAIL write (10 R289). -/
def ringTail (p : Part) (fn q tail : Nat) (c : Ctl) : Ctl :=
  let u := getQ c q
  if u.state ≠ .enabled then refuseDoorbell p fn q 1 tail c
  else if tailOk u tail then modQ q (fun x => { x with tail := tail, refusedReported := false }) c
  else refuseDoorbell p fn q 0 tail c

/-- An ENABLE write (10 R289). -/
def ringEnable (v : View) (fn q tail : Nat) (c : Ctl) : Ctl :=
  let u := getQ c q
  let x := readCtx v c q
  if u.state ≠ .disabled then refuseDoorbell v.part fn q 2 tail c
  else if !(x.2 && ctxOk v.part c q x.1) then refuseDoorbell v.part fn q 3 tail c
  else if 2 ^ x.1.depthLog2 < tail then refuseDoorbell v.part fn q 0 tail c
  else modQ q (fun o => { state := .enabled, tail := tail, ctx := x.1, layer := o.layer }) c

/-- A DISABLE write (10 R289). -/
def ringDisable (p : Part) (fn q tail : Nat) (c : Ctl) : Ctl :=
  if (getQ c q).state ≠ .enabled then refuseDoorbell p fn q 1 tail c
  else freeIdle p (modQ q (fun x => drain { x with refusedReported := false }) c)

/-- Payload of a DOORBELL record (13 R382): an accepted TAIL write carries the commands it offered. -/
def doorbellPayload (v : View) (c : Ctl) (fn q op tail : Nat) : List Byte :=
  let u := getQ c q
  let n := if op = 0 ∧ u.state = .enabled ∧ tailOk u tail then (tail + 65536 - u.tail) % 65536 else 0
  leBytes 2 q ++ leBytes 1 fn ++ leBytes 5 0 ++ leBytes 8 (tail + 65536 * op) ++
    (List.range n).flatMap fun k =>
      readAt v u.ctx.ringHost (64 * u.ctx.ringAddr + 64 * ((u.tail + k) % 2 ^ u.ctx.depthLog2)) 64

/-- The effect of a doorbell write of function `fn` on device-wide queue `q` (10 R289, R290). -/
def ringDoorbell (v : View) (fn q op tail : Nat) (c : Ctl) : Ctl :=
  if op = 0 then ringTail v.part fn q tail c
  else if op = 1 then ringEnable v fn q tail c
  else if op = 2 then ringDisable v.part fn q tail c
  else refuseDoorbell v.part fn q 4 tail c

/-- A doorbell write that arrives in service (10 R292): recorded, then applied. -/
def applyDoorbell (v : View) (fn q op tail : Nat) (c : Ctl) : Ctl :=
  if !serving c then c
  else ringDoorbell v fn q op tail (recordNow v.part 2 fn (doorbellPayload v c fn q op tail) c)

/-- A doorbell write through a function's region. -/
def doorbell (fn slot op tail : Nat) (v : View) (c : Ctl) : Ctl :=
  if !c.boot.cfgReady then c
  else match slotOf v.part c fn .queue slot with
    | some q => applyDoorbell v fn q op (tail % 65536) c
    | none => barMissed v.part c

/-- DOORBELL_TAIL (10 R289). -/
def execDoorbellTail (fn slot tail : Nat) (s : State) : Host.Outcome State Fault Refusal :=
  act s (doorbell fn slot 0 tail)

/-- DOORBELL_ENABLE (10 R289). -/
def execDoorbellEnable (fn slot tail : Nat) (s : State) : Host.Outcome State Fault Refusal :=
  act s (doorbell fn slot 1 tail)

/-- DOORBELL_DISABLE (10 R289); with the low bit of OP set, the reserved OP 3 (10 R290). -/
def execDoorbellDisable (fn slot tail : Nat) (op0 : Bool) (s : State) : Host.Outcome State Fault Refusal :=
  act s (doorbell fn slot (if op0 then 3 else 2) tail)

/-- What a doorbell reads as (10 R291, R292). -/
def doorbellRead (c : Ctl) (q : Nat) : Nat :=
  let u := getQ c q
  if serving c then
    u.head + 65536 * u.retired + 2 ^ 32 * u.tail +
      2 ^ 48 * (match u.state with
        | .disabled => 0
        | .enabled => 1
        | .draining => 2)
  else 0

/-! ## COMMAND_FETCH (10 R286, R288) -/

/-- Commands read and not yet dispatched. -/
def ahead (u : Queue) : Nat := (u.cmds.filter fun m => decide (m.stage = .read) && decide (m.status = 0)).length

/-- The front end reads the next command of queue `q`: at most 8 ahead of the oldest not dispatched. A command whose
ring slot is poisoned is never dispatched and none of its waits is honoured: MECH 9 is raised, it retires FAULTED in its
turn, and nothing after it is read (10 R286). -/
def fetch (q : Nat) (v : View) (c : Ctl) : Ctl :=
  let u := getQ c q
  if dispatching c ∧ u.state = .enabled ∧ !u.stopped ∧ u.head ≠ u.tail ∧ ahead u < 8 ∧ !(u.cmds.any Cmd.poisoned) then
    let a := 64 * u.ctx.ringAddr + 64 * (u.head % 2 ^ u.ctx.depthLog2)
    let bad := !u.ctx.ringHost && poisonedIn v.mems a 64
    let m : Cmd := { idx := u.head, desc := BitVec.ofNat 512 (ofLE (readAt v u.ctx.ringHost a 64)), poisoned := bad, stage := if bad then .stopped else .read }
    let c1 := modQ q (fun x => { x with head := (x.head + 1) % 65536, cmds := x.cmds ++ [m] }) (if u.ctx.ringHost then c else dramReads v.part 0x30 [(a, 64)] c)
    if bad then raise v.part { mech := 9, unit := 0x30, addr := a, halts := [⟨q, u.head⟩] } c1 else latchQ v.part q c1
  else c

/-- COMMAND_FETCH (10 R288). -/
def execCommandFetch (q : Nat) (s : State) : Host.Outcome State Fault Refusal := act s (fetch q)

/-! ## COMMAND_DISPATCH (10 R286, R293, 11 R322, R330, 14 R409-R411) -/

/-- Opcodes of a class (10 R283). -/
def opListed (cls op : Nat) : Bool :=
  match cls with
  | 0 => decide (op ≤ 8)
  | 1 => decide (op ≤ 7)
  | 2 => decide (op = 0)
  | 3 => decide (op = 0)
  | 4 => decide (op = 0)
  | 5 => decide (op ≤ 3)
  | 6 => decide (op ≤ 2)
  | _ => decide (op ≤ 4)

/-- TARGET in range for the class (10 R283, R286 check 3). -/
def targetOk (d : Desc) : Bool :=
  if dClass d = 0 then decide (dOp d = 6) || decide (dOp d = 7) || decide (dTarget d < 32)
  else if dClass d = 1 then decide (dTarget d ≤ 1)
  else true

/-- The target unit is present (00 R9): training support for AT.GRAD too. -/
def targetPresent (p : Part) (d : Desc) : Bool :=
  if dClass d = 5 then (if dOp d = 2 then decide (fld d 72 3 < isles p) else true)
  else hasUnit p (unitOfDesc d) && (decide (dClass d ≠ 0) || decide (dOp d ≠ 8) || hasTrain p)

/-- Sync objects, FIFOs and clients that a command names (10 R286 check 6). -/
def named (d : Desc) : List (Kind × Nat) :=
  (if fld d 15 1 = 1 then [(Kind.sync, fld d 16 15)] else []) ++
  (if fld d 31 1 = 1 then [(Kind.sync, fld d 32 15)] else []) ++
  (match dClass d, dOp d with
   | 7, 1 => tab (fld d 384 2 + 1) fun n => (Kind.sync, fld d (16 * n + 64) 15)
   | 7, 2 => tab (fld d 384 2 + 1) fun n => (Kind.sync, fld d (16 * n + 64) 15)
   | 7, 3 => [(Kind.fifo, fld d 64 10)]
   | 0, 7 => if fld d 64 3 = 0 then [(Kind.client, fld d 240 8)] else []
   | 5, 2 => [(Kind.client, fld d 80 8)]
   | 2, 0 => [(Kind.sync, fld d 304 15)]
   | 3, 0 => [(Kind.sync, fld d 304 15)]
   | 4, 0 => [(Kind.sync, fld d 304 15)]
   | _, _ => [])

/-- Power domain that must be on for a command to be dispatched (10 R293), if any. -/
def domainOf (d : Desc) : Option Nat :=
  match dClass d with
  | 0 => if dOp d = 6 ∨ dOp d = 7 then none else some (blockDomain (dTarget d))
  | 1 => some 43
  | 2 => some 40
  | 3 => some 41
  | 4 => some 42
  | 6 => some 45
  | _ => none

/-- The first check of 10 R286 that fails: status and DETAIL. -/
def frontCheck (p : Part) (c : Ctl) (q : Nat) (d : Desc) : Option (Nat × Nat) :=
  if dClass d ≠ 7 ∧ dClass d ≠ (getQ c q).ctx.cls then some (1, 2)
  else if !opListed (dClass d) (dOp d) then some (1, 1)
  else if !targetOk d then some (1, 3)
  else if !targetPresent p d then some (2, 0)
  else if fencedUnit c (unitOfDesc d) then some (7, 0)
  else if (named d).any fun k => !mayName p c q k.1 k.2 then some (1, 8)
  else none

/-- Redo list and live window of a block command (11 R319, R328). -/
def noteDispatch (q b idx step : Nat) (d : Desc) (c : Ctl) : Ctl :=
  let u := getQ c q
  modW u.ctx.client b (fun w => { w with live := if w.live.contains (q, u.layer) then w.live else w.live ++ [(q, u.layer)] })
    (modSched (fun s =>
      { s with redo := tweak {} (32 * q + b) (fun r =>
          if (r.cmds.filter fun m => decide (m.layer = u.layer)).length < 64 then
            { r with cmds := r.cmds ++ [⟨u.layer, idx, s.orders, step, d⟩] }
          else { r with overflow := if r.overflow.contains u.layer then r.overflow else r.overflow ++ [u.layer] }) s.redo }) c)

/-- Taint tracker of a unit (15 R446): a command of a client outside SafetyClientMask. -/
def noteTaint (p : Part) (u cl step : Nat) (c : Ctl) : Ctl :=
  if safetyClient p c cl then c
  else modFaults (fun f =>
    { f with taint := tweak {} u (fun t =>
        if t.entries.any fun e => decide (e.1 = cl) then
          { t with entries := t.entries.map fun e => if e.1 = cl then (cl, e.2.1, step, e.2.2.2 + 1) else e }
        else if t.entries.length < 32 then { t with entries := t.entries ++ [(cl, step, step, 1)] }
        else { t with overflow := true }) f.taint }) c

/-- Switched domains that are off, by bit. -/
def domainsOff (c : Ctl) : Nat := sumN ((List.range 48).map fun d => if pdOn c d then 0 else 2 ^ d)

/-- Hand a command to its unit (10 R286): counted and numbered, its step, its layer and the domains that are off
latched, speculation inherited (14 R409); the waits for a domain and a slot are over. -/
def handOver (p : Part) (q : Nat) (m : Cmd) (c : Ctl) : Ctl :=
  let r : Ref := ⟨q, m.idx⟩
  let u := getQ c q
  let step := odVal p c (0x4000 + u.ctx.client) 0x11
  let pars := (m.parents ++ u.spec).dedup
  let isMark := decide (u.ctx.cls = 0) && decide (dClass m.desc = 7) && decide (dOp m.desc = 0)
  let c0 := endSlotless p r (endDepends p r c)
  let c1 := modCmd r (fun x =>
    { x with stage := .dispatched, parents := pars, step := step, order := c.sched.orders, layer := u.layer, off := domainsOff c,
             sig := if (sigTag m.desc).isSome then .owed else .none }) c0
  let c2 := modQ q (fun x => { x with spec := pars, layer := x.layer + b2n isMark }) (bump p 0x2401 2 64 1 c1)
  let t := unitOfDesc m.desc
  let c3 := if t < 32 then touchContext (t / 4) u.ctx.client (noteDispatch q t m.idx step m.desc c2) else c2
  let c4 := if t < 32 ∨ t = 0x28 ∨ t = 0x29 ∨ t = 0x2D then noteTaint p t u.ctx.client step c3 else c3
  modSched (fun s => { s with orders := s.orders + 1 }) c4

/-- Among one client's queues with a dispatchable command for a unit, the one whose head became
dispatchable first is served, then the lowest number (11 R322). -/
def servedFirst (p : Part) (c : Ctl) (q : Nat) (m : Cmd) : Bool :=
  match scheduledUnit m.desc with
  | none => true
  | some u => c.queues.all fun e =>
    match dispatchable p c e.1 with
    | some x =>
      !(decide (e.2.ctx.client = (getQ c q).ctx.client) && decide (scheduledUnit x.desc = some u) &&
        (decide (x.since < m.since) || (decide (x.since = m.since) && decide (e.1 < q))))
    | none => true

/-- Injected control-state parity (15 R448): of the front end, or of the dispatcher of isle `i`, stops the command
that is handed over. -/
def parity (p : Part) (i : Nat) (r : Ref) (c : Ctl) : Ctl :=
  if injected c [12] 0x30 then stopEngine p r { mech := 12, unit := 0x30, injected := true } (useInjection c)
  else if i < 8 && injected c [11] (32 + i) then stopEngine p r { mech := 11, unit := 32 + i, injected := true } (useInjection c)
  else c

/-- The domain of a command's unit is off, or going off: its queue waits at it (10 R293). -/
def domainWaits (p : Part) (c : Ctl) (d : Desc) : Bool :=
  match domainOf d with
  | some x => hasDomain p x && !fencedUnit c (unitOfDesc d) && (!pdOn c x || c.power.wantOff.contains x)
  | none => false

/-- A command's unit takes it (11 R318, R322, R330): its client has a context on the isle, the unit runs the client,
the command is the one served, and the window is in place; otherwise what of this has come about stays. -/
def placeCmd (p : Part) (q : Nat) (m : Cmd) (c : Ctl) : Ctl :=
  let r : Ref := ⟨q, m.idx⟩
  let cl := (getQ c q).ctx.client
  let ctx := match isleOf m.desc with
    | some i => loadContext p i cl c
    | none => some c
  match ctx with
  | none => modCmd r (fun x => { x with slotless := true }) c
  | some c1 =>
    match takeUnit p c1 m.desc cl with
    | none => c1
    | some c2 =>
      if !servedFirst p c2 q m then c2
      else match isleOf m.desc with
        | some i =>
          if blockStopped c2 (dTarget m.desc) || evicting c2 i || !windowReady c2 cl (dTarget m.desc) then c2
          else latchQ p q (parity p i r (handOver p q m c2))
        | none => latchQ p q (parity p 8 r (handOver p q m c2))

/-- Dispatch the command at the head of queue `q` (10 R286): only once its waits are satisfied; at the
layer mark of an MX queue only once nothing is speculative; an export only once nothing it depends on is
uncommitted. A failed check settles the command, which counts as dispatched (log 31). -/
def dispatch (q : Nat) (v : View) (c : Ctl) : Ctl :=
  let p := v.part
  let u := getQ c q
  match dispatchable p c q with
  | none => c
  | some m =>
    let d := m.desc
    let markWaits := decide (u.ctx.cls = 0) && decide (dClass d = 7) && decide (dOp d = 0) && !(m.parents ++ u.spec).isEmpty
    let exportWaits := isExport p c d && !(m.parents ++ u.spec ++ m.exportOn).isEmpty
    if !dispatching c then c
    else match frontCheck p c q d with
      | some (st, dt) => settle p (resolve ⟨q, m.idx⟩ st dt false (bump p 0x2401 2 64 1 c))
      | none =>
        if markWaits ∨ exportWaits then c
        else if domainWaits p c d then modCmd ⟨q, m.idx⟩ (fun x => { x with depends := true }) c
        else placeCmd p q m c

/-- COMMAND_DISPATCH (10 R286). -/
def execCommandDispatch (q : Nat) (s : State) : Host.Outcome State Fault Refusal := act s (dispatch q)

/-! ## Execution by an engine -/

/-- Commands that a unit executes in the order of their dispatch: those of one queue for the front end, those of one
client for a scheduled unit, and all of them for another unit (10 R293, 03 R102, 06 R186, 07 R212). -/
def sameLine (c : Ctl) (d : Desc) (q q' : Nat) : Bool :=
  if dClass d = 7 then decide (q = q')
  else decide (scheduledUnit d = none) || decide ((getQ c q).ctx.client = (getQ c q').ctx.client)

/-- A dispatched command that no command dispatched to its unit before it waits in front of. -/
def isNext (c : Ctl) (r : Ref) : Bool :=
  match findCmd c r with
  | some m =>
    decide (m.stage = .dispatched) &&
      (allCmds c).all fun e => !(decide (e.2.stage = .dispatched) && decide (unitOfDesc e.2.desc = unitOfDesc m.desc) &&
        decide (e.2.order < m.order) && sameLine c m.desc r.q e.1)
  | none => false

/-- The unit is running the command's client, its window is in place and the block is not halted (01 R17, 11
R327-R329), and no self-test slice holds its cells (14 R419). The ferry's moves for the device go ahead of every command that stands at a kernel boundary (11 R327). -/
def unitRuns (c : Ctl) (r : Ref) (m : Cmd) : Bool :=
  let cl := (getQ c r.q).ctx.client
  match scheduledUnit m.desc with
  | some u => decide (look 0 u c.sched.running = cl + 1) &&
      (decide (32 ≤ u) || (windowReady c cl u && !blockStopped c u && decide (c.safety.slice ≠ some (.cells u)))) &&
      (decide (u ≠ 0x2D) || c.sched.ferry.isEmpty || !pausable c m)
  | none => true

/-- A command of the given class and opcode that its unit may execute now. -/
def ready (c : Ctl) (r : Ref) (cls op : Nat) : Option Cmd :=
  match findCmd c r with
  | some m => if isNext c r ∧ dClass m.desc = cls ∧ dOp m.desc = op ∧ enginesRun c ∧ unitRuns c r m then some m else none
  | none => none

/-- A command ends INVALID with a DETAIL (10 R301). -/
def invalid (p : Part) (r : Ref) (detail : Nat) (c : Ctl) : Ctl := settle p (resolve r 1 detail false c)

/-- Spans of device memory that the current step has written. -/
def wroteSpans (c : Ctl) : List (Nat × Nat) :=
  c.posted.filterMap fun o => match o with
    | .dev a bs => some (a, bs.length)
    | _ => none

/-- A re-execution ends without a trace of its own (11 R328). -/
def dropRedo (r : Ref) (c : Ctl) : Ctl :=
  if ((findCmd c r).bind Cmd.redo).isSome then modQ r.q (fun q => { q with cmds := q.cmds.filter fun m => decide (m.idx ≠ r.i) }) c
  else c

/-- A command has executed with status OK: its engine cycles are a free value (log 6), its time is charged to its
client, and the value of its signature and what it wrote are kept. -/
def executed (p : Part) (r : Ref) (sigVal : Nat) (c : Ctl) : Ctl :=
  let cyc := Config.cycles c.free % 2 ^ 32
  dropRedo r (chargeCmd p r
    (modCmd r (fun m => { m with stage := .executed, cycles := cyc, sigValue := BitVec.ofNat 64 sigVal, dst := m.dst ++ wroteSpans c })
      { c with free := c.free + 1 }))

/-- Count a command with a clamped field (10 R285). -/
def noteClamp (p : Part) (clamped : Bool) (c : Ctl) : Ctl := if clamped then bump p 0x2401 3 64 1 c else c

/-! ## COMMAND_DONE (10 R297, R303, 14 R409, R410) -/

/-- The done signal of a command: applied, or deferred while it is speculative or its sync object records
four uncommitted commands (10 R303, 14 R409, R410). -/
def doneSignal (p : Part) (r : Ref) (m : Cmd) (c : Ctl) : Ctl :=
  if !signalsDone m.desc ∨ m.redo.isSome then c
  else if !m.parents.isEmpty ∨ 4 ≤ (recorded c (fld m.desc 32 15)).length then
    modCmd r (fun x => { x with doneSig := .deferred }) c
  else applyDone p r m c

/-- A command that its engine has executed is done (10 R297). -/
def becomeDone (p : Part) (r : Ref) (c : Ctl) : Ctl :=
  match findCmd c r with
  | none => c
  | some m =>
    if m.stage = .executed ∧ m.status = 0 then
      settle p (doneSignal p r m (modCmd r (fun x => { x with stage := .done, since := now c }) c))
    else c

/-- COMMAND_DONE (10 R297). -/
def execCommandDone (r : Ref) (s : State) : Host.Outcome State Fault Refusal :=
  act s fun v c => becomeDone v.part r c

/-! ## COMMAND_RETIRE (10 R302) -/

/-- The oldest command of a queue may retire: settled with a status, or committed. -/
def mayRetire (u : Queue) : Bool :=
  match u.cmds with
  | m :: _ => decide (m.stage = .done) && (decide (m.status ≠ 0) || m.committed)
  | [] => false

/-- COMMAND_RETIRE (10 R302): in the safe state until its 1 ms step as well (10 R316). -/
def execCommandRetire (q : Nat) (s : State) : Host.Outcome State Fault Refusal :=
  act s fun v c => if mayRetire (getQ c q) then retireHead v.part q c else c

/-! ## Queue-control commands (10 R298) -/

/-- A QC command is done and committed in the cycle in which it executes; its CYCLES read 0. -/
def qcDone (p : Part) (r : Ref) (c : Ctl) : Ctl :=
  becomeDone p r (modCmd r (fun m => { m with stage := .executed }) c)

/-- QC.NOP (10 R298): the layer mark of MX queues (11 R319). -/
def execQcNop (r : Ref) (s : State) : Host.Outcome State Fault Refusal :=
  act s fun v c => match ready c r 7 0 with
    | some _ => qcDone v.part r (modQ r.q (fun q => { q with marked := true }) c)
    | none => c

/-- QC.WAIT (10 R298): its pairs were satisfied before dispatch. -/
def execQcWait (r : Ref) (s : State) : Host.Outcome State Fault Refusal :=
  act s fun v c => match ready c r 7 1 with
    | some _ => qcDone v.part r c
    | none => c

/-- What a QC.SIGNAL adds to sync object `s`: the sum of its pairs that name it. -/
def addedTo (d : Desc) (s : Nat) : Nat :=
  sumN ((List.range (fld d 384 2 + 1)).map fun n => if fld d (16 * n + 64) 15 = s then fld d (64 * n + 128) 64 else 0)

/-- The adds of a QC.SIGNAL, all in one cycle: each sync object gains their sum, saturated once (10 R298, R316). -/
def qcAdds (p : Part) (d : Desc) (c : Ctl) : Ctl :=
  (tab (fld d 384 2 + 1) fun n => fld d (16 * n + 64) 15).dedup.foldl (fun c s => signal p s (addedTo d s) c) c

/-- QC.SIGNAL (10 R298). -/
def execQcSignal (r : Ref) (s : State) : Host.Outcome State Fault Refusal :=
  act s fun v c => match ready c r 7 2 with
    | some m => qcDone v.part r (latchAll v.part (qcAdds v.part m.desc c))
    | none => c

/-! ## Message FIFOs (10 R304-R309) -/

/-- Agents of a FIFO (10 R304, R317): writer and reader codes. -/
def fifoAgents (p : Part) (c : Ctl) (f : Nat) : Nat × Nat :=
  let a := effVal p c (0x2430 + f / 128) (1 + f % 128)
  (bitsN a 0 4, bitsN a 4 4)

/-- Write one word (10 R307). -/
def fifoPut (p : Part) (f : Nat) (w : Word64) (fin : Bool) (c : Ctl) : Ctl :=
  let x := getFifo c f
  if x.words.length < 64 then modFifo f (fun y => { y with words := y.words ++ [(w, fin)] }) c
  else if x.overrun then c
  else sendMsg p (owner p c .fifo f) 3 (leBytes 2 f) (modFifo f (fun y => { y with overrun := true }) c)

/-- QC.FIFO_PUT (10 R298): to a FIFO whose writer agent is queues, else INVALID, DETAIL 6. WORDS clamps to
1-5. -/
def execQcFifoPut (r : Ref) (s : State) : Host.Outcome State Fault Refusal :=
  act s fun v c => match ready c r 7 3 with
    | some m =>
      let f := fld m.desc 64 10
      let raw := fld m.desc 74 3
      let n := clampN 1 5 raw
      if (fifoAgents v.part c f).1 ≠ 2 then invalid v.part r 6 c
      else qcDone v.part r (upto (fun k c =>
        fifoPut v.part f (BitVec.ofNat 64 (fld m.desc (64 * k + 128) 64))
          (decide (k + 1 = n) && decide (fld m.desc 77 1 = 1)) c) n (noteClamp v.part (decide (n ≠ raw)) c))
    | none => c

/-- QC.TIMESTAMP (10 R298): the value at byte 0, the epoch at byte 8. -/
def execQcTimestamp (r : Ref) (s : State) : Host.Outcome State Fault Refusal :=
  act s fun v c => match ready c r 7 4 with
    | some m =>
      let a := 64 * fld m.desc 64 48
      if !inDevice v.part c a 12 then invalid v.part r 5 c
      else if spanOff m.off (a, 12) then invalid v.part r 6 c
      else qcDone v.part r (post (.dev a (leBytes 8 (now c) ++ leBytes 4 c.time.epoch)) c)
    | none => c

/-- Sync-object and FIFO regions are served from the setup state onwards; before it they read 0 and ignore
writes (17 R484). -/
def regionsServed (c : Ctl) : Bool :=
  decide (c.boot.stage = .setup) || decide (c.boot.stage = .service)

/-- A sync-object write of function `fn` (10 R295): SET or ADD. -/
def syncWrite (fn slot : Nat) (f : Nat → Ctl → Ctl) (v : View) (c : Ctl) : Ctl :=
  match slotOf v.part c fn .sync slot with
  | some x => if regionsServed c then settle v.part (f x c) else c
  | none => if c.boot.cfgReady then barMissed v.part c else c

/-- SYNC_SET (10 R295): the counter takes the value; records of uncommitted commands stay (14 R409). -/
def execSyncSet (fn slot : Nat) (val : Word64) (s : State) : Host.Outcome State Fault Refusal :=
  act s fun v c => syncWrite fn slot (fun x c => { c with syncs := stow 0 x val.toNat c.syncs }) v c

/-- SYNC_ADD (10 R295): a signal by the value written. -/
def execSyncAdd (fn slot : Nat) (val : Word64) (s : State) : Host.Outcome State Fault Refusal :=
  act s fun v c => syncWrite fn slot (fun x c => signal v.part x val.toNat c) v c

/-- An access of the host agent to FIFO `slot` of function `fn`: `f` acts on the FIFO's number and says
whether the function is the FIFO's host agent (10 R304). -/
def fifoAccess (fn slot : Nat) (f : Nat → Bool → Ctl → Ctl) (v : View) (c : Ctl) : Ctl :=
  match slotOf v.part c fn .fifo slot with
  | some x => if regionsServed c then f x (decide (owner v.part c .fifo x = fn)) c else c
  | none => if c.boot.cfgReady then barMissed v.part c else c

/-- A host write of one word: ignored unless the function owns the FIFO and the writer agent is host. -/
def fifoHostWrite (fn slot : Nat) (w : Word64) (fin : Bool) (v : View) (c : Ctl) : Ctl :=
  fifoAccess fn slot (fun x own c =>
    if own ∧ (fifoAgents v.part c x).1 = 1 then fifoPut v.part x w fin c else c) v c

/-- FIFO_WRITE (10 R305). -/
def execFifoWrite (fn slot : Nat) (w : Word64) (s : State) : Host.Outcome State Fault Refusal :=
  act s (fifoHostWrite fn slot w false)

/-- FIFO_WRITE_END (10 R305). -/
def execFifoWriteEnd (fn slot : Nat) (w : Word64) (s : State) : Host.Outcome State Fault Refusal :=
  act s (fifoHostWrite fn slot w true)

/-- Pop one word (10 R306): an empty FIFO answers payload 0 with VALID 0. -/
def fifoPop (x : Fifo) : Fifo × Word64 × Bool × Bool :=
  match x.words with
  | (w, e) :: rest => ({ x with words := rest, tag := 1 + 2 * b2n e }, w, true, e)
  | [] => ({ x with tag := 0 }, 0, false, false)

/-- FIFO_READ (10 R305, R306): pops one word, returns it and latches its tag. Another agent's read returns
VALID 0. -/
def execFifoRead (fn slot : Nat) (s : State) : Host.Outcome State Fault Refusal :=
  act s (fifoAccess fn slot fun x own c =>
    if own ∧ (fifoAgents s.part c x).2 = 1 then
      let r := fifoPop (getFifo c x)
      emit (.fifoWord r.2.1 r.2.2.1 r.2.2.2) (modFifo x (fun _ => r.1) c)
    else emit (.fifoWord 0 false false) c)

/-- FIFO_FLUSH (10 R308): through the owning function, of a FIFO the host writes or reads. -/
def execFifoFlush (fn slot : Nat) (s : State) : Host.Outcome State Fault Refusal :=
  act s (fifoAccess fn slot fun x own c => if own then modFifo x (fun y => { y with words := [] }) c else c)

/-- FIFO_CLEAR_OVERRUN (10 R305). -/
def execFifoClearOverrun (fn slot : Nat) (s : State) : Host.Outcome State Fault Refusal :=
  act s (fifoAccess fn slot fun x own c => if own then modFifo x (fun y => { y with overrun := false }) c else c)

/-- STATUS of a FIFO (10 R305). -/
def fifoStatus (x : Fifo) : Nat :=
  let n := x.words.length
  n + 256 * (x.words.filter fun w => w.2).length + 65536 * b2n (decide (n = 0)) + 131072 * b2n (decide (n = 64)) +
    262144 * b2n x.overrun

end Sys2Proof.Machine
end

