-- ==== Sys2Proof/Machine/Reads.lean ====
section
/-! DEFINITION. What the checks of a command's reads find (12 R345, R347, R362, R535, 15 R448), and how a block and an
engine above the blocks run a command (01 R17, 15 R436). -/

namespace Sys2Proof.Machine

/-! ## Checks of words -/

/-- Mechanisms, unit and sub-unit that check a word (15 R436-R438). -/
def checkOf (p : Part) (c : Ctl) (a : Nat) : List Nat × Nat × Nat :=
  match regionOf a with
  | .dram => ([7, 8], 0x32 + halfOf (a / 64), chanOf p c (a / 64))
  | .lagoon i => ([5, 6], 32 + i, a / 256 % 4)
  | .scratch b => ([3, 4], b, a / 64 % 16)
  | .nowhere => ([], 0xFF, 0)

/-- An injection is armed for the check of a word (15 R448). -/
def injectedWord (p : Part) (c : Ctl) (a : Nat) : Bool :=
  let k := checkOf p c a
  injected c k.1 k.2.1 && decide (c.faults.injSub = k.2.2)

/-- What the check of a word finds: a corrected or an uncorrected word, poisoned before, or injected. -/
structure Met where
  addr : Nat
  bad : Bool
  marked : Bool := false
  injected : Bool := false
  deriving DecidableEq, Repr

/-- The words and units that a span touches, in ascending order. -/
def wordsOf (s : Nat × Nat) : List Nat :=
  if s.2 = 0 then []
  else tab ((s.1 % wordSize s.1 + s.2 + wordSize s.1 - 1) / wordSize s.1) fun i => wordOf s.1 + wordSize s.1 * i

/-- What the checks find, word by word, as far as the first uncorrected one: `left` injected checks remain. -/
def metWords (v : View) (c : Ctl) : Upset → Nat → List Nat → List Met
  | _, _, [] => []
  | u, left, w :: ws =>
    if poisonedIn v.mems w 1 then [{ addr := w, bad := true, marked := true }]
    else if 0 < left ∧ injectedWord v.part c w then
      (if c.faults.injKind = 1 then [{ addr := w, bad := true, injected := true }]
       else { addr := w, bad := false, injected := true } :: metWords v c u (left - 1) ws)
    else match u with
      | .mem bad a =>
        if wordOf a = w then
          (if bad then [{ addr := w, bad := true }] else { addr := w, bad := false } :: metWords v c .none left ws)
        else metWords v c u left ws
      | _ => metWords v c u left ws

/-- The environment gives an error of a word. -/
def memUpset : Upset → Bool
  | .mem _ _ => true
  | _ => false

/-- What the checks of some reads find, in their order. -/
def metOf (v : View) (c : Ctl) (u : Upset) (reads : List (Nat × Nat)) : List Met :=
  if v.mems.poison.isEmpty && !memUpset u && !(c.boot.testActive && decide (0 < c.faults.injLeft)) then []
  else metWords v c u c.faults.injLeft (reads.flatMap wordsOf)

/-- A word that a check has found is counted, recorded and, when uncorrected, poisoned; a word that was poisoned before
raises nothing more (12 R535). The record of a block's own scratch names the block's command in execution, `op`
(15 R438). -/
def report (p : Part) (op : Option (Ref × Nat × Nat × Nat × Nat)) (x : Met) (c : Ctl) : Ctl :=
  if x.marked then c else wordFound p op x.bad x.addr x.injected (if x.injected then useInjection c else c)

/-- A write of part of a word or unit reads it, and finds an error that the environment gives: the word is poisoned, and
the writer raises no record of its own (12 R345, R362, R535). -/
def partWrites (v : View) (u : Upset) (c : Ctl) : Ctl :=
  match u with
  | .mem bad a =>
    if !poisonedIn v.mems a 1 ∧ ((wroteSpans c).any fun s => decide (s.1 < wordOf a + wordSize a) && decide (wordOf a < s.1 + s.2) &&
        !(decide (s.1 ≤ wordOf a) && decide (wordOf a + wordSize a ≤ s.1 + s.2))) then wordFound v.part none bad a false c
    else c
  | _ => c

/-- The checks of the reads of unit `k` in a command: corrected words are reported; the first uncorrected or poisoned one
is answered. -/
def checked (v : View) (r : Option Ref) (k : Nat) (u : Upset) (reads : List (Nat × Nat)) (c : Ctl) : Ctl × Option Met :=
  let l := metOf v c u reads
  let seen := match l.find? Met.bad with
    | some x => (((reads.flatMap wordsOf).takeWhile fun w => decide (w ≠ x.addr)) ++ [x.addr]).map fun w => (w, 1)
    | none => reads
  ((l.filter fun x => !x.bad).foldl (fun c x => report v.part (r.bind (opOf c)) x c) (dramReads v.part k seen c), l.find? Met.bad)

/-- A command on unit `unit` reads: with no uncorrected or poisoned word `good` applies; at the first one, `stop`. An error of the
environment that no read meets is found by a write of part of its word. -/
def reading (v : View) (r : Option Ref) (unit : Nat) (u : Upset) (reads : List (Nat × Nat)) (stop : Met → Ctl → Ctl) (good : Ctl → Ctl) (c : Ctl) : Ctl :=
  let k := checked v r unit u reads c
  match k.2 with
  | some x => stop x k.1
  | none => if (metOf v c u reads).isEmpty then partWrites v u (good k.1) else good k.1

/-! ## Block commands (01 R17) -/

/-- The cell check that fails while a block command runs: what the environment gives, or a pending injection. -/
def cellUpset (c : Ctl) (b : Nat) (u : Upset) : Option (Bool × Nat × Nat × Bool) :=
  if injected c [1] b then some (false, 0, 0, true)
  else if injected c [2] b then some (true, 0, 0, true)
  else match u with
    | .cell parity x y => some (parity, x, y, false)
    | _ => none

/-- The cell (x, y) is a mapped spare (03 R108, R118). -/
def spareCell (p : Part) (c : Ctl) (b x y : Nat) : Bool :=
  let q := 2 * (y / 8) + x / 8
  let m := bitsN (odVal p c (0x3010 + 0x100 * (b / 4)) (1 + b % 4)) (8 * q) 8
  (m.testBit 3 && decide (m % 8 = y % 8)) || (m.testBit 7 && decide (m / 16 % 8 = x % 8))

/-- Scores held for AT.GRAD are lost with the next command of the block (06 R208). -/
def dropKept (b : Nat) (c : Ctl) : Ctl := modB b (fun x => { x with kept := none }) c

/-- A block halts at a word that its kernel reads uncorrected: a word of its own scratch is its error (MECH 4); a word
poisoned before, or of another memory, it consumes (MECH 9), and the other memory's record stands (01 R17, 12 R347,
R535). -/
def haltAtWord (v : View) (r : Ref) (b : Nat) (x : Met) (c : Ctl) : Ctl :=
  if !x.marked ∧ regionOf x.addr = .scratch b then
    haltBlock v.part b r { mech := 4, sub := x.addr / 64 % 16, addr := x.addr, injected := x.injected }
      (post (.poison x.addr) (if x.injected then useInjection c else c))
  else haltBlock v.part b r { mech := 9, addr := x.addr, injected := x.injected } (report v.part none x c)

/-- Run a block command (01 R17): a cell check that fails, or an uncorrected or poisoned word that it reads, halts the
block; `bad` says what becomes of its output; otherwise `good` applies. Scores held for AT.GRAD are lost first
(06 R208). -/
def blockRun (v : View) (r : Ref) (b : Nat) (u : Upset) (reads : List (Nat × Nat)) (bad good : Ctl → Ctl)
    (c : Ctl) : Ctl :=
  let c0 := dropKept b c
  match cellUpset c b u with
  | some (parity, x, y, inj) =>
    haltBlock v.part b r { mech := if parity then 2 else 1, cell := some (16 * y + x), spare := spareCell v.part c b x y, injected := inj }
      (bad (if inj then useInjection c0 else c0))
  | none => reading v (some r) b u reads (fun x c => haltAtWord v r b x (bad c)) good c0

/-- A drain reads an accumulator word that the environment gives an error (01 R17): corrected, it is counted and
reported; uncorrected, it halts the block. -/
def drainRead (v : View) (r : Ref) (b : Nat) (u : Upset) (bad good : Ctl → Ctl) (c : Ctl) : Ctl :=
  match u with
  | .acc true => haltBlock v.part b r { mech := 4 } (bad (dropKept b c))
  | .acc false => good (raise v.part { mech := 3, unit := b, op := opOf c r } (bump v.part (0x3023 + 0x100 * (b / 4)) (b % 4 + 1) 64 1 c))
  | _ => good c

/-! ## Engines above the blocks -/

/-- The check of an engine on its own data path or control state that fails: an injected one, or what the environment
gives. The ferry's transfers also pass the hub (unit 0x31). -/
def ownCheck (c : Ctl) (unit mech : Nat) (u : Upset) : Option Rec :=
  let half := decide (unit = 0x28) || decide (unit = 0x29)
  if injected c [mech] unit then some { mech := mech, unit := unit, sub := if half then c.faults.injSub else 0, injected := true }
  else if unit = 0x2D && injected c [12] 0x31 then some { mech := 12, unit := 0x31, injected := true }
  else match u with
    | .path g => some { mech := mech, unit := unit, sub := if half then g % 65536 else 0 }
    | _ => none

/-- The record of an engine that consumes a word. -/
def consumes (unit : Nat) (x : Met) : Rec := { mech := 9, unit := unit, addr := x.addr, injected := x.injected }

/-- Run an engine's command (12 R347, R535, 15 R436, R448): a failed check of its own mechanism and an uncorrected or
poisoned word that it reads stop it with what becomes of its output in `bad`; otherwise `good` applies. -/
def engineRun (v : View) (r : Ref) (unit mech : Nat) (u : Upset) (reads : List (Nat × Nat)) (bad good : Ctl → Ctl)
    (c : Ctl) : Ctl :=
  match ownCheck c unit mech u with
  | some rc => stopEngine v.part r rc (bad (if rc.injected then useInjection c else c))
  | none => reading v (some r) unit u reads (fun x c => stopEngine v.part r (consumes unit x) (bad (report v.part none x c))) good c

/-- What a stopped command would have written holds free values: the spec states no contents (log 5). -/
def undefSpans (l : List (Nat × Nat)) (c : Ctl) : Ctl := l.foldl (fun c s => postUndef s.1 s.2 c) c

/-- The same in host memory. -/
def undefHost (l : List (Nat × Nat)) (c : Ctl) : Ctl :=
  l.foldl (fun c s => post (.host s.1 (tab s.2 fun i => Config.freeByte c.free (s.1 + i))) { c with free := c.free + 1 }) c

end Sys2Proof.Machine
end

