-- ==== Sys2Proof/Machine/Float.lean ====
section
/-! DEFINITION. Numbers and formats (02 R45-R48, R57, R65, R69-R77): exact dyadic values, rounding to
nearest even, encoding and decoding of every format, and FP32 operations. -/

namespace Sys2Proof.Machine

/-- A value: NaN, an infinity, or (−1)^neg × mag × 2^e exactly. -/
inductive Num where
  | nan
  | inf (neg : Bool)
  | fin (neg : Bool) (mag : Nat) (e : Int)
  deriving DecidableEq, Repr

/-- Zero of either sign (02 R48). -/
def Num.isZero : Num → Bool
  | .fin _ m _ => decide (m = 0)
  | _ => false

/-- NaN. -/
def Num.isNan : Num → Bool
  | .nan => true
  | _ => false

/-- An infinity. -/
def Num.isInf : Num → Bool
  | .inf _ => true
  | _ => false

/-- Sign of a value. -/
def Num.isNeg : Num → Bool
  | .nan => false
  | .inf s => s
  | .fin s _ _ => s

/-- Value of an integer. -/
def ofI (i : Int) : Num := .fin (decide (i < 0)) i.natAbs 0

/-- The value times 2^k. -/
def Num.scale (k : Int) : Num → Num
  | .fin s m e => .fin s m (e + k)
  | x => x

/-- Magnitude. -/
def Num.abs : Num → Num
  | .fin _ m e => .fin false m e
  | .inf _ => .inf false
  | .nan => .nan

/-- Negation. -/
def Num.negate : Num → Num
  | .fin s m e => .fin (!s) m e
  | .inf s => .inf (!s)
  | .nan => .nan

/-- Signed magnitude of a finite value at exponent `e0 ≤ e`. -/
def atExp (s : Bool) (m : Nat) (e e0 : Int) : Int :=
  let x : Int := m * 2 ^ (e - e0).toNat
  if s then -x else x

/-- Exact sum; an exact cancellation is +0, and −0 only for two negative zeros. -/
def Num.add : Num → Num → Num
  | .nan, _ => .nan
  | _, .nan => .nan
  | .inf s, .inf t => if s = t then .inf s else .nan
  | .inf s, _ => .inf s
  | _, .inf s => .inf s
  | .fin s m e, .fin t n f =>
    let e0 := min e f
    let x := atExp s m e e0 + atExp t n f e0
    if x = 0 then .fin (s && t && decide (m = 0) && decide (n = 0)) 0 e0 else .fin (decide (x < 0)) x.natAbs e0

/-- Exact product; ±Inf × 0 is NaN. -/
def Num.mul : Num → Num → Num
  | .nan, _ => .nan
  | _, .nan => .nan
  | .inf s, .inf t => .inf (s != t)
  | .inf s, .fin t n _ => if n = 0 then .nan else .inf (s != t)
  | .fin s m _, .inf t => if m = 0 then .nan else .inf (s != t)
  | .fin s m e, .fin t n f => .fin (s != t) (m * n) (e + f)

/-- `a < b`; false with a NaN. -/
def Num.lt : Num → Num → Bool
  | .nan, _ => false
  | _, .nan => false
  | .inf s, .inf t => s && !t
  | .inf s, _ => s
  | _, .inf s => !s
  | .fin s m e, .fin t n f => decide (atExp s m e (min e f) < atExp t n f (min e f))

/-- `a = b` as values; false with a NaN. -/
def Num.eqv (a b : Num) : Bool := !a.isNan && !b.isNan && !a.lt b && !b.lt a

/-! ## Rounding -/

/-- `n / 2^k` to nearest, ties to even. -/
def rneShift (n k : Nat) : Nat :=
  let q := n / 2 ^ k
  let r := 2 * (n % 2 ^ k)
  if 2 ^ k < r ∨ (r = 2 ^ k ∧ q % 2 = 1) then q + 1 else q

/-- `mag × 2^e` rounded to `p` significant bits with quantum at least 2^emin. -/
def roundMag (p : Nat) (emin : Int) (mag : Nat) (e : Int) : Nat × Int :=
  let q := max (e + (Nat.log2 mag + 1 : Nat) - p) emin
  if q ≤ e then (mag * 2 ^ (e - q).toNat, q) else (rneShift mag (q - e).toNat, q)

/-- A floating format (02 R45): exponent and fraction bits, bias, and whether it is E4M3, which has no
infinity. -/
structure Fmt where
  ex : Nat
  fr : Nat
  bias : Nat
  e4m3 : Bool
  deriving DecidableEq, Repr

/-- FP8 E4M3. -/
def fE4M3 : Fmt := ⟨4, 3, 7, true⟩
/-- FP8 E5M2. -/
def fE5M2 : Fmt := ⟨5, 2, 15, false⟩
/-- BF16. -/
def fBF16 : Fmt := ⟨8, 7, 127, false⟩
/-- FP16. -/
def fFP16 : Fmt := ⟨5, 10, 15, false⟩
/-- FP32. -/
def fFP32 : Fmt := ⟨8, 23, 127, false⟩

/-- Exponent of the smallest subnormal. -/
def Fmt.emin (f : Fmt) : Int := 1 - (f.bias : Int) - f.fr

/-- Encoding of the largest finite value. -/
def Fmt.top (f : Fmt) : Nat := if f.e4m3 then 0x7E else (2 ^ f.ex - 2) * 2 ^ f.fr + (2 ^ f.fr - 1)

/-- Encoding of +Inf; E4M3's canonical NaN takes its place. -/
def Fmt.infBits (f : Fmt) : Nat := if f.e4m3 then 0x7F else (2 ^ f.ex - 1) * 2 ^ f.fr

/-- Canonical NaN (02 R47). -/
def Fmt.nanBits (f : Fmt) : Nat := if f.e4m3 then 0x7F else (2 ^ f.ex - 1) * 2 ^ f.fr + 2 ^ (f.fr - 1)

/-- Value of an encoding. -/
def decodeFp (f : Fmt) (w : Nat) : Num :=
  let fr := bitsN w 0 f.fr
  let ex := bitsN w f.fr f.ex
  let s := w.testBit (f.fr + f.ex)
  if f.e4m3 ∧ ex = 15 ∧ fr = 7 then .nan
  else if !f.e4m3 ∧ ex = 2 ^ f.ex - 1 then (if fr = 0 then .inf s else .nan)
  else if ex = 0 then .fin s fr f.emin
  else .fin s (2 ^ f.fr + fr) (f.emin + (ex - 1 : Nat))

/-- Encoding of `m × 2^q` as a magnitude, without a sign; it may lie beyond the largest finite value. -/
def magBits (f : Fmt) (m : Nat) (q : Int) : Nat :=
  if m = 0 then 0 else m + (q - f.emin).toNat * 2 ^ f.fr

/-- The sign bit. -/
def Fmt.sign (f : Fmt) (s : Bool) : Nat := if s then 2 ^ (f.fr + f.ex) else 0

/-- Encoding of a value rounded to nearest even, and whether it lay beyond the largest finite value: then
the largest finite value under SAT, an infinity (NaN for E4M3) otherwise (02 R69). -/
def encodeFp (f : Fmt) (sat : Bool) : Num → Nat × Bool
  | .nan => (f.nanBits, false)
  | .inf s => (if sat then f.sign s + f.top else if f.e4m3 then f.nanBits else f.sign s + f.infBits, true)
  | .fin s m e =>
    if m = 0 then (f.sign s, false)
    else
      let r := roundMag (f.fr + 1) f.emin m e
      let b := magBits f r.1 r.2
      if f.top < b then (if sat then f.sign s + f.top else if f.e4m3 then f.nanBits else f.sign s + f.infBits, true)
      else (f.sign s + b, false)

/-! ## FP32 on encodings (02 R76) -/

/-- Value of an FP32 encoding. -/
def dec32 (w : Nat) : Num := decodeFp fFP32 w
/-- FP32 encoding of a value. -/
def enc32 (x : Num) : Nat := (encodeFp fFP32 false x).1
/-- Addition. -/
def add32 (a b : Nat) : Nat := enc32 ((dec32 a).add (dec32 b))
/-- Subtraction. -/
def sub32 (a b : Nat) : Nat := enc32 ((dec32 a).add (dec32 b).negate)
/-- Multiplication. -/
def mul32 (a b : Nat) : Nat := enc32 ((dec32 a).mul (dec32 b))
/-- Fused multiply-add. -/
def fma32 (a b d : Nat) : Nat := enc32 (((dec32 a).mul (dec32 b)).add (dec32 d))
/-- A quotient, exact up to a sticky last bit: enough for one rounding to FP32 of operands of at most 32
significant bits (06 R200). A zero, infinite or NaN divisor gives NaN. -/
def quotNum (x y : Num) : Num :=
  match x, y with
  | .fin s m e, .fin t n f =>
    if n = 0 then .nan
    else .fin (s ^^ t) (2 * (m * 2 ^ 80 / n) + if m * 2 ^ 80 % n = 0 then 0 else 1) (e - f - 81)
  | .inf s, .fin t n _ => if n = 0 then .nan else .inf (s ^^ t)
  | _, _ => .nan
/-- Division with one rounding to FP32. -/
def quot32 (x y : Num) : Nat := enc32 (quotNum x y)
/-- A stored accumulation: −0 becomes +0 (02 R65). -/
def plus0 (a : Nat) : Nat := if a = 0x80000000 then 0 else a
/-- Addition in a sum or reduction (02 R76, R65). -/
def acc32 (a b : Nat) : Nat := plus0 (add32 a b)
/-- `a < b`. -/
def lt32 (a b : Nat) : Bool := (dec32 a).lt (dec32 b)
/-- `a = b`. -/
def eq32 (a b : Nat) : Bool := (dec32 a).eqv (dec32 b)
/-- NaN. -/
def nan32 (a : Nat) : Bool := (dec32 a).isNan
/-- Minimum and maximum: a NaN operand gives NaN, and −0 is below +0 (IEEE 754 minimum, maximum). -/
def min32 (a b : Nat) : Nat :=
  if nan32 a ∨ nan32 b then 0x7FC00000 else if lt32 a b then a else if lt32 b a then b
  else if (dec32 a).isNeg then a else b
/-- See `min32`. -/
def max32 (a b : Nat) : Nat :=
  if nan32 a ∨ nan32 b then 0x7FC00000 else if lt32 a b then b else if lt32 b a then a
  else if (dec32 a).isNeg then b else a
/-- Negation. -/
def neg32 (a : Nat) : Nat := if nan32 a then 0x7FC00000 else (a + 2 ^ 31) % 2 ^ 32
/-- +Inf. -/
def inf32 : Nat := 0x7F800000
/-- −Inf. -/
def ninf32 : Nat := 0xFF800000
/-- 1.0. -/
def one32 : Nat := 0x3F800000
/-- FP32 of an integer (02 R71). -/
def ofInt32 (i : Int) : Nat := enc32 (ofI i)
/-- The pairwise tree of a reduction across lanes (02 R79): pairs in lane order, level by level. -/
def pairUp {α : Type} (f : α → α → α) : List α → List α
  | a :: b :: l => f a b :: pairUp f l
  | l => l

/-- Levels of the tree until one value is left; `n` bounds them. -/
def treeN {α : Type} (f : α → α → α) : Nat → List α → List α
  | 0, l => l
  | n + 1, l => if l.length ≤ 1 then l else treeN f n (pairUp f l)

/-- Reduction of a list by the tree; `z` for an empty list. -/
def tree {α : Type} (f : α → α → α) (z : α) (l : List α) : α := (treeN f (Nat.log2 l.length + 2) l).headD z

/-- Round a finite value to the nearest integer, ties to even. -/
def rneInt (s : Bool) (m : Nat) (e : Int) : Int :=
  let n : Nat := if 0 ≤ e then m * 2 ^ e.toNat else rneShift m (-e).toNat
  if s then -(n : Int) else n

end Sys2Proof.Machine
end

