-- ==== Sys2Proof/Machine/Flags.lean ====
section
/-! DEFINITION. Flags: what each operation and conversion contributes to OD 0x2B00:02 ArithEventFlags
(02 R62, R66, R69-R73, R82, R534), and the conversions that raise them. -/

namespace Sys2Proof.Machine

/-- INT_WRAP. -/
def fINT_WRAP : Nat := 1
/-- FP_INF. -/
def fFP_INF : Nat := 2
/-- NAN_MADE. -/
def fNAN_MADE : Nat := 4
/-- NAN_IN. -/
def fNAN_IN : Nat := 8
/-- SAT. -/
def fSAT : Nat := 16
/-- NAN_TO_INT. -/
def fNAN_TO_INT : Nat := 32
/-- MX_NAN_BLOCK. -/
def fMX_NAN_BLOCK : Nat := 64

/-- Flags of a floating arithmetic operation (02 R534): ±Inf from finite operands, NaN from operands none of
which is NaN. -/
def opFlags (ops : List Num) (r : Num) : Nat :=
  (if r.isInf && ops.all (fun x => !x.isInf && !x.isNan) then fFP_INF else 0) |||
    (if r.isNan && ops.all (fun x => !x.isNan) then fNAN_MADE else 0)

/-- A value with the flags raised in making it. -/
structure Fl (α : Type) where
  val : α
  flags : Nat := 0
  deriving DecidableEq, Repr

/-- FP32 operation on encodings with its flags. -/
def flOp (ops : List Nat) (r : Nat) : Fl Nat := ⟨r, opFlags (ops.map dec32) (dec32 r)⟩

/-- Addition with flags. -/
def fAdd (a b : Nat) : Fl Nat := flOp [a, b] (add32 a b)
/-- Addition in a sum, with flags. -/
def fAcc (a b : Nat) : Fl Nat := flOp [a, b] (acc32 a b)
/-- Multiplication with flags. -/
def fMul (a b : Nat) : Fl Nat := flOp [a, b] (mul32 a b)

/-- Conversion to a floating format (02 R69): SAT is flagged when the largest finite value replaces a larger
one. −0 stays −0. -/
def convFp (f : Fmt) (ieee : Bool) (x : Num) : Fl Nat :=
  let r := encodeFp f (!ieee) x
  ⟨r.1, if r.2 && !ieee then fSAT else 0⟩

/-- Conversion to an integer of `w` bits (02 R70). -/
def convInt (w : Nat) (x : Num) : Fl Int :=
  let hi : Int := 2 ^ (w - 1) - 1
  let lo : Int := -(2 ^ (w - 1))
  match x with
  | .nan => ⟨0, fNAN_TO_INT⟩
  | .inf s => ⟨if s then lo else hi, fSAT⟩
  | .fin s m e =>
    let i := rneInt s m e
    if hi < i then ⟨hi, fSAT⟩ else if i < lo then ⟨lo, fSAT⟩ else ⟨i, 0⟩

/-- Requantisation of an INT32 accumulator to `w` bits (02 R72). -/
def requant (w : Nat) (acc mult : Int) (shift : Nat) (zero : Int) : Fl Int :=
  let x := acc * mult
  let y := (if x < 0 then -((rneShift x.natAbs shift : Nat) : Int) else (rneShift x.natAbs shift : Nat)) + zero
  let hi : Int := 2 ^ (w - 1) - 1
  let lo : Int := -(2 ^ (w - 1))
  if hi < y then ⟨hi, fSAT⟩ else if y < lo then ⟨lo, fSAT⟩ else ⟨y, 0⟩

/-- ⌊log₂⌋ of a non-zero finite magnitude. -/
def Num.log2 : Num → Int
  | .fin _ m e => (Nat.log2 m : Nat) + e
  | _ => 0

/-- The largest magnitude of a block. -/
def amax (l : List Num) : Num := l.foldl (fun a x => if a.lt x.abs then x.abs else a) (.fin false 0 0)

/-- An MX block (02 R73): scale byte and element bytes. `t` is 0 for MXINT8, 1 for E4M3, 2 for E5M2
elements. DEDUCED (log 88): an MXINT8 element that saturates sets SAT, as 02 R82 says of any conversion that
saturated; 02 R73 names no flag for it. -/
def convMx (t : Nat) (l : List Num) : Fl (Nat × List Nat) :=
  if l.any fun x => x.isNan || x.isInf then ⟨(0xFF, l.map fun _ => 1), fMX_NAN_BLOCK⟩
  else
    let a := amax l
    if a.isZero then ⟨(0, l.map fun _ => 0), 0⟩
    else
      let e : Int := if t = 0 then 0 else if t = 1 then 8 else 15
      let X := (max 0 (min 254 (a.log2 - e + 127))).toNat
      let k : Int := (X : Int) - 127
      let parts : List (Fl Nat) := l.map fun x =>
        if t = 0 then
          let y := convInt 8 (x.scale (6 - k))
          ⟨ofInt 8 y.val, y.flags⟩
        else convFp (if t = 1 then fE4M3 else fE5M2) false (x.scale (-k))
      ⟨(X, parts.map Fl.val), parts.foldl (fun f x => f ||| x.flags) 0⟩

end Sys2Proof.Machine
end

