-- ==== Sys2Proof/Machine/Vector.lean ====
section
/-! DEFINITION. The vector unit (02 R68, R75-R79, R534): its FP32 operations with their flags, the four functions that
it computes within two units in the last place, its 512-lane BF16 mode, stochastic rounding and the combination of
split partial tiles. -/

namespace Sys2Proof.Machine

/-! ## Operations with flags (02 R76, R534) -/

/-- Subtraction with flags. -/
def fSub (a b : Nat) : Fl Nat := flOp [a, b] (sub32 a b)

/-- Fused multiply-add with flags. -/
def fFma (a b d : Nat) : Fl Nat := flOp [a, b, d] (fma32 a b d)

/-- A sum by the tree of 02 R79, with flags. -/
def fSum (l : List Nat) : Fl Nat :=
  tree (fun a b => let y := fAcc a.val b.val; ⟨y.val, a.flags ||| b.flags ||| y.flags⟩) ⟨0, 0⟩ (l.map fun x => ⟨x, 0⟩)

/-- The maximum in a reduction: −0 becomes +0 (02 R76, R65). -/
def accMax (a b : Nat) : Nat := plus0 (max32 a b)

/-- A maximum by the tree of 02 R79. -/
def treeMax (z : Nat) (l : List Nat) : Nat := plus0 (tree accMax z l)

/-- An FP32 encoding with its NaN made canonical (02 R47). -/
def canon32 (a : Nat) : Nat := if nan32 a then fFP32.nanBits else a

/-- OR of the flags of a list. -/
def flagsOf (l : List (Fl Nat)) : Nat := l.foldl (fun a x => a ||| x.flags) 0

/-! ## exp2, log2, reciprocal and reciprocal square root (02 R77) -/

/-- Bits after the point of the fixed-point values by which results are bounded. -/
def fixBits : Nat := 128

/-- The natural logarithm of 2, rounded down, in that fixed point. -/
def fixLn2 : Nat := 0xb17217f7d1cf79abc9e3b39803f2f6af

/-- The series of e^t: the sum of what is left from the `k`-th term on, for a fixed-point `t`. -/
def expTail (t : Nat) : Nat → Nat → Nat → Nat
  | 0, _, term => term
  | n + 1, k, term => term + expTail t n (k + 1) (term * t / 2 ^ fixBits / k)

/-- 2^f for a fixed-point `f` below 1. -/
def fixExp2 (f : Nat) : Nat := expTail (f * fixLn2 / 2 ^ fixBits) 40 1 (2 ^ fixBits)

/-- The next `n` bits of log2 of a fixed-point `m` in 1 ≤ m < 2, by repeated squaring. -/
def log2Bits : Nat → Nat → Nat
  | 0, _ => 0
  | n + 1, m =>
    let q := m * m / 2 ^ fixBits
    if 2 ^ (fixBits + 1) ≤ q then 2 ^ n + log2Bits n (q / 2) else log2Bits n q

/-- log2 of a non-zero magnitude in fixed point. -/
def fixLog2 (m : Nat) (e : Int) : Int :=
  let k := Nat.log2 m
  let one : Nat := m * 2 ^ fixBits / 2 ^ k
  ((k : Int) + e) * 2 ^ fixBits + log2Bits fixBits one

/-- 2^y for a fixed-point `y`, as a value. -/
def exp2At (y : Int) : Num :=
  .fin false (fixExp2 (y % 2 ^ fixBits).toNat) (y / 2 ^ fixBits - fixBits)

/-- Exact value, to more than 80 significant bits, of operation `op` (as in `Config.vectorUnit`) on a value, where it
has one; for an infinite result or operand the limit. -/
def vectorExact (op : Nat) (x : Num) : Option Num :=
  match op, x with
  | _, .nan => some .nan
  | 0, .inf s => some (if s then .fin false 0 0 else .inf false)
  | 0, .fin s m e =>
    let y : Int := if m = 0 then 0 else if 0 ≤ e then m * 2 ^ (e.toNat + fixBits) else m * 2 ^ fixBits / 2 ^ (-e).toNat
    some (exp2At (if s then max (-(200 * 2 ^ fixBits)) (-y) else min (200 * 2 ^ fixBits) y))
  | 1, .inf false => some (.inf false)
  | 1, .fin false m e =>
    if m = 0 then none else some (let y := fixLog2 m e; .fin (decide (y < 0)) y.natAbs (-(fixBits : Int)))
  | 2, .inf s => some (.fin s 0 0)
  | 2, .fin s m e => if m = 0 then none else some (quotNum (.fin false 1 0) (.fin s m e))
  | 3, .inf false => some (.fin false 0 0)
  | 3, .fin false m e => if m = 0 then none else some (exp2At (-(fixLog2 m e) / 2))
  | _, _ => none

/-- An FP32 encoding lies within two units in the last place of an exact value. -/
def twoUlp (exact : Num) (r : Nat) : Bool :=
  !(Num.fin false 2 (max (-149) (exact.log2 - 23))).lt ((dec32 r).add exact.negate).abs

/-- The results that 02 R77 allows for a finite exact value: those within two units in the last place. -/
def vectorResults (exact : Num) : List Nat :=
  let r := enc32 exact
  r :: ((List.range 5).filterMap fun k => if r % 2 ^ 31 + k < 2 then none else some (r + k - 2)).filter fun a =>
    decide (a ≠ r) && twoUlp exact a

/-- One of the four functions: one of the results that the rule allows; a result for which it has no exact value is a
free value (log 7). -/
def vectorOp (op level x : Nat) : Nat :=
  let k := Config.vectorUnit level op (BitVec.ofNat 32 x)
  match vectorExact op (dec32 x) with
  | some y =>
    (match y with
     | .fin _ m _ => if m = 0 then enc32 y else (vectorResults y).getD (k % (vectorResults y).length) (enc32 y)
     | _ => enc32 y)
  | none => k % 2 ^ 32

/-- exp2 (02 R77). -/
def exp232 (level x : Nat) : Nat := vectorOp 0 level x
/-- log2 (02 R77): no descriptor of the spec asks for it by itself (log 82). -/
def log232 (level x : Nat) : Nat := vectorOp 1 level x
/-- Reciprocal (02 R77). -/
def recip32 (level x : Nat) : Nat := vectorOp 2 level x
/-- Reciprocal square root (02 R77): no descriptor of the spec asks for it by itself (log 82). -/
def rsqrt32 (level x : Nat) : Nat := vectorOp 3 level x

/-! ## The 512-lane BF16 mode (02 R78) -/

/-- The FP32 encoding of a BF16 one. -/
def bf16Up (w : Nat) : Nat := w * 65536

/-- An operation of the 512-lane mode on BF16 operands: computed as FP32, its result rounded once to BF16 under the
descriptor's overflow mode. No descriptor of the spec has a field that selects the mode (log 82). -/
def lane512 (ieee : Bool) (op : List Nat → Fl Nat) (l : List Nat) : Fl Nat :=
  let y := op (l.map bf16Up)
  let z := convFp fBF16 ieee (dec32 y.val)
  ⟨z.val, y.flags ||| z.flags⟩

/-- Addition in the 512-lane mode. -/
def add512 (ieee : Bool) (a b : Nat) : Fl Nat := lane512 ieee (fun l => fAdd (l.getD 0 0) (l.getD 1 0)) [a, b]
/-- Multiplication in the 512-lane mode. -/
def mul512 (ieee : Bool) (a b : Nat) : Fl Nat := lane512 ieee (fun l => fMul (l.getD 0 0) (l.getD 1 0)) [a, b]
/-- Fused multiply-add in the 512-lane mode. -/
def fma512 (ieee : Bool) (a b d : Nat) : Fl Nat :=
  lane512 ieee (fun l => fFma (l.getD 0 0) (l.getD 1 0) (l.getD 2 0)) [a, b, d]
/-- Minimum in the 512-lane mode. -/
def min512 (ieee : Bool) (a b : Nat) : Fl Nat := lane512 ieee (fun l => ⟨min32 (l.getD 0 0) (l.getD 1 0), 0⟩) [a, b]
/-- Maximum in the 512-lane mode. -/
def max512 (ieee : Bool) (a b : Nat) : Fl Nat := lane512 ieee (fun l => ⟨max32 (l.getD 0 0) (l.getD 1 0), 0⟩) [a, b]

/-! ## Stochastic rounding (02 R75) -/

/-- FP32 to BF16 with stochastic rounding by the low 16 bits of `f`, a value of the counter generator (13 R380): they
are added to the fraction bits below BF16's, and the sum is truncated. -/
def stochBf16 (x f : Nat) : Nat := if nan32 x then fBF16.nanBits else (x + f % 65536) / 65536 % 65536

/-- The conversion where a descriptor selects it: a part without training support answers ABSENT. No descriptor of the
spec has a bit that selects it (log 82). -/
def stochastic (p : Part) (x f : Nat) : Option Nat := if hasTrain p then some (stochBf16 x f) else none

/-! ## Split reductions (02 R68) -/

/-- Partial tiles of a split reduction, in ascending split order, combined in the vector unit of the block that holds
split 0: each addition rounds once, and −0 becomes +0 (02 R63, R65, R534). The spec gives no command that asks for it
by itself (log 82). -/
def combineSplits : List (List Nat) → Fl (List Nat)
  | [] => ⟨[], 0⟩
  | t :: ts => ts.foldl (fun a u =>
      let l := (a.val.zip u).map fun x => fAcc x.1 x.2
      ⟨l.map Fl.val, a.flags ||| flagsOf l⟩) ⟨t, 0⟩

end Sys2Proof.Machine
end

