-- ==== Sys2Proof/Machine/Operands.lean ====
section
/-! DEFINITION. Operands: element formats (02 R45, R46, R54), numeric fields that clamp (10 R285), lines in
scratch (03 R89, R112), zero-bitmap tiles (04 R119-R124), extents, written regions and their signatures
(14 R403), poison and injected checks of block commands (01 R17, 12 R535, 15 R448). -/

namespace Sys2Proof.Machine

/-! ## Numeric fields -/

/-- Some numeric field of the command is out of its range (10 R285). -/
def anyClamped (d : Desc) (l : List NumField) : Bool := l.any fun f => decide (numF d f ≠ fld d f.1 f.2.1)

/-! ## Element formats: codes 0 to 8 of 03 R111, 9 INT32 and 10 FP32 of 03 R114 -/

/-- An MX format. -/
def isMx (f : Nat) : Bool := decide (6 ≤ f) && decide (f ≤ 8)

/-- An element's value without its MX scale, from its bits. -/
def elemNum (f w : Nat) : Num :=
  match f with
  | 0 => ofI (sgn 4 w)
  | 1 => ofI (sgn 8 w)
  | 2 => decodeFp fE4M3 w
  | 3 => decodeFp fE5M2 w
  | 4 => decodeFp fBF16 w
  | 5 => decodeFp fFP16 w
  | 6 => (ofI (sgn 8 w)).scale (-6)
  | 7 => decodeFp fE4M3 w
  | 8 => decodeFp fE5M2 w
  | 9 => ofI (sgn 32 w)
  | _ => decodeFp fFP32 w

/-- An integer element's value. -/
def elemInt (f w : Nat) : Int := if f = 0 then sgn 4 w else if f = 9 then sgn 32 w else sgn 8 w

/-- Bits of element `i` of a line of elements that starts at byte address `a`. -/
def elemAt (m : Mems) (f a i : Nat) : Nat :=
  if f = 0 then bitsN (devByte m (a + i / 2)).toNat (4 * (i % 2)) 4
  else devNat m (a + nibbles f / 2 * i) (nibbles f / 2)

/-- Bytes of a line of elements given as bit patterns. -/
def packElems (f : Nat) : List Nat → List Byte
  | [] => []
  | x :: l =>
    if f = 0 then
      (match l with
       | y :: l' => BitVec.ofNat 8 (x % 16 + 16 * (y % 16)) :: packElems f l'
       | [] => [BitVec.ofNat 8 (x % 16)])
    else leBytes (nibbles f / 2) x ++ packElems f l

/-- Encoding of a value in a format: rounding, saturation and flags of 02 R69, R70. -/
def convElem (f : Nat) (ieee : Bool) (x : Num) : Fl Nat :=
  match f with
  | 0 => let y := convInt 4 x; ⟨ofInt 4 y.val, y.flags⟩
  | 1 => let y := convInt 8 x; ⟨ofInt 8 y.val, y.flags⟩
  | 2 => convFp fE4M3 ieee x
  | 3 => convFp fE5M2 ieee x
  | 4 => convFp fBF16 ieee x
  | 5 => convFp fFP16 ieee x
  | 9 => let y := convInt 32 x; ⟨ofInt 32 y.val, y.flags⟩
  | _ => convFp fFP32 ieee x

/-- What the array does with an operand pair (02 R54): 0 integer, 1 floating, 2 MXFP8, 3 MXINT8. -/
def pairKind (a b : Nat) : Option Nat :=
  if a ≤ 1 ∧ b ≤ 1 then some 0
  else if 2 ≤ a ∧ a ≤ 5 ∧ 2 ≤ b ∧ b ≤ 5 then some 1
  else if (a = 7 ∨ a = 8) ∧ (b = 7 ∨ b = 8) then some 2
  else if a = 6 ∧ b = 6 then some 3
  else none

/-! ## Accumulation (02 R61-R66) -/

/-- One addition of an exact term into an FP32 accumulator (02 R63, R65, R66): a NaN term is a NaN operand. -/
def stepAdd (acc : Nat) (p : Num) : Fl Nat :=
  if p.isNan then ⟨fFP32.nanBits, fNAN_IN⟩
  else if nan32 acc then ⟨fFP32.nanBits, 0⟩
  else
    let r := plus0 (enc32 ((dec32 acc).add p))
    ⟨r, opFlags [dec32 acc, p] (dec32 r)⟩

/-- One floating step: acc ← round(acc + x·y), with the zero-operand rule of 02 R61. -/
def stepFp (acc : Nat) (x y : Num) : Fl Nat := if x.isZero || y.isZero then ⟨acc, 0⟩ else stepAdd acc (x.mul y)

/-- One integer step modulo 2^32 on two's-complement encodings (02 R62). -/
def stepInt (acc : Nat) (p : Int) : Fl Nat :=
  let s := sgn 32 acc + p
  ⟨ofInt 32 s, if s < -(2 ^ 31) ∨ (2 ^ 31 : Int) ≤ s then fINT_WRAP else 0⟩

/-- Run steps in ascending k, gathering flags. -/
def runSteps (f : Nat → Nat → Fl Nat) (n init : Nat) : Fl Nat :=
  upto (fun k (st : Fl Nat) => let r := f k st.val; ⟨r.val, st.flags ||| r.flags⟩) n ⟨init, 0⟩

/-- An MX element: zero stays zero, a NaN scale makes it NaN, else value × 2^(X − 127) (02 R50, R53). -/
def scaled (x : Num) (s : Nat) : Num := if x.isZero then x else if s = 255 then .nan else x.scale ((s : Int) - 127)

/-- The MXINT8 step of one block (02 R64): the exact sum of element products, scaled, added once. -/
def stepMxInt (acc : Nat) (xs ys : List Int) (sa sb : Nat) : Fl Nat :=
  let ps := List.zipWith (· * ·) xs ys
  if (sa = 255 ∨ sb = 255) ∧ ps.any (fun p => decide (p ≠ 0)) then stepAdd acc .nan
  else stepAdd acc ((ofI (ps.foldl (· + ·) 0)).scale ((sa + sb : Nat) - 266))

/-- A tile of M × N values computed row by row, with its flags. -/
def tileOf (m n : Nat) (f : Nat → Nat → Fl Nat) : Fl (List Nat) :=
  let l := (List.range m).flatMap fun t => (List.range n).map fun u => f t u
  ⟨l.map Fl.val, l.foldl (fun a x => a ||| x.flags) 0⟩

/-! ## Zero-bitmap tiles (04) -/

/-- Set bits among the low `n` bits. -/
def popN (n w : Nat) : Nat := ((List.range n).filter fun i => w.testBit i).length

/-- Units of a group with `n` present elements (04 R120). -/
def groupUnits (f n : Nat) : Nat := cdiv (8 + elemBytes f n) 64

/-- Directory entry of one line: 16-bit fields of its groups (04 R123). -/
structure Groups where
  /-- Byte address of group 0's space, from which GROUP_ADDR counts. -/
  base : Nat
  entry : Nat
  deriving DecidableEq, Repr

/-- Byte address of group `g`, or none when GROUP_ZERO is set. -/
def Groups.addr (x : Groups) (g : Nat) : Option Nat :=
  if x.entry.testBit (16 * g + 15) then none else some (x.base + 64 * bitsN x.entry (16 * g) 15)

/-- Whether position `i` of a line is present (04 R122). -/
def Groups.present (m : Mems) (x : Groups) (i : Nat) : Bool :=
  match x.addr (i / 64) with
  | some a => (devNat m a 8).testBit (i % 64)
  | none => false

/-- Bits of position `i` of a line; 0 where absent. -/
def Groups.bits (m : Mems) (f : Nat) (x : Groups) (i : Nat) : Nat :=
  match x.addr (i / 64) with
  | some a =>
    let bm := devNat m a 8
    if bm.testBit (i % 64) then elemAt m f (a + 8) (popN (i % 64) bm) else 0
  | none => 0

/-- Directory fields and group bytes of one output line (04 R119, R123, R137): groups follow one another from
unit `at_`; a group with no present element is not written. DESIGN CHOICE (log 91): GROUP_ADDR of such a group and the
reserved fields of an entry are written 0, as 04 R137 says of an all-zero line's entry. -/
def zbtLine (f : Nat) (line : List Nat) (at_ : Nat) : Nat × List (Nat × List Byte) × Nat :=
  (List.range (cdiv line.length 64)).foldl (fun (s : Nat × List (Nat × List Byte) × Nat) g =>
    let xs := (line.drop (64 * g)).take 64
    let on : Nat → Bool := fun w => !(elemNum f w).isZero
    let n := (xs.filter on).length
    if n = 0 then (s.1 + 2 ^ (16 * g + 15), s.2.1, s.2.2)
    else
      let bm := sumN ((List.range xs.length).map fun i => if on (xs.getD i 0) then 2 ^ i else 0)
      let body := leBytes 8 bm ++ packElems f (xs.filter on)
      let u := groupUnits f n
      (s.1 + 2 ^ (16 * g) * (s.2.2 % 32768),
       s.2.1 ++ [(s.2.2, body ++ List.replicate (64 * u - body.length) 0)], s.2.2 + u)) (0, [], at_)

/-- Lines as a zero-bitmap tile: directory entries, and stored groups at unit numbers from `at_`. -/
def zbtLines (f : Nat) : List (List Nat) → Nat → List Nat × List (Nat × List Byte)
  | [], _ => ([], [])
  | l :: ls, at_ =>
    let x := zbtLine f l at_
    let r := zbtLines f ls x.2.2
    (x.1 :: r.1, x.2.1 ++ r.2)

/-- Entry of a line of `n` elements that are all zero. -/
def zeroEntry (n : Nat) : Nat := sumN ((List.range (cdiv n 64)).map fun g => 2 ^ (16 * g + 15))

/-- Spans of the stored groups of a line of `n` elements (04 R120, R124). -/
def Groups.spans (m : Mems) (f n : Nat) (x : Groups) : List (Nat × Nat) :=
  (List.range (cdiv n 64)).filterMap fun g =>
    (x.addr g).map fun a => (a, 64 * groupUnits f (popN 64 (devNat m a 8)))

/-- Directory entry of line `k` of a tile whose directory is at byte `a` with a byte stride (04 R123). -/
def dirEntry (m : Mems) (base a stride k : Nat) : Groups := ⟨base, devNat m (a + stride * (k / 8) + 8 * (k % 8)) 8⟩

/-! ## Extents, written regions and signatures -/

/-- A span that starts at byte `a` lies inside the `size` bytes from `base`. -/
def within (base size : Nat) (s : Nat × Nat) : Bool := decide (base ≤ s.1) && decide (s.1 + s.2 ≤ base + size)

/-- The bytes of a region in ascending address, each position once with what it finally holds (14 R403). -/
def regionBytes (ws : List (Nat × List Byte)) : List Byte :=
  (ws.foldl (fun m w => putBytes (fun _ _ => true) w.1 w.2 m) []).map Prod.snd

/-- The signature over regions in stream order, ended by the byte count (14 R403, R404). -/
def signatureOf (regions : List (List (Nat × List Byte))) : Nat :=
  let bs := regions.flatMap regionBytes
  crc64 (bs ++ leBytes 8 bs.length)

/-- Post writes. -/
def postWrites (ws : List (Nat × List Byte)) (c : Ctl) : Ctl := ws.foldl (fun c w => post (.dev w.1 w.2) c) c

/-- Poison every word that a write touches. -/
def poisonWrites (ws : List (Nat × List Byte)) (c : Ctl) : Ctl :=
  ws.foldl (fun c w =>
    (List.range (w.2.length / wordSize w.1 + 2)).foldl (fun c i =>
      if w.1 - w.1 % wordSize w.1 + wordSize w.1 * i < w.1 + w.2.length then
        post (.poison (w.1 - w.1 % wordSize w.1 + wordSize w.1 * i)) c else c) c) c

end Sys2Proof.Machine
end

