-- ==== Sys2Proof/Machine/Matrix.lean ====
section
/-! DEFINITION. MX.OUTER and MX.DRAIN (03 R85-R118, 04 R119-R142, 05 R160-R162). -/

namespace Sys2Proof.Machine

/-! ## Kernels -/

/-- An accumulating kernel: size, kind of pair (02 R54), element values and presence. -/
structure Kern where
  m : Nat
  n : Nat
  k : Nat
  kind : Nat
  /-- A element by tile row, tile column (depthwise alone uses it) and k. -/
  a : Nat → Nat → Nat → Num
  b : Nat → Nat → Num
  ai : Nat → Nat → Nat → Int
  bi : Nat → Nat → Int
  sa : Nat → Nat → Nat
  sb : Nat → Nat → Nat
  /-- Presence of A by row and k, of B by k and column. -/
  pa : Nat → Nat → Bool
  pb : Nat → Nat → Bool

/-- Accumulators of a tile after the kernel, in ascending k (02 R62-R64). -/
def kernTile (x : Kern) (init : List Nat) : Fl (List Nat) :=
  tileOf x.m x.n fun t u =>
    let i0 := init.getD (t * x.n + u) 0
    if x.kind = 0 then runSteps (fun k acc => stepInt acc (x.ai t u k * x.bi k u)) x.k i0
    else if x.kind = 3 then
      runSteps (fun m acc => stepMxInt acc (tab (min 32 (x.k - 32 * m)) fun j => x.ai t u (32 * m + j))
        (tab (min 32 (x.k - 32 * m)) fun j => x.bi (32 * m + j) u) (x.sa t m) (x.sb u m)) (cdiv x.k 32) i0
    else runSteps (fun k acc => stepFp acc (x.a t u k) (x.b k u)) x.k i0

/-- Passes of a k-step from the present elements of each half (04 R125). -/
def passCount (lo hi lo' hi' : Nat) : Nat := max (cdiv lo 64) (cdiv hi 64) * max (cdiv lo' 64) (cdiv hi' 64)

/-- Number of positions of a range that are present. -/
def countP (lo hi : Nat) (f : Nat → Bool) : Nat := ((List.range hi).filter fun i => decide (lo ≤ i) && f i).length

/-- Passes of k-step `k` (04 R125). -/
def Kern.passes (x : Kern) (k : Nat) : Nat :=
  let mu := cdiv x.m 2
  let nl := cdiv x.n 2
  passCount (countP 0 mu fun t => x.pa t k) (countP mu x.m fun t => x.pa t k)
    (countP 0 nl fun u => x.pb k u) (countP nl x.n fun u => x.pb k u)

/-- Passes of a dense k-step (03 R87). -/
def Kern.densePasses (x : Kern) : Nat := cdiv (cdiv x.m 2) 64 * cdiv (cdiv x.n 2) 64

/-! ## K-steps as the feeders read them (04 R131, R132, R135, 05 R153) -/

/-- A k-step: what the feeders read for it, in order; whether a stored group of it passes the end of scratch; and
whether nothing of it lies in the image, so that it is empty whatever the operands hold. -/
structure KStep where
  reads : List (Nat × Nat) := []
  beyond : Bool := false
  void : Bool := false
  deriving DecidableEq, Repr

/-- The k-steps that are empty (04 R131). -/
def emptySteps (x : Kern) (l : List KStep) : List Bool :=
  (List.range l.length).map fun k => ((l.getD k {}).void) || decide (x.passes k = 0)

/-- Passes omitted against the dense count (04 R142). -/
def passesSaved (x : Kern) (l : List KStep) : Nat :=
  sumN ((List.range l.length).map fun k => x.densePasses - if (l.getD k {}).void then 0 else x.passes k)

/-- Skip cycles of the runs of empty k-steps, each taking up to four: at least ⌈e/4⌉ for a run of e. -/
def leastSkips : Nat → List Bool → Nat
  | e, [] => cdiv e 4
  | e, true :: l => leastSkips (e + 1) l
  | e, false :: l => cdiv e 4 + leastSkips 0 l

/-- Reads of the k-steps up to the first that overruns; of that one, what lies in scratch. -/
def stepReads (b : Nat) : List KStep → List (Nat × Nat)
  | [] => []
  | k :: l => if k.beyond then k.reads.filter (within (scratchBase b) scratchSize) else k.reads ++ stepReads b l

/-! ## Banks (03 R98, R101) -/

/-- Bank `i` of a block. -/
def Block.bank (x : Block) (i : Nat) : Bank := if i = 0 then x.bank0 else x.bank1

/-- Replace bank `i`. -/
def Block.setBank (x : Block) (i : Nat) (k : Bank) : Block := if i = 0 then { x with bank0 := k } else { x with bank1 := k }

/-- The bank for ACC_MODE, and whether it continues a tile (03 R98, R101): ZERO and LOAD take a FREE bank, KEEP reopens
the newest HELD bank if its tile matches. None makes the descriptor invalid: the block executes its commands in the
order of their dispatch, so an MX.DRAIN dispatched ahead has emptied its bank. -/
def chooseBank (c : Ctl) (b mode m n : Nat) (fp mx : Bool) : Option (Nat × Bool) :=
  let x := getB c b
  if mode = 1 then
    match x.held.getLast? with
    | none => none
    | some i =>
      let k := x.bank i
      if k.m = m ∧ k.n = n ∧ k.fp = fp ∧ !(mx && decide (k.k % 32 ≠ 0)) then some (i, true) else none
  else if x.bank0.state = .free then some (0, false)
  else if x.bank1.state = .free then some (1, false)
  else none

/-- The kernel's tile is closed: the bank is HELD and the newest (03 R98). -/
def closeBank (b i : Nat) (k : Bank) (c : Ctl) : Ctl :=
  modB b (fun x => { (x.setBank i k) with held := (x.held.filter fun j => j ≠ i) ++ [i] }) c

/-- A bank becomes FREE and loses its contents. -/
def freeBank (b i : Nat) (c : Ctl) : Ctl :=
  modB b (fun x => { (x.setBank i {}) with held := x.held.filter fun j => j ≠ i }) c

/-- Bubbles, skip cycles and the activity level of a kernel with the given k-steps are timing: free values (log 6),
within what the rules fix. A run of e empty k-steps takes from ⌈e/4⌉ to e skip cycles, each a dry bubble too (04
R131, R142); in DidtMode 2 there are no ramp bubbles and no ramps (03 R106). -/
def countBubbles (p : Part) (b : Nat) (empty : List Bool) (c : Ctl) : Ctl :=
  let i := 0x100 * (b / 4)
  let s := b % 4 + 1
  let n : Nat → Nat := fun k => Config.cycles (c.free + k) % 2 ^ 32
  let least := leastSkips 0 empty
  let skips := least + Config.cycles (c.free + 3) % ((empty.filter id).length - least + 1)
  let didt := decide (effVal p c 0x2B00 4 = 2)
  let c1 := bump p (0x3011 + i) s 64 (n 0 + skips) (bump p (0x3012 + i) s 64 (n 1)
    (bump p (0x3013 + i) s 64 (if didt then 0 else n 2) (bump p (0x3014 + i) s 64 skips c)))
  { (if didt then c1 else modB b (fun x => { x with activity := n 4 % 17 }) c1) with free := c.free + 5 }

/-- Raise arithmetic flags (02 R82). -/
def raiseFlags (p : Part) (f : Nat) (c : Ctl) : Ctl := if f = 0 then c else orFlags p 0x2B00 2 f c

/-- Execute an accumulating kernel whose checks have passed. `acc` gives the accumulators that LOAD reads and their
spans; `array` is false for a tile of the vector unit. A kernel that a stored group past the end of scratch stops at
its k-step ends INVALID and frees the bank (04 R135); the k-steps before it have run (log 89). A kernel that halts the
block raises no flags and counts nothing (log 89). -/
def runKern (v : View) (r : Ref) (b : Nat) (u : Upset) (i : Nat) (keep : Bool) (x : Kern) (zbt array : Bool)
    (acc : Option (List Nat × List (Nat × Nat))) (steps : List KStep) (c : Ctl) : Ctl :=
  let p := v.part
  let fp := decide (x.kind ≠ 0)
  let old := (getB c b).bank i
  let init := if keep then old.acc else (acc.map Prod.fst).getD []
  let ran := steps.takeWhile fun k => !k.beyond
  let cut := decide (ran.length < x.k)
  let shut : Bool → List Nat → Bank := fun bad l => { state := .held, m := x.m, n := x.n, fp := fp, k := x.k, acc := l, poisoned := bad }
  blockRun v r b u ((acc.map Prod.snd).getD [] ++ stepReads b steps) (fun c => closeBank b i (shut true init) c) (fun c =>
    let y := kernTile { x with k := if cut && decide (x.kind = 3) then ran.length - ran.length % 32 else ran.length } init
    let c1 := raiseFlags p y.flags c
    let c2 := if zbt then bump p (0x3015 + 0x100 * (b / 4)) (b % 4 + 1) 64 (passesSaved x ran) c1 else c1
    let c3 := countBubbles p b (if array then emptySteps x ran else []) c2
    if cut then invalid p r 5 (freeBank b i c3)
    else executed p r 0 (closeBank b i (shut (keep && old.poisoned) y.val) c3)) c

/-- Accumulators that LOAD reads, −0 stored as +0 and a NaN as the canonical one (03 R112, 02 R47), and the spans
read. -/
def loadAcc (v : View) (b addr stride m n : Nat) (fp : Bool) : List Nat × List (Nat × Nat) :=
  let row := fun t => scratchBase b + 64 * (addr + stride * t)
  ((List.range m).flatMap fun t => (List.range n).map fun u =>
      let w := devNat v.mems (row t + 4 * u) 4
      if fp then canon32 (plus0 w) else w,
   (List.range m).map fun t => (row t, 4 * n))

/-! ## MX.OUTER (03 R111-R113) -/

/-- Numeric fields of MX.OUTER that its form uses (log 49): scale strides of MX operands, ACC_STRIDE of LOAD. -/
def outerFields (d : Desc) : List NumField :=
  [(80, 9, 1, 256), (96, 9, 1, 256), (128, 32, 1, 16777216), (176, 16, 1, 32767), (208, 16, 1, 32767)] ++
  (if isMx (fld d 64 4) then [(240, 16, 1, 32767)] else []) ++ (if isMx (fld d 68 4) then [(272, 16, 1, 32767)] else []) ++
  (if fld d 76 2 = 2 then [(304, 16, 1, 32767)] else [])

/-- One operand of an MX.OUTER. -/
structure Opnd where
  f : Nat
  trans : Bool
  zbt : Bool
  /-- Byte address of the first line, byte stride, lanes and reduction length. -/
  a : Nat
  stride : Nat
  lanes : Nat
  k : Nat
  sc : Nat
  scStride : Nat
  deriving DecidableEq, Repr

/-- Bits of the element at lane `t` and step `k` (03 R112, 04 R122). -/
def Opnd.bits (m : Mems) (b : Nat) (x : Opnd) (t k : Nat) : Nat :=
  if x.zbt then (dirEntry m (scratchBase b) x.a x.stride k).bits m x.f t
  else if x.trans then elemAt m x.f (x.a + x.stride * t) k
  else elemAt m x.f (x.a + x.stride * k) t

/-- The scale byte of lane `t` in block `m` (03 R112). -/
def Opnd.scale (m : Mems) (x : Opnd) (t blk : Nat) : Nat := (devByte m (x.sc + x.scStride * blk + t)).toNat

/-- Value with its MX scale. -/
def Opnd.num (m : Mems) (b : Nat) (x : Opnd) (t k : Nat) : Num :=
  let e := elemNum x.f (x.bits m b t k)
  if isMx x.f then scaled e (x.scale m t (k / 32)) else e

/-- Integer value. -/
def Opnd.int (m : Mems) (b : Nat) (x : Opnd) (t k : Nat) : Int := elemInt x.f (x.bits m b t k)

/-- Presence: every element of a dense operand counts (04 R121). -/
def Opnd.present (m : Mems) (b : Nat) (x : Opnd) (t k : Nat) : Bool :=
  !x.zbt || (dirEntry m (scratchBase b) x.a x.stride k).present m t

/-- Lines, directory and scale lines: the extents checked before execution (03 R113). -/
def Opnd.extents (x : Opnd) : List (Nat × Nat) :=
  (if x.zbt then (List.range (cdiv x.k 8)).map fun j => (x.a + x.stride * j, 64)
   else if x.trans then (List.range x.lanes).map fun t => (x.a + x.stride * t, elemBytes x.f x.k)
   else (List.range x.k).map fun k => (x.a + x.stride * k, elemBytes x.f x.lanes)) ++
  (if isMx x.f then (List.range (cdiv x.k 32)).map fun m => (x.sc + x.scStride * m, x.lanes) else [])

/-- Directory entry of line `k` of a ZBT operand (04 R123). -/
def Opnd.dir (m : Mems) (b : Nat) (x : Opnd) (k : Nat) : Groups := dirEntry m (scratchBase b) x.a x.stride k

/-- The directory line, and the scale line, that the reads of k-step `k` begin with. -/
def Opnd.heads (x : Opnd) (k : Nat) : List (Nat × Nat) :=
  (if x.zbt && decide (k % 8 = 0) then [(x.a + x.stride * (k / 8), 64)] else []) ++
    (if isMx x.f && decide (k % 32 = 0) then [(x.sc + x.scStride * (k / 32), x.lanes)] else [])

/-- What the feeder reads of k-step `k`: stored groups in ascending order, or a dense line (04 R132). -/
def Opnd.data (m : Mems) (b : Nat) (x : Opnd) (k : Nat) : List (Nat × Nat) :=
  if x.zbt then (x.dir m b k).spans m x.f x.lanes
  else if x.trans then (List.range x.lanes).map fun t => (x.a + x.stride * t + nibbles x.f * k / 2, max 1 (nibbles x.f / 2))
  else [(x.a + x.stride * k, elemBytes x.f x.lanes)]

/-- Every group of the operand's entry of line `k` is marked zero (04 R131). -/
def Opnd.allZero (m : Mems) (b : Nat) (x : Opnd) (k : Nat) : Bool :=
  x.zbt && (List.range (cdiv x.lanes 64)).all fun g => ((x.dir m b k).addr g).isNone

/-- A k-step of two operands: of one that is directory-empty nothing but directory and scale lines is read (04 R131). -/
def outerStep (m : Mems) (b : Nat) (x y : Opnd) (k : Nat) : KStep :=
  let data := if x.allZero m b k || y.allZero m b k then [] else x.data m b k ++ y.data m b k
  { reads := x.heads k ++ y.heads k ++ data, beyond := !(data.all (within (scratchBase b) scratchSize)) }

/-- Operand A (`off = 0`) or B of a descriptor on block `b`. -/
def outerOpnd (b : Nat) (d : Desc) (isB : Bool) : Opnd :=
  let o := if isB then 1 else 0
  { f := fld d (64 + 4 * o) 4
    trans := decide (fld d (72 + o) 1 = 1)
    zbt := decide (fld d (74 + o) 1 = 1)
    a := scratchBase b + 64 * fld d (160 + 32 * o) 15
    stride := 64 * numF d (176 + 32 * o, 16, 1, 32767)
    lanes := numF d (80 + 16 * o, 9, 1, 256)
    k := numF d (128, 32, 1, 16777216)
    sc := scratchBase b + 64 * fld d (224 + 32 * o) 15
    scStride := 64 * numF d (240 + 32 * o, 16, 1, 32767) }

/-- The kernel of an MX.OUTER. -/
def outerKern (m : Mems) (b kind : Nat) (x y : Opnd) : Kern :=
  { m := x.lanes, n := y.lanes, k := x.k, kind := kind
    a := fun t _ k => x.num m b t k
    b := fun k u => y.num m b u k
    ai := fun t _ k => x.int m b t k
    bi := fun k u => y.int m b u k
    sa := fun t blk => x.scale m t blk
    sb := fun u blk => y.scale m u blk
    pa := fun t k => x.present m b t k
    pb := fun k u => y.present m b u k }

/-- MX.OUTER on block `b` (03 R111-R113). -/
def outer (r : Ref) (u : Upset) (v : View) (c : Ctl) : Ctl :=
  match ready c r 0 0 with
  | none => c
  | some cmd =>
    let p := v.part
    let d := cmd.desc
    let b := dTarget d
    let x := outerOpnd b d false
    let y := outerOpnd b d true
    let mode := fld d 76 2
    let c0 := dropKept b (noteClamp p (anyClamped d (outerFields d)) c)
    let inScratch := within (scratchBase b) scratchSize
    let stride := numF d (304, 16, 1, 32767)
    if 9 ≤ x.f ∨ 9 ≤ y.f ∨ mode = 3 then invalid p r 1 c0
    else match pairKind x.f y.f with
      | none => invalid p r 4 c0
      | some kind =>
        let fp := decide (kind ≠ 0)
        let acc := loadAcc v b (fld d 288 15) stride x.lanes y.lanes fp
        if !((x.extents ++ y.extents ++ (if mode = 2 then acc.2 else [])).all inScratch) then invalid p r 5 c0
        else match chooseBank c b mode x.lanes y.lanes fp (isMx x.f) with
          | none => invalid p r 6 c0
          | some (i, keep) =>
            if (x.trans && (isMx x.f || x.zbt)) || (y.trans && (isMx y.f || y.zbt)) then invalid p r 10 c0
            else runKern v r b u i keep (outerKern v.mems b kind x y) (x.zbt || y.zbt) true
              (if mode = 2 then some acc else none) ((List.range x.k).map (outerStep v.mems b x y)) c0

/-- MX_OUTER (03 R111). -/
def execMxOuter (r : Ref) (u : Upset) (s : State) : Host.Outcome State Fault Refusal := act s (outer r u)

/-! ## MX.DRAIN (03 R114-R116, 04 R137, R138, 05 R160, R161) -/

/-- Numeric fields of MX.DRAIN that its form uses on a tile (log 49): REQ_SHIFT for INT4 and INT8 output of an INT32
tile, OUT_STRIDE but for ZBT and argmax output, AUX_ADDR and AUX_STRIDE where there is auxiliary output. -/
def drainFields (fp : Bool) (d : Desc) : List NumField :=
  let top := if fld d 71 1 = 1 then 131071 else 32767
  let mx := isMx (fld d 64 4)
  let zbt := decide (fld d 72 1 = 1)
  let argmax := decide (fld d 80 1 = 1)
  (if !fp && decide (fld d 64 4 ≤ 1) then [(128, 8, 0, 63)] else []) ++
  (if argmax && decide (fld d 81 1 = 0) then [] else [(192, 20, 0, top)]) ++
  (if zbt || argmax then [] else [(224, 16, 1, 65535)]) ++
  (if mx || zbt || argmax then [(304, 20, 0, top)] else []) ++
  (if (mx || zbt) && !argmax then [(336, 16, 1, 65535)] else [])

/-- OUT_ADDR and AUX_ADDR in units of the memory that OUT_DEST names. -/
def drainAddr (d : Desc) (o : Nat) : Nat := numF d (o, 20, 0, if fld d 71 1 = 1 then 131071 else 32767)

/-- ACT_PARAM with NaN taken as +0 (05 R160). -/
def actParam (d : Desc) : Nat := if nan32 (fld d 272 32) then 0 else fld d 272 32

/-- Activation of an INT32 accumulator. -/
def actInt (act p : Nat) (x : Int) : Fl Int :=
  if act = 1 then ⟨max x 0, 0⟩
  else if act = 2 then (if 0 ≤ x then ⟨x, 0⟩ else convInt 32 ((ofI x).mul (dec32 p)))
  else if act = 3 then
    let b := convInt 32 (dec32 (if lt32 0 p then p else 0))
    ⟨min (max x 0) b.val, b.flags⟩
  else ⟨x, 0⟩

/-- Activation of an FP32 accumulator. -/
def actFp (act p x : Nat) : Fl Nat :=
  if act = 0 then ⟨x, 0⟩
  else if nan32 x then ⟨fFP32.nanBits, 0⟩
  else if act = 1 then ⟨if lt32 x 0 then 0 else x, 0⟩
  else if act = 2 then (if lt32 x 0 then flOp [x, p] (plus0 (mul32 x p)) else ⟨x, 0⟩)
  else
    let b := if lt32 0 p then p else 0
    let y := if lt32 x 0 then 0 else x
    ⟨if lt32 b y then b else y, 0⟩

/-- Bias and activation of the accumulator in column `u` (05 R160). -/
def drainStage (m : Mems) (b : Nat) (d : Desc) (fp : Bool) (u acc : Nat) : Fl Nat :=
  let w := devNat m (scratchBase b + 64 * fld d 256 15 + 4 * u) 4
  let x : Fl Nat :=
    if fld d 76 1 = 0 then ⟨acc, 0⟩ else if fp then stepAdd acc (dec32 w) else stepInt acc (sgn 32 w)
  let act := fld d 77 3
  if fp then
    let y := actFp act (actParam d) x.val
    ⟨y.val, x.flags ||| y.flags⟩
  else
    let y := actInt act (actParam d) (sgn 32 x.val)
    ⟨ofInt 32 y.val, x.flags ||| y.flags⟩

/-- The overflow mode: whether IEEE (02 R74). -/
def ieeeMode (p : Part) (c : Ctl) (mode : Nat) : Bool :=
  decide (mode = 2) || (decide (mode = 0) && decide (odVal p c 0x2B00 3 = 1))

/-- The value that leaves towards a floating or MX format: the accumulator, or the scaled INT32 (02 R72). -/
def drainFloat (d : Desc) (fp : Bool) (x : Nat) : Fl Nat := if fp then ⟨x, 0⟩ else fMul (ofInt32 (sgn 32 x)) (fld d 160 32)

/-- Conversion to a format that is not MX (03 R115): an accumulator of the output's own type is copied, a NaN as the
canonical one (02 R47). -/
def drainConv (ieee : Bool) (d : Desc) (fp : Bool) (f x : Nat) : Fl Nat :=
  if !fp ∧ f ≤ 1 then
    let w := if f = 0 then 4 else 8
    let y := requant w (sgn 32 x) (sgn 32 (fld d 96 32)) (numF d (128, 8, 0, 63)) (sgn 16 (fld d 144 16))
    ⟨ofInt w y.val, y.flags⟩
  else if !fp ∧ f = 9 then ⟨x, 0⟩
  else if fp ∧ f = 10 then ⟨canon32 x, 0⟩
  else
    let y := drainFloat d fp x
    let z := convElem f ieee (dec32 y.val)
    ⟨z.val, y.flags ||| z.flags⟩

/-- Index of the largest value of a row (05 R161): NaN above +Inf, ties to the lowest. -/
def argmaxOf (fp : Bool) (l : List Nat) : Nat :=
  let gt : Nat → Nat → Bool := fun a b =>
    if fp then (nan32 a && !nan32 b) || lt32 b a else decide (sgn 32 b < sgn 32 a)
  (List.range l.length).foldl (fun best u => if gt (l.getD u 0) (l.getD best 0) then u else best) 0

/-- What a drain writes: output region, auxiliary region and flags. -/
structure Written where
  out : List (Nat × List Byte) := []
  aux : List (Nat × List Byte) := []
  flags : Nat := 0
  deriving DecidableEq, Repr

/-- What a drain of a tile of M × N staged values writes (03 R114, R115, 04 R137, 05 R161); `lo` is the byte
address of the memory that OUT_DEST names. -/
def drainWrites (d : Desc) (ieee fp : Bool) (lo m n : Nat) (vals : List Nat) : Written :=
  let f := fld d 64 4
  let out := drainAddr d 192
  let ostr := numF d (224, 16, 1, 65535)
  let aux := drainAddr d 304
  let astr := numF d (336, 16, 1, 65535)
  let val : Nat → Nat → Nat := fun t u => vals.getD (t * n + u) 0
  if fld d 80 1 = 1 then
    let best := (List.range m).map fun t => argmaxOf fp ((List.range n).map fun u => val t u)
    let win := (List.range m).map fun t => drainConv ieee d fp f (val t (best.getD t 0))
    { out := if fld d 81 1 = 1 then [(lo + 64 * out, packElems f (win.map Fl.val))] else []
      aux := [(lo + 64 * aux, best.flatMap fun u => leBytes 2 u)]
      flags := if fld d 81 1 = 1 then flagsOf win else 0 }
  else
    let nl := if fld d 70 1 = 1 then n else m
    let len := if fld d 70 1 = 1 then m else n
    let at_ : Nat → Nat → Nat := fun l i => if fld d 70 1 = 1 then val i l else val l i
    if isMx f then
      let fl := (List.range nl).map fun l => (List.range len).map fun i => drainFloat d fp (at_ l i)
      let blocks := fl.map fun line => (chunks 32 (cdiv len 32) line).map fun b =>
        convMx (f - 6) (b.map fun x => dec32 x.val)
      { out := (List.range nl).map fun l => (lo + 64 * (out + ostr * l),
          (blocks.getD l []).flatMap fun b => b.val.2.map fun w => BitVec.ofNat 8 w)
        aux := (List.range (cdiv len 32)).map fun k => (lo + 64 * (aux + astr * k),
          (List.range nl).map fun l => BitVec.ofNat 8 (((blocks.getD l []).map fun b => b.val.1).getD k 0))
        flags := (fl.map flagsOf).foldl (· ||| ·) 0 |||
          (blocks.map fun l => l.foldl (fun a b => a ||| b.flags) 0).foldl (· ||| ·) 0 }
    else
      let cv := (List.range nl).map fun l => (List.range len).map fun i => drainConv ieee d fp f (at_ l i)
      let flags := (cv.map flagsOf).foldl (· ||| ·) 0
      if fld d 72 1 = 1 then
        let z := zbtLines f (cv.map fun l => l.map Fl.val) out
        let dirs := z.1 ++ List.replicate (8 * cdiv nl 8 - nl) (zeroEntry len)
        { out := z.2.map fun g => (lo + 64 * g.1, g.2)
          aux := (List.range (cdiv nl 8)).map fun j => (lo + 64 * (aux + astr * j),
            (List.range 8).flatMap fun i => leBytes 8 (dirs.getD (8 * j + i) 0))
          flags := flags }
      else
        { out := (List.range nl).map fun l => (lo + 64 * (out + ostr * l), packElems f ((cv.getD l []).map Fl.val))
          flags := flags }

/-- The extents of a drain that are checked (03 R116, 04 R138): the ZBT output at its largest. -/
def drainExtents (d : Desc) (lo m n : Nat) : List (Nat × Nat) :=
  let f := fld d 64 4
  let out := drainAddr d 192
  let aux := drainAddr d 304
  let astr := numF d (336, 16, 1, 65535)
  let nl := if fld d 70 1 = 1 then n else m
  let len := if fld d 70 1 = 1 then m else n
  if fld d 80 1 = 1 then
    (lo + 64 * aux, 2 * m) :: (if fld d 81 1 = 1 then [(lo + 64 * out, elemBytes f m)] else [])
  else if fld d 72 1 = 1 then
    [(lo + 64 * out, 64 * nl * cdiv len 64 * groupUnits f 64), (lo + 64 * (aux + astr * (cdiv nl 8 - 1)), 64)]
  else
    (lo + 64 * (out + numF d (224, 16, 1, 65535) * (nl - 1)), elemBytes f len) ::
      (if isMx f then [(lo + 64 * (aux + astr * (cdiv len 32 - 1)), nl)] else [])

/-- MX.DRAIN (03 R114). DEDUCED (log 90): a default OVF_MODE is read when the drain begins, not when the kernel that it
drains began (02 R84). -/
def drainTile (r : Ref) (u : Upset) (v : View) (c : Ctl) : Ctl :=
  match ready c r 0 1 with
  | none => c
  | some cmd =>
    let p := v.part
    let d := cmd.desc
    let b := dTarget d
    let f := fld d 64 4
    let lag := decide (fld d 71 1 = 1)
    let lo := if lag then lagoonBase (b / 4) else scratchBase b
    let c0 := dropKept b (noteClamp p (anyClamped d (drainFields ((getB c b).held.head?.any fun i => ((getB c b).bank i).fp) d)) c)
    let argmax := decide (fld d 80 1 = 1)
    let zbt := decide (fld d 72 1 = 1)
    if 11 ≤ f ∨ fld d 68 2 = 3 ∨ 4 ≤ fld d 77 3 then invalid p r 1 c0
    else if isMx f && (zbt || argmax) then invalid p r 4 c0
    else match (getB c b).held with
      | [] => invalid p r 6 c0
      | i :: _ =>
        let k := (getB c b).bank i
        let bias := (scratchBase b + 64 * fld d 256 15, 4 * k.n)
        if !((drainExtents d lo k.m k.n).all (within lo (if lag then lagoonSize else scratchSize))) ∨
            (fld d 76 1 = 1 ∧ !within (scratchBase b) scratchSize bias) then invalid p r 5 c0
        else if lag ∧ cmd.off.testBit (lagoonDomain (b / 4)) then invalid p r 6 c0
        else if zbt && (lag || argmax) then invalid p r 10 c0
        else
          let st := (List.range (k.m * k.n)).map fun j => drainStage v.mems b d k.fp (j % k.n) (k.acc.getD j 0)
          let w := drainWrites d (ieeeMode p c (fld d 68 2)) k.fp lo k.m k.n (st.map Fl.val)
          let bad := fun c => freeBank b i (poisonWrites (w.out ++ w.aux) c)
          if k.poisoned then haltBlock p b r { mech := 9 } (bad c0)
          else drainRead v r b u bad (blockRun v r b u (if fld d 76 1 = 1 then [bias] else []) bad (fun c =>
            executed p r (signatureOf [w.out, w.aux])
              (raiseFlags p (flagsOf st ||| w.flags) (freeBank b i (postWrites (w.out ++ w.aux) c))))) c0

/-- MX_DRAIN (03 R114). -/
def execMxDrain (r : Ref) (u : Upset) (s : State) : Host.Outcome State Fault Refusal := act s (drainTile r u)

end Sys2Proof.Machine
end

