-- ==== Sys2Proof/Machine/Layout.lean ====
section
/-! DEFINITION. The ferry's own commands: DM.COPY (12 R369, R370, 16 R465) and the six conversions of
DM.LAYOUT (05 R166-R168). -/

namespace Sys2Proof.Machine

/-! ## Output in pieces (11 R318) -/

/-- Bytes of output between two kernel boundaries of the ferry: 64 KiB. -/
def pieceBytes : Nat := 65536

/-- The bytes `lo` to `lo + n - 1` of what some writes put out, in their order. -/
def slice : Nat → Nat → List (Nat × List Byte) → List (Nat × List Byte)
  | _, _, [] => []
  | lo, n, w :: ws =>
    let t := (w.2.drop lo).take n
    (if t.isEmpty then [] else [(w.1 + lo, t)]) ++ slice (lo - w.2.length) (n - t.length) ws

/-- The next 64 KiB of the output `ws` of a command of the ferry, in device or host memory, with its signature so far;
after the last of them the command has executed (11 R318, 14 R403). -/
def putPiece (p : Part) (r : Ref) (m : Cmd) (host : Bool) (ws : List (Nat × List Byte)) (c : Ctl) : Ctl :=
  let total := sumN (ws.map fun w => w.2.length)
  let now_ := slice (pieceBytes * m.phase) pieceBytes ws
  let sig := crc64On (if m.phase = 0 then 0 else m.sigValue.toNat) (now_.flatMap Prod.snd)
  let c1 := now_.foldl (fun c w => postAt host w.1 w.2 c) c
  if total ≤ pieceBytes * (m.phase + 1) then executed p r (crc64On sig (leBytes 8 total)) c1
  else modCmd r (fun m => { m with phase := m.phase + 1, sigValue := BitVec.ofNat 64 sig, dst := m.dst ++ wroteSpans c1 }) c1

/-! ## DM.COPY -/

/-- Numeric fields of DM.COPY. -/
def copyFields : List NumField := [(80, 24, 1, 16777215), (112, 16, 1, 65535), (256, 32, 1, 0xFFFFFFFF), (288, 32, 1, 0xFFFFFFFF)]

/-- Rows of a copy: source and destination byte addresses. -/
def copyRows (d : Desc) : List (Nat × Nat) :=
  (List.range (numF d (112, 16, 1, 65535))).map fun i =>
    (64 * fld d 128 58 + 64 * numF d (256, 32, 1, 0xFFFFFFFF) * i, 64 * fld d 192 58 + 64 * numF d (288, 32, 1, 0xFFFFFFFF) * i)

/-- Two spans of `n` bytes meet. -/
def meet (n a b : Nat) : Bool := decide (a < b + n) && decide (b < a + n)

/-- The channel whose ring a device row meets and the copy is no transmission of (16 R465). -/
def ringSpoiled (p : Part) (c : Ctl) (d : Desc) (rows : List (Nat × Nat)) (n : Nat) : Bool :=
  (List.range 32).any fun ch =>
    let base := 64 * effVal p c (0x2920 + ch) 2
    let size := effVal p c (0x2920 + ch) 3 * effVal p c (0x2920 + ch) 4 * 64
    (effVal p c (0x2920 + ch) 1).testBit 15 &&
      rows.any (fun r => decide (r.2 < base + size) && decide (base < r.2 + n)) &&
      (transmissionOf p c d).isNone

/-- The rows of a copy of `n` bytes each that its next piece moves. -/
def pieceRows (n phase : Nat) (rows : List (Nat × Nat)) : List (Nat × Nat) :=
  (rows.drop (pieceBytes * phase / n)).take (cdiv (pieceBytes * phase % n + pieceBytes) n)

/-- DM.COPY (12 R370): its checks, then 64 KiB of output at a time. -/
def copy (r : Ref) (u : Upset) (v : View) (c : Ctl) : Ctl :=
  match ready c r 5 0 with
  | none => c
  | some m =>
    let p := v.part
    let d := m.desc
    let srcHost := decide (fld d 64 1 = 1)
    let dstHost := decide (fld d 65 1 = 1)
    let n := numF d (80, 24, 1, 16777215)
    let rows := copyRows d
    let ok : Bool → Nat → Bool := fun host a => if host then decide (a + n ≤ 2 ^ 64) else inFerry p c a n
    let off : Bool → Nat → Bool := fun host a => !host && spanOff m.off (a, n)
    let dst := rows.map fun x => (x.2, n)
    let go := engineRun v r 0x2D 12 u (if srcHost then [] else (pieceRows n m.phase rows).map fun x => (x.1, n))
      (if dstHost then undefHost dst else undefSpans dst)
      (putPiece p r m dstHost (rows.map fun x => (x.2, readAt v srcHost x.1 n)))
    if m.phase ≠ 0 then go c
    else
      let c0 := noteClamp p (anyClamped d copyFields) c
      if rows.any (fun x => !ok srcHost x.1 || !ok dstHost x.2) then invalid p r 5 c0
      else if rows.any (fun x => off srcHost x.1 || off dstHost x.2) then invalid p r 6 c0
      else if srcHost = dstHost ∧ rows.any (fun x => rows.any fun y => meet n x.1 y.2) then invalid p r 9 c0
      else if !dstHost && ringSpoiled p c d rows n then invalid p r 10 c0
      else go c0

/-- DM_COPY (12 R370). -/
def execDmCopy (r : Ref) (u : Upset) (s : State) : Host.Outcome State Fault Refusal := act s (copy r u)

/-! ## DM.LAYOUT -/

/-- One side of a conversion (05 R166): base, strides in bytes, the directory's offset for a ZBT. -/
structure Side64 where
  ci : Bool
  zbt : Bool
  base : Nat
  cs : Nat
  ys : Nat
  xs : Nat
  dir : Nat
  deriving DecidableEq, Repr

/-- Byte address of the line or record of element (ch, y, x), and the index of the element there. -/
def Side64.place (t : Side64) (ch y x : Nat) : Nat × Nat :=
  if t.ci then (t.base + t.cs * (ch / 64) + t.ys * y + t.xs * x, ch % 64) else (t.base + t.cs * ch + t.ys * y, x)

/-- Directory entry of line (ch, y) (05 R150). -/
def Side64.entry (m : Mems) (t : Side64) (ch y : Nat) : Groups :=
  ⟨t.base, devNat m (t.base + t.dir + t.ys * y + t.cs * (ch / 8) + 8 * (ch % 8)) 8⟩

/-- Bits of element (ch, y, x). -/
def Side64.bits (m : Mems) (f : Nat) (t : Side64) (ch y x : Nat) : Nat :=
  if t.zbt then (t.entry m ch y).bits m f x else elemAt m f (t.place ch y x).1 (t.place ch y x).2

/-- Spans of a tensor of `n` channels of `h` rows of `w` elements; a ZBT's directory lines only. -/
def Side64.spans (f n h w : Nat) (t : Side64) : List (Nat × Nat) :=
  (List.range h).flatMap fun y =>
    if t.zbt then (List.range (cdiv n 8)).map fun j => (t.base + t.dir + t.ys * y + t.cs * j, 64)
    else if t.ci then (List.range (cdiv n 64)).flatMap fun j => (List.range w).map fun x => (t.base + t.cs * j + t.ys * y + t.xs * x, recordLen f)
    else (List.range n).map fun ch => (t.base + t.cs * ch + t.ys * y, elemBytes f w)

/-- Lines of a ZBT in ascending order: channel by channel, row by row. -/
def linesOf (n h : Nat) : List (Nat × Nat) := (List.range n).flatMap fun ch => (List.range h).map fun y => (ch, y)

/-- Numeric fields of DM.LAYOUT. -/
def layoutFields (d : Desc) : List NumField :=
  let conv := fld d 64 4
  let w := cdiv (nibbles (fld d 68 4)) 2
  [(80, 16, 1, 65535), (96, 16, 1, 8192), (112, 16, 1, 8192), (320, 16, 1, 32767), (336, 16, 1, 32767), (368, 16, 1, 32767),
   (384, 16, 1, 32767)] ++
  (if conv = 5 then [(128, 8, 1, 16), (136, 8, 1, 16)] else []) ++
  (if conv = 1 then [(352, 16, w, 32767)] else []) ++ (if conv = 0 then [(400, 16, w, 32767)] else [])

/-- The source side. -/
def layoutSrc (d : Desc) : Side64 :=
  let conv := fld d 64 4
  { ci := decide (conv = 1), zbt := decide (conv = 2 ∨ conv = 4), base := 64 * fld d 192 48
    cs := 64 * numF d (320, 16, 1, 32767), ys := 64 * numF d (336, 16, 1, 32767)
    xs := 64 * numF d (352, 16, cdiv (nibbles (fld d 68 4)) 2, 32767), dir := 64 * fld d 416 16 }

/-- The destination side. -/
def layoutDst (d : Desc) : Side64 :=
  let conv := fld d 64 4
  { ci := decide (conv = 0), zbt := decide (conv = 3 ∨ conv = 4), base := 64 * fld d 256 48
    cs := 64 * numF d (368, 16, 1, 32767), ys := 64 * numF d (384, 16, 1, 32767)
    xs := 64 * numF d (400, 16, cdiv (nibbles (fld d 68 4)) 2, 32767), dir := 64 * fld d 432 16 }

/-- A phase tensor of PHASE_INTERLEAVE (05 R167) and its size. -/
def phaseSide (s : Side64) (h w py px fy fx : Nat) : Side64 × Nat × Nat :=
  ({ s with base := s.base + s.dir * (fy * px + fx) }, cdiv (h - fy) py, cdiv (w - fx) px)

/-- Writes of a dense destination whose element (ch, y, x) is `f`. -/
def denseWrites (fmt n h w : Nat) (t : Side64) (f : Nat → Nat → Nat → Nat) : List (Nat × List Byte) :=
  if t.ci then
    (List.range (cdiv n 64)).flatMap fun j => (List.range h).flatMap fun y => (List.range w).map fun x =>
      (t.base + t.cs * j + t.ys * y + t.xs * x, packElems fmt (tab 64 fun i => if 64 * j + i < n then f (64 * j + i) y x else 0))
  else (linesOf n h).map fun l => (t.base + t.cs * l.1 + t.ys * l.2, packElems fmt (tab w fun x => f l.1 l.2 x))

/-- Directory lines of a ZBT destination, each written whole (04 R137): `e` gives the entry of a line. -/
def dirWrites (n h w : Nat) (t : Side64) (e : Nat → Nat → Nat) : List (Nat × List Byte) :=
  (List.range h).flatMap fun y => (List.range (cdiv n 8)).map fun j =>
    (t.base + t.dir + t.ys * y + t.cs * j,
     (List.range 8).flatMap fun i => leBytes 8 (if 8 * j + i < n then e (8 * j + i) y else zeroEntry w))

/-- PLANAR_TO_ZBT (05 R167). -/
def toZbt (fmt n h w first : Nat) (t : Side64) (f : Nat → Nat → Nat → Nat) : List (Nat × List Byte) :=
  let z := zbtLines fmt ((linesOf n h).map fun l => tab w fun x => f l.1 l.2 x) first
  z.2.map (fun g => (t.base + 64 * g.1, g.2)) ++ dirWrites n h w t fun ch y => z.1.getD (ch * h + y) 0

/-- The groups of a line copied from unit `at_` on: the new entry, the writes, the next unit (05 R167). -/
def rebaseLine (m : Mems) (f w : Nat) (g : Groups) (base at_ : Nat) : Nat × List (Nat × List Byte) × Nat :=
  (List.range (cdiv w 64)).foldl (fun (s : Nat × List (Nat × List Byte) × Nat) i =>
    match g.addr i with
    | none => (s.1 + 2 ^ (16 * i + 15), s.2.1, s.2.2)
    | some a =>
      let u := groupUnits f (popN 64 (devNat m a 8))
      (s.1 + 2 ^ (16 * i) * (s.2.2 % 32768), s.2.1 ++ [(base + 64 * s.2.2, devBytes m a (64 * u))], s.2.2 + u)) (0, [], at_)

/-- ZBT_REBASE (05 R167). -/
def rebase (m : Mems) (fmt n h w first : Nat) (s t : Side64) : List (Nat × List Byte) :=
  let z := (linesOf n h).foldl (fun (a : List Nat × List (Nat × List Byte) × Nat) l =>
    let x := rebaseLine m fmt w (s.entry m l.1 l.2) t.base a.2.2
    (a.1 ++ [x.1], a.2.1 ++ x.2.1, x.2.2)) (([], [], first) : List Nat × List (Nat × List Byte) × Nat)
  z.2.1 ++ dirWrites n h w t fun ch y => z.1.getD (ch * h + y) 0

/-- Source spans of a conversion, stored groups apart. -/
def layoutReads (d : Desc) (fmt n h w : Nat) (s : Side64) : List (Nat × Nat) :=
  let py := numF d (128, 8, 1, 16)
  let px := numF d (136, 8, 1, 16)
  if fld d 64 4 = 5 then
    (List.range py).flatMap fun fy => (List.range px).flatMap fun fx =>
      let q := phaseSide s h w py px fy fx
      q.1.spans fmt n q.2.1 q.2.2
  else s.spans fmt n h w

/-- The stored groups that a conversion from a ZBT reads. -/
def layoutGroups (m : Mems) (fmt n h w : Nat) (s : Side64) : List (Nat × Nat) :=
  if s.zbt && decide (w ≤ 256) then (linesOf n h).flatMap fun l => (s.entry m l.1 l.2).spans m fmt w else []

/-- The spans of the destination; of a ZBT with room for its groups. -/
def layoutStores (d : Desc) (fmt n h w : Nat) (t : Side64) : List (Nat × Nat) :=
  t.spans fmt n h w ++ (if t.zbt then [(t.base + 64 * fld d 448 16, 64 * (n * h * cdiv w 64 * groupUnits fmt 64))] else [])

/-- What a conversion writes (05 R167). -/
def layoutWrites (m : Mems) (d : Desc) (fmt n h w : Nat) (s t : Side64) : List (Nat × List Byte) :=
  let py := numF d (128, 8, 1, 16)
  let px := numF d (136, 8, 1, 16)
  let first := fld d 448 16
  match fld d 64 4 with
  | 3 => toZbt fmt n h w first t (s.bits m fmt)
  | 4 => rebase m fmt n h w first s t
  | 5 => denseWrites fmt n h w t fun ch y x => (phaseSide s h w py px (y % py) (x % px)).1.bits m fmt ch (y / py) (x / px)
  | _ => denseWrites fmt n h w t (s.bits m fmt)

/-- DM.LAYOUT with conversion `code` (05 R166-R168), 64 KiB of output at a time (11 R318); a reserved CONV is INVALID under
any of the six. -/
def layout (code : Nat) (r : Ref) (u : Upset) (v : View) (c : Ctl) : Ctl :=
  match ready c r 5 1 with
  | none => c
  | some cmd =>
    let p := v.part
    let d := cmd.desc
    let conv := fld d 64 4
    let fmt := fld d 68 4
    if conv ≠ code ∧ conv ≤ 5 then c
    else
      let n := numF d (80, 16, 1, 65535)
      let h := numF d (96, 16, 1, 8192)
      let w := numF d (112, 16, 1, 8192)
      let s := layoutSrc d
      let t := layoutDst d
      let dstSpans := layoutStores d fmt n h w t
      let reads := layoutReads d fmt n h w s
      let groups := layoutGroups v.mems fmt n h w s
      let okAll := (reads ++ dstSpans).all fun x => inFerry p c x.1 x.2
      let go := engineRun v r 0x2D 12 u (reads ++ groups) (undefSpans dstSpans)
        (putPiece p r cmd false (layoutWrites v.mems d fmt n h w s t))
      if cmd.phase ≠ 0 then go c
      else
        let c0 := noteClamp p (anyClamped d (layoutFields d)) c
        if 6 ≤ conv ∨ 6 ≤ fmt then invalid p r 1 c0
        else if !okAll ∨ groups.any (fun x => !inFerry p c x.1 x.2) then invalid p r 5 c0
        else if (reads ++ groups ++ dstSpans).any (spanOff cmd.off) then invalid p r 6 c0
        else if (s.zbt || t.zbt) && decide (256 < w) then invalid p r 10 c0
        else go c0

/-- PLANAR_TO_CI (05 R167). -/
def execPlanarToCi (r : Ref) (u : Upset) (s : State) : Host.Outcome State Fault Refusal := act s (layout 0 r u)

/-- CI_TO_PLANAR (05 R167). -/
def execCiToPlanar (r : Ref) (u : Upset) (s : State) : Host.Outcome State Fault Refusal := act s (layout 1 r u)

/-- ZBT_TO_PLANAR (05 R167). -/
def execZbtToPlanar (r : Ref) (u : Upset) (s : State) : Host.Outcome State Fault Refusal := act s (layout 2 r u)

/-- PLANAR_TO_ZBT (05 R167). -/
def execPlanarToZbt (r : Ref) (u : Upset) (s : State) : Host.Outcome State Fault Refusal := act s (layout 3 r u)

/-- ZBT_REBASE (05 R167). -/
def execZbtRebase (r : Ref) (u : Upset) (s : State) : Host.Outcome State Fault Refusal := act s (layout 4 r u)

/-- PHASE_INTERLEAVE (05 R167). -/
def execPhaseInterleave (r : Ref) (u : Upset) (s : State) : Host.Outcome State Fault Refusal := act s (layout 5 r u)

end Sys2Proof.Machine
end

