-- ==== Sys2Proof/Machine/Sequence.lean ====
section
/-! DEFINITION. The sequence unit (06): the active-sequence table, page pools, page lists and their look-aside
buffers, AT.SEQ, AT.WALK and the three phases of AT.APPEND. -/

namespace Sys2Proof.Machine

/-! ## Sets, pages and lists (06 R170-R175, R180) -/

/-- Geometry of a set and its pool (06 R170, R171, R180). -/
structure Geom where
  fmt : Nat
  dhu : Nat
  g : Nat
  base : Nat
  stack : Nat
  deriving DecidableEq, Repr

/-- Geometry in effect of set `s`. -/
def geom (p : Part) (c : Ctl) (s : Nat) : Geom :=
  let w := effVal p c (0x2B40 + s) 1
  { fmt := bitsN w 0 4, dhu := bitsN w 8 5, g := bitsN w 16 5
    base := 64 * effVal p c (0x2B40 + s) 2, stack := 64 * effVal p c (0x2B40 + s) 4 }

/-- Head dimension. -/
def Geom.dh (x : Geom) : Nat := 16 * x.dhu

/-- Bytes of a page (06 R170). -/
def Geom.page (x : Geom) : Nat := 64 + 16 * x.dh * nibbles x.fmt

/-- Byte address of page (set number `n`, group `k`). -/
def Geom.addr (x : Geom) (n k : Nat) : Nat := x.base + n * (x.g * x.page) + k * x.page

/-- The header of a page (06 R172). -/
def pageHeader (fmt fill dhu group kScale vScale pos0 seq set : Nat) : List Byte :=
  leBytes 64 (fmt + 16 * fill + 2 ^ 16 * dhu + 2 ^ 24 * group + 2 ^ 32 * kScale + 2 ^ 48 * vScale +
    2 ^ 64 * (pos0 % 2 ^ 32) + 2 ^ 96 * seq + 2 ^ 112 * set)

/-- Slots that logical page `k` of an entry holds (06 R175, R191). -/
def fillOf (e : Seq) (k : Nat) : Nat := if k + 1 = e.pages then e.length - 16 * k else 16

/-- The checks of 06 R191 on the page of logical page `k` at byte `a`: geometry, sequence, set, group,
position and fill. -/
def pageOk (m : Mems) (x : Geom) (n set group a k : Nat) (e : Seq) : Bool :=
  let h := devNat m a 16
  decide (bitsN h 0 4 = x.fmt) && decide (bitsN h 16 5 = x.dhu) && decide (bitsN h 24 4 = group) &&
    decide (bitsN h 64 32 = (e.posBase + 16 * k) % 2 ^ 32) && decide (bitsN h 96 12 = n) && decide (bitsN h 112 6 = set) &&
    decide (bitsN h 4 5 = fillOf e k)

/-- List index of logical page `k`. -/
def listIdx (e : Seq) (k : Nat) : Nat := (e.head + k) % e.listCap

/-- Byte address of list entry `i`. -/
def listAddr (e : Seq) (i : Nat) : Nat := 64 * e.listAddr + 4 * i

/-- Page-set number of logical page `k`, from the page list. -/
def listed (m : Mems) (e : Seq) (k : Nat) : Nat := devNat m (listAddr e (listIdx e k)) 4

/-- STATE codes (06 R175). -/
def seqCode : SeqState → Nat
  | .free => 0
  | .live => 1
  | .exhausted => 2
  | .faulted => 3

/-- The 32-byte image of an entry (06 R175). -/
def seqImage (e : Seq) (readers busy : Nat) : List Byte :=
  leBytes 32 (seqCode e.state + 8 * e.cls + 32 * e.window + 64 * e.set + 2 ^ 12 * readers + 2 ^ 16 * busy + 2 ^ 24 * e.client +
    2 ^ 32 * e.listCap + 2 ^ 48 * e.pages + 2 ^ 64 * e.head + 2 ^ 80 * e.length + 2 ^ 128 * e.posBase + 2 ^ 160 * e.kScale +
    2 ^ 176 * e.vScale + 2 ^ 192 * e.listAddr)

/-- The entry that an image holds, opened from queue `q`. -/
def ofImage (w q : Nat) : Seq :=
  { state := match bitsN w 0 3 with
      | 1 => .live
      | 2 => .exhausted
      | 3 => .faulted
      | _ => .free
    cls := bitsN w 3 2, window := bitsN w 5 1, set := bitsN w 6 6, readers := bitsN w 12 4, appendBusy := bitN w 16
    client := bitsN w 24 8, listCap := bitsN w 32 13, pages := bitsN w 48 13, head := bitsN w 64 12, length := bitsN w 80 17
    posBase := bitsN w 128 32, kScale := bitsN w 160 16, vScale := bitsN w 176 16, listAddr := bitsN w 192 48, queue := q }

/-- A sequence becomes FAULTED at list index `i`, with its message (06 R191, 10 R312). -/
def seqFault (p : Part) (n i : Nat) (mark : Bool) (c : Ctl) : Ctl :=
  let e := getSeq c n
  sendMsg p (owner p c .queue e.queue) 8 (leBytes 2 n ++ leBytes 1 e.set ++ leBytes 1 0 ++ leBytes 2 i)
    (if mark then modSeq n (fun x => { x with state := .faulted }) c else c)

/-- The device invalidates every look-aside entry, list-cache line and walk of a sequence (06 R199). -/
def forgetSeq (n : Nat) (c : Ctl) : Ctl :=
  { c with
    blocks := (c.blocks.map fun e => (e.1, { e.2 with lab := e.2.lab.filter fun x => decide (x.1 ≠ n) })).filter
      fun e => decide (e.2 ≠ {})
    listCache := (c.listCache.map fun e => (e.1, e.2.filter fun x => decide (x.1 ≠ n))).filter fun e => !e.2.isEmpty
    walks := (c.walks.map fun e => (e.1, e.2.filter fun x => decide (x.2.1 ≠ n))).filter fun e => !e.2.isEmpty }

/-! ## Translation (06 R197, R198) -/

/-- The page fetcher of block `b` translates a list index: a hit moves its entry to the most recent place; a
miss is counted and starts a walk, unless a walk under way will install the entry. -/
def translate (p : Part) (b n i : Nat) (c : Ctl) : Ctl :=
  let lab := (getB c b).lab
  match lab.find? fun x => decide (x.1 = n) && decide (x.2.1 = i) with
  | some x => modB b (fun y => { y with lab := (y.lab.erase x) ++ [x] }) c
  | none =>
    if (look [] (b / 4) c.walks).any fun w => decide (w.1 = b) && decide (w.2.1 = n) && decide (w.2.2 / 16 = i / 16) && decide (w.2.2 ≤ i) && decide (i ≤ w.2.2 + 7) then c
    else
      { bump p (0x3016 + 0x100 * (b / 4)) (b % 4 + 1) 64 1 c with
        walks := tweak [] (b / 4) (fun l => l ++ [(b, n, i)]) c.walks }

/-- The page-list line of list index `i` of a sequence, where the list cache of an isle holds it (06 R198). -/
def cachedLine (c : Ctl) (isle n i : Nat) : Option Nat :=
  ((look [] isle c.listCache).find? fun x => decide (x.1 = n) && decide (x.2.1 = i / 16)).map fun x => x.2.2

/-- Page-set number that the look-aside buffer of block `b` or its isle's list cache gives for list index `i`. -/
def nearSet (c : Ctl) (b n i : Nat) : Option Nat :=
  match (getB c b).lab.find? fun x => decide (x.1 = n) && decide (x.2.1 = i) with
  | some x => some x.2.2
  | none => (cachedLine c (b / 4) n i).map fun w => bitsN w (32 * (i % 16)) 32

/-- Page-set number that the fetcher of block `b` uses for logical page `k`. -/
def pageSetOf (m : Mems) (c : Ctl) (b n k : Nat) (e : Seq) : Nat := (nearSet c b n (listIdx e k)).getD (listed m e k)

/-- A walk under way installs the requested entry and up to 7 following ones of its line (06 R198), from the line as the
list cache holds it, or else from memory. The unit holds 8 walks in flight. A poisoned line is consumed by the page-walk
unit: MECH 9, and the walk installs nothing (12 R347). -/
def walkDone (b n i : Nat) (v : View) (c : Ctl) : Ctl :=
  let isle := b / 4
  let ws := look [] isle c.walks
  if !((ws.take 8).contains (b, n, i)) then c
  else
    let e := getSeq c n
    let k := 0x3017 + 0x100 * isle
    let cache := look [] isle c.listCache
    let a := listAddr e (i - i % 16)
    let c1 := bump v.part k 1 64 1 { c with walks := stow [] isle (ws.erase (b, n, i)) c.walks }
    let install := fun (line : Nat × Nat × Nat) (c : Ctl) =>
      let news := ((List.range 8).map fun j => i + j).filter fun j =>
        decide (j / 16 = i / 16) && decide (j < e.listCap) && decide ((j + e.listCap - e.head) % e.listCap < e.pages)
      let cache1 := (cache.filter fun x => !(decide (x.1 = n) && decide (x.2.1 = i / 16))) ++ [line]
      modB b (fun x =>
        let l := (x.lab.filter fun y => !(decide (y.1 = n) && news.contains y.2.1)) ++
          news.map fun j => (n, j, bitsN line.2.2 (32 * (j % 16)) 32)
        { x with lab := l.drop (l.length - 32) })
        { c with listCache := stow [] isle (cache1.drop (cache1.length - 64)) c.listCache }
    match cachedLine c isle n i with
    | some w => install (n, i / 16, w) c1
    | none =>
      reading v none (32 + isle) .none [(a, 64)] (fun x c => raise v.part { mech := 9, unit := 32 + isle, addr := x.addr, injected := x.injected } (report v.part none x c))
        (install (n, i / 16, devNat v.mems a 64)) (bump v.part k 2 64 1 c1)

/-- PAGE_WALK_DONE (06 R198). -/
def execPageWalkDone (block seq li : Nat) (s : State) : Host.Outcome State Fault Refusal := act s (walkDone block seq li)

/-! ## AT.SEQ (06 R177-R179) -/

/-- A BF16 scale clamps to the nearest positive normal value; for a NaN none is nearest (log 14). -/
def clampScale (w : Nat) : Nat :=
  if (decodeFp fBF16 w).isNan then 0x0080 + (Config.nanScale (BitVec.ofNat 16 w)).toNat % 0x7F00
  else if 0x8000 ≤ w then 0x0080 else clampN 0x0080 0x7F7F w

/-- Whether a clamp of AT.SEQ `op` changes a field. -/
def seqClamped (d : Desc) (op : Nat) : Bool :=
  (decide (op = 0) && anyClamped d [(112, 13, 1, 4096)]) || (decide (op = 5) && anyClamped d [(160, 13, 1, 4096)]) ||
    ((decide (op = 0) || decide (op = 6)) &&
      (decide (clampScale (fld d 128 16) ≠ fld d 128 16) || decide (clampScale (fld d 144 16) ≠ fld d 144 16)))

/-- Whether an operation is accepted from a state (06 R177). -/
def seqAccepts (op : Nat) (s : SeqState) : Bool :=
  match op, s with
  | 0, .free => true
  | 3, .free => true
  | 1, .free => false
  | 1, _ => true
  | 2, .live => true
  | 2, .exhausted => true
  | 4, .exhausted => true
  | 4, .faulted => true
  | 5, .free => false
  | 5, _ => true
  | 6, .free => false
  | 6, _ => true
  | _, _ => false

/-- The address extent of an operation (06 R178): the list, or the image. -/
def seqExtent (d : Desc) (op : Nat) : Nat × Nat :=
  (64 * fld d 192 48, if op = 0 then 4 * numF d (112, 13, 1, 4096) else if op = 2 ∨ op = 3 then 32 else 0)

/-- What DROP_OLDEST leaves of an entry after `k` page sets have gone (06 R177). -/
def dropped (k : Nat) (e : Seq) : Seq :=
  let t := min (16 * k) e.length
  { e with head := listIdx e k, pages := e.pages - k, length := e.length - t, posBase := (e.posBase + t) % 2 ^ 32 }

/-- The effect of an accepted operation on entry `n` (06 R177). -/
def seqEffect (v : View) (q n op : Nat) (d : Desc) (c : Ctl) : Ctl :=
  let e := getSeq c n
  let ks := clampScale (fld d 128 16)
  let vs := clampScale (fld d 144 16)
  let set := fun (f : Seq → Seq) (c : Ctl) => modSeq n f c
  match op with
  | 0 => set (fun _ =>
      { state := .live, cls := fld d 102 2, window := fld d 104 1, set := fld d 96 6, client := fld d 240 8
        listCap := numF d (112, 13, 1, 4096), posBase := fld d 256 32, kScale := ks, vScale := vs
        listAddr := fld d 192 48, queue := q }) c
  | 1 => set (fun _ => {}) (pushPool v.part e.set (((List.range e.pages).map fun k => listed v.mems e k).reverse) c)
  | 2 => set (fun _ => {}) (post (.dev (64 * fld d 192 48) (seqImage e 0 0)) c)
  | 3 => set (fun _ => ofImage (devNat v.mems (64 * fld d 192 48) 32) q) c
  | 4 => set (fun x => { x with state := .live }) c
  | 5 =>
    let k := min (numF d (160, 13, 1, 4096)) e.pages
    set (dropped k) (pushPool v.part e.set ((List.range k).map fun j => listed v.mems e j) c)
  | _ => set (fun x => { x with kScale := ks, vScale := vs }) c

/-- Spans that an operation reads: the image, the page list. -/
def seqReads (e : Seq) (d : Desc) (op : Nat) : List (Nat × Nat) :=
  match op with
  | 1 => (List.range e.pages).map fun k => (listAddr e (listIdx e k), 4)
  | 3 => [(64 * fld d 192 48, 32)]
  | 5 => (List.range (min (numF d (160, 13, 1, 4096)) e.pages)).map fun k => (listAddr e (listIdx e k), 4)
  | _ => []

/-- AT.SEQ with operation `op` (06 R177, R178): it waits for readers and appends. The reserved OP is INVALID
under any of the seven. -/
def atSeq (op : Nat) (r : Ref) (u : Upset) (v : View) (c : Ctl) : Ctl :=
  match ready c r 0 7 with
  | none => c
  | some m =>
    let p := v.part
    let d := m.desc
    let n := fld d 80 12
    let e := getSeq c n
    let x := seqExtent d op
    let img := devNat v.mems (64 * fld d 192 48) 32
    if fld d 64 3 = 7 then invalid p r 1 c
    else if fld d 64 3 ≠ op ∨ 0 < e.readers ∨ e.appendBusy then c
    else
      let c0 := noteClamp p (seqClamped d op) c
      if !inDevice p c x.1 x.2 then invalid p r 5 c0
      else if spanOff m.off x ∨ !seqAccepts op e.state then invalid p r 6 c0
      else if op = 3 ∧ (bitsN img 0 3 = 0 ∨ 4 ≤ bitsN img 0 3 ∨ bitsN img 6 6 ≠ fld d 96 6) then invalid p r 10 c0
      else engineRun v r 0x2F 12 u (seqReads e d op) id
        (fun c => executed p r 0 (forgetSeq n (seqEffect v r.q n op d c))) c0

/-- AT_SEQ_OPEN (06 R177). -/
def execAtSeqOpen (r : Ref) (u : Upset) (s : State) : Host.Outcome State Fault Refusal := act s (atSeq 0 r u)

/-- AT_SEQ_CLOSE (06 R177). -/
def execAtSeqClose (r : Ref) (u : Upset) (s : State) : Host.Outcome State Fault Refusal := act s (atSeq 1 r u)

/-- AT_SEQ_PARK (06 R177). -/
def execAtSeqPark (r : Ref) (u : Upset) (s : State) : Host.Outcome State Fault Refusal := act s (atSeq 2 r u)

/-- AT_SEQ_RESUME (06 R177). -/
def execAtSeqResume (r : Ref) (u : Upset) (s : State) : Host.Outcome State Fault Refusal := act s (atSeq 3 r u)

/-- AT_SEQ_REARM (06 R177). -/
def execAtSeqRearm (r : Ref) (u : Upset) (s : State) : Host.Outcome State Fault Refusal := act s (atSeq 4 r u)

/-- AT_SEQ_DROP_OLDEST (06 R177). -/
def execAtSeqDropOldest (r : Ref) (u : Upset) (s : State) : Host.Outcome State Fault Refusal := act s (atSeq 5 r u)

/-- AT_SEQ_SET_SCALE (06 R177). -/
def execAtSeqSetScale (r : Ref) (u : Upset) (s : State) : Host.Outcome State Fault Refusal := act s (atSeq 6 r u)

/-! ## AT.WALK (06 R182-R187) -/

/-- Q_LEN of a sequence in the length table at byte `a` (06 R182). -/
def qLen (m : Mems) (a n : Nat) : Nat := min 256 (devNat m (a + 2 * n) 2 % 512)

/-- Records of a walk: sequence, tokens and state, in ascending order (06 R183). -/
def walkRecs (m : Mems) (c : Ctl) (set a : Nat) : List (Nat × Nat × SeqState) :=
  c.seqs.filterMap fun e =>
    if e.2.set = set ∧ e.2.state ≠ .free ∧ 0 < qLen m a e.1 ∧ e.1 < 4096 then some (e.1, qLen m a e.1, e.2.state) else none

/-- A work-list record (06 R185). -/
def wlRecord (row : Nat) (x : Nat × Nat × SeqState) : List Byte :=
  let omit_ := b2n (decide (x.2.2 ≠ .live))
  let cause := if x.2.2 = .exhausted then 1 else if x.2.2 = .faulted then 2 else 0
  leBytes 8 (x.1 + 2 ^ 12 * omit_ + 2 ^ 13 * cause + 2 ^ 16 * x.2.1 + 2 ^ 32 * row)

/-- The records with their first packed rows. -/
def wlRecords : Nat → List (Nat × Nat × SeqState) → List Byte
  | _, [] => []
  | row, x :: l => wlRecord row x ++ wlRecords (row + x.2.1) l

/-- The bytes of a work list (06 R185). -/
def workList (l : List (Nat × Nat × SeqState)) : List Byte :=
  let om := (l.filter fun x => decide (x.2.2 ≠ .live)).length
  leBytes 64 (l.length + 2 ^ 16 * om + 2 ^ 32 * sumN (l.map fun x => x.2.1)) ++ wlRecords 0 l

/-- AT.WALK (06 R183-R187). -/
def atWalk (r : Ref) (u : Upset) (v : View) (c : Ctl) : Ctl :=
  match ready c r 0 6 with
  | none => c
  | some m =>
    let p := v.part
    let d := m.desc
    let lens := 64 * fld d 80 48
    let wl := 64 * fld d 128 48
    let cap := numF d (192, 13, 1, 4096)
    let l := walkRecs v.mems c (fld d 64 6) lens
    let n := 64 + 8 * l.length
    let c0 := noteClamp p (anyClamped d [(192, 13, 1, 4096)]) c
    if !inDevice p c lens 8192 ∨ !inDevice p c wl n then invalid p r 5 c0
    else if spanOff m.off (lens, 8192) ∨ spanOff m.off (wl, n) then invalid p r 6 c0
    else if cap < l.length then invalid p r 7 c0
    else engineRun v r 0x2F 12 u [(lens, 8192)] (undefSpans [(wl, n)])
      (fun c => executed p r 0 (post (.dev wl (workList l)) c)) c0

/-- AT_WALK (06 R183). -/
def execAtWalk (r : Ref) (u : Upset) (s : State) : Host.Outcome State Fault Refusal := act s (atWalk r u)

/-! ## Work lists as read -/

/-- COUNT and ROWS of a list at byte `a`. -/
def wlCount (m : Mems) (a : Nat) : Nat := devNat m a 2 % 8192
/-- See `wlCount`. -/
def wlRows (m : Mems) (a : Nat) : Nat := devNat m (a + 4) 4

/-- A record as the blocks read it. -/
structure WRec where
  seq : Nat
  omitted : Bool
  len : Nat
  row : Nat
  deriving DecidableEq, Repr

/-- Record `i` of the list at byte `a` (06 R185). -/
def wlAt (m : Mems) (a i : Nat) : WRec :=
  let w := devNat m (a + 64 + 8 * i) 8
  ⟨bitsN w 0 12, bitN w 12, bitsN w 16 9, bitsN w 32 32⟩

/-! ## AT.APPEND (06 R200-R204) -/

/-- The decision on one record (06 R201), given the page sets still free; the `k`-th pop is `pop k`. -/
def decideRec (x : WRec) (e : Seq) (free : Nat) (pop : Nat → Nat) : AppendRec :=
  let a := cdiv (e.length + x.len) 16 - e.pages
  if e.pages + a ≤ e.listCap ∧ a ≤ free then { seq := x.seq, len := x.len, row := x.row, taken := tab a pop }
  else
    let b := min (e.listCap - e.pages) free
    if e.window = 1 ∧ a - b ≤ e.pages then
      { seq := x.seq, len := x.len, row := x.row, taken := tab b pop, recycle := a - b }
    else { seq := x.seq, len := x.len, row := x.row, exhausted := true }

/-- A record of a list is left out by AT.APPEND: omitted, of a sequence that is not LIVE, or of one in another set, from
whose pool AT.APPEND of this set takes nothing (06 R181, R200, log 56). -/
def leftOut (c : Ctl) (set : Nat) (w : WRec) : Bool :=
  w.omitted || decide ((getSeq c w.seq).state ≠ .live) || decide ((getSeq c w.seq).set ≠ set)

/-- The reserve phase over the records of a list. -/
def reserve (m : Mems) (c : Ctl) (x : Geom) (set free : Nat) (l : List WRec) : List AppendRec × Nat :=
  l.foldl (fun (s : List AppendRec × Nat) w =>
    if leftOut c set w then s
    else
      let r := decideRec w (getSeq c w.seq) s.2 fun k => devNat m (x.stack + 4 * (s.2 - 1 - k)) 4
      (s.1 ++ [r], s.2 - r.taken.length)) ([], free)

/-- An AT.APPEND of set `set` was received before that of `r` and has not ended (06 R204). -/
def appendAhead (c : Ctl) (r : Ref) (set : Nat) : Bool :=
  ((c.appends.takeWhile fun a => decide (a.ref ≠ r)).any fun a => decide (a.set = set))

/-- The sequence unit receives an AT.APPEND: it waits behind those of its set (06 R204). -/
def receiveAppend (r : Ref) (set : Nat) (c : Ctl) : Ctl :=
  if c.appends.any fun a => decide (a.ref = r) then c
  else { c with appends := c.appends ++ [{ ref := r, set := set, recs := [], waiting := true }] }

/-- AT_APPEND: the reserve phase (06 R200, R201, R204). One AT.APPEND of a set at a time. -/
def append (r : Ref) (u : Upset) (v : View) (c : Ctl) : Ctl :=
  match ready c r 0 5 with
  | none => c
  | some m =>
    let p := v.part
    let d := m.desc
    let f := fld d 64 4
    let set := fld d 68 6
    let x := geom p c set
    let isle := dTarget d / 4
    let wl := 64 * fld d 176 48
    let cnt := wlCount v.mems wl
    let rows := wlRows v.mems wl
    let stride := 64 * numF d (144, 16, 1, 65535)
    let gstride := 64 * numF d (160, 16, 1, 65535)
    let reach_ : Nat → Nat := fun a => 64 * a + gstride * (x.g - 1) + stride * (rows - 1) + elemBytes f x.dh
    let c0 := dropKept (dTarget d) (noteClamp p (anyClamped d [(144, 16, 1, 65535), (160, 16, 1, 65535)]) c)
    if m.phase ≠ 0 then c
    else if f ≠ 4 ∧ f ≠ 5 ∧ f ≠ 10 then invalid p r 1 c0
    else if !inDevice p c wl (64 + 8 * cnt) ∨
        (0 < rows ∧ (lagoonSize < reach_ (fld d 80 17) ∨ lagoonSize < reach_ (fld d 112 17))) then invalid p r 5 c0
    else if m.off.testBit (lagoonDomain isle) ∨ spanOff m.off (wl, 64 + 8 * cnt) then invalid p r 6 c0
    else if appendAhead (receiveAppend r set c) r set then receiveAppend r set c
    else
      let free := odVal p c (0x2B40 + set) 5
      let l := (List.range cnt).map fun i => wlAt v.mems wl i
      let res := reserve v.mems c x set free l
      blockRun v r (dTarget d) u ([(wl, 64 + 8 * cnt)] ++ if res.2 < free then [(x.stack + 4 * res.2, 4 * (free - res.2))] else [])
        id (fun c =>
          modCmd r (fun m => { m with phase := 1 })
            { odSet p (0x2B40 + set) 5 res.2 c with
              appends := (c.appends.filter fun a => decide (a.ref ≠ r)) ++
                [{ ref := r, set := set, recs := res.1, omitted := (l.filter (leftOut c set)).length }] }) c0

/-- AT_APPEND (06 R200). -/
def execAtAppend (r : Ref) (u : Upset) (s : State) : Host.Outcome State Fault Refusal := act s (append r u)

/-- The wait phase is over: no signature tagged SRC_SIG_TAG is still owed or undecided (06 R200). -/
def sigsPassed (c : Ctl) (d : Desc) : Bool :=
  decide (fld d 74 1 = 0) ||
    (allCmds c).all fun e => decide (sigTag e.2.desc ≠ some (fld d 224 16)) || decide (e.2.sig = .passed) || decide (e.2.sig = .none)

/-- A signature tagged SRC_SIG_TAG has failed its comparison (06 R200). -/
def sigsFailed (c : Ctl) (d : Desc) : Bool :=
  decide (fld d 74 1 = 1) && (allCmds c).any fun e => decide (sigTag e.2.desc = some (fld d 224 16)) && decide (e.2.status = 4)

/-- Conversion of a source element into a page (06 R200): divided by the scale with one rounding to FP32 for
FP8 and INT4 pages, then converted with SAT. -/
def intoPage (fmt scale : Nat) (x : Num) : Fl Nat :=
  if fmt = 4 ∨ fmt = 5 then convElem fmt false x
  else convElem fmt false (dec32 (quot32 x (decodeFp fBF16 scale)))

/-- Final place of token `i` of a record in an entry of LENGTH and PAGES before the append: logical page (old
numbering) and slot. -/
def tokenPlace (e : Seq) (i : Nat) : Nat × Nat := ((e.length + i) / 16, (e.length + i) % 16)

/-- Page set of logical page `k` (old numbering) after the reservation. -/
def newPage (m : Mems) (e : Seq) (rec_ : AppendRec) (k : Nat) : Nat :=
  if k < e.pages then listed m e k
  else (rec_.taken ++ (List.range rec_.recycle).map fun j => listed m e j).getD (k - e.pages) 0

/-- What one record writes: the page list's new entries, page headers and tokens, with flags (06 R200, R201). -/
def appendWrites (m : Mems) (x : Geom) (d : Desc) (set lag : Nat) (e : Seq) (rec_ : AppendRec) : Fl (List (Nat × List Byte)) :=
  let f := fld d 64 4
  let total := e.length + rec_.len
  let last := cdiv total 16
  let pageNo := newPage m e rec_
  let scales : Nat → Nat → Nat × Nat := fun g k =>
    if k < e.pages then (devNat m (x.addr (pageNo k) g + 4) 2, devNat m (x.addr (pageNo k) g + 6) 2) else (e.kScale, e.vScale)
  let list := ((List.range (last - e.pages)).map fun j =>
    (listAddr e (listIdx e (e.pages + j)), leBytes 4 (pageNo (e.pages + j))))
  let touched := (List.range last).filter fun k => decide (e.length < 16 * (k + 1)) && decide (rec_.recycle ≤ k)
  let pages := touched.flatMap fun k => (List.range x.g).map fun g =>
    let a := x.addr (pageNo k) g
    let s := scales g k
    let toks := (List.range rec_.len).filter fun i => decide ((tokenPlace e i).1 = k)
    let row : Nat → Bool → Fl (List Nat) := fun i isV =>
      let base := lag + 64 * fld d (if isV then 112 else 80) 17 + 64 * numF d (160, 16, 1, 65535) * g +
        64 * numF d (144, 16, 1, 65535) * (rec_.row + i)
      let l := (List.range x.dh).map fun j => intoPage x.fmt (if isV then s.2 else s.1) (elemNum f (elemAt m f base j))
      ⟨l.map Fl.val, flagsOf l⟩
    let at_ : Nat → Bool → Nat := fun i isV =>
      a + 64 + nibbles x.fmt * (x.dh * (tokenPlace e i).2 + if isV then 16 * x.dh else 0) / 2
    let body := toks.flatMap fun i => [false, true].map fun isV =>
      let y := row i isV
      ((at_ i isV, packElems x.fmt y.val), y.flags)
    ((a, pageHeader x.fmt (min 16 (total - 16 * k)) x.dhu g s.1 s.2 (e.posBase + 16 * k) rec_.seq set) :: body.map Prod.fst,
     (body.map Prod.snd).foldl (· ||| ·) 0)
  ⟨list ++ pages.flatMap Prod.fst, (pages.map Prod.snd).foldl (· ||| ·) 0⟩

/-- Spans that one record reads: source rows, the newest page when it is partly filled, the list. -/
def appendReads (m : Mems) (x : Geom) (d : Desc) (lag : Nat) (e : Seq) (rec_ : AppendRec) : List (Nat × Nat) :=
  let f := fld d 64 4
  let src := [80, 112].flatMap fun o => (List.range x.g).flatMap fun g => (List.range rec_.len).map fun i =>
    (lag + 64 * fld d o 17 + 64 * numF d (160, 16, 1, 65535) * g + 64 * numF d (144, 16, 1, 65535) * (rec_.row + i), elemBytes f x.dh)
  src ++ (if e.length % 16 = 0 then [] else
    (listAddr e (listIdx e (e.pages - 1)), 4) :: (List.range x.g).map fun g => (x.addr (listed m e (e.pages - 1)) g, 64))

/-- Replace the record at the place of an AT.APPEND and move on. -/
def nextRec (r : Ref) (f : AppendRec → AppendRec) (c : Ctl) : Ctl :=
  { c with appends := c.appends.map fun a =>
      if a.ref = r then { a with recs := a.recs.modify a.pos f, pos := a.pos + 1 } else a }

/-- A record whose sequence is no longer as the reserve phase found it: nothing is appended (log 56). -/
def appendStale (e : Seq) (rec_ : AppendRec) : Bool :=
  decide (e.state ≠ .live) || (!rec_.exhausted &&
    (decide (cdiv (e.length + rec_.len) 16 - e.pages ≠ rec_.taken.length + rec_.recycle) || decide (e.pages < rec_.recycle)))

/-- The write phase of the next record (06 R200): APPEND_BUSY is set, the record waits for READERS = 0, then
its tokens and headers are written. -/
def appendWrite (r : Ref) (u : Upset) (v : View) (c : Ctl) : Ctl :=
  let p := v.part
  match ready c r 0 5, c.appends.find? fun a => decide (a.ref = r) && !a.waiting with
  | some m, some a =>
    let d := m.desc
    (match a.recs[a.pos]? with
     | none => c
     | some rec_ =>
       let e := getSeq c rec_.seq
       let x := geom p c a.set
       let b := dTarget d
       let lag := lagoonBase (b / 4)
       let c1 := modSeq rec_.seq (fun y => { y with appendBusy := true }) c
       if a.pos = 0 ∧ sigsFailed c d then settle p (resolve r 4 0 false c)
       else if a.pos = 0 ∧ !sigsPassed c d then c
       else if appendStale e rec_ then nextRec r (fun y => { y with skipped := true }) c
       else if 0 < e.readers then modCmd r (fun m => { m with depends := true }) c1
       else
         let c2 := endDepends p r c1
         if rec_.exhausted then nextRec r id c2
         else if e.length % 16 ≠ 0 ∧ !(List.range x.g).all (fun g =>
             pageOk v.mems x rec_.seq a.set g (x.addr (listed v.mems e (e.pages - 1)) g) (e.pages - 1) e) then
           seqFault p rec_.seq (listIdx e (e.pages - 1)) false (nextRec r (fun y => { y with faulted := true }) c2)
         else
           let w := appendWrites v.mems x d a.set lag e rec_
           blockRun v r b u (appendReads v.mems x d lag e rec_) id (fun c =>
             let c2 := raiseFlags p w.flags (postWrites w.val c)
             nextRec r id (modCmd r (fun y => { y with dst := y.dst ++ w.val.map fun s => (s.1, s.2.length) }) c2)) c2)
  | _, _ => c

/-- AT_APPEND_WRITE (06 R200). -/
def execAtAppendWrite (r : Ref) (u : Upset) (s : State) : Host.Outcome State Fault Refusal := act s (appendWrite r u)

/-- A command's engine time, charged per record to the clients given (11 R320), as P when it is re-run; CYCLES is a free
value. -/
def executedBy (p : Part) (r : Ref) (sig : Nat) (u : Nat) (cls : List Nat) (c : Ctl) : Ctl :=
  let rerun := decide (((findCmd c r).bind Cmd.redo).isSome)
  let c1 := cls.foldl (fun c cl => charge p u cl rerun c) c
  dropRedo r (modCmd r (fun m => { m with stage := .executed, cycles := Config.cycles c1.free % 2 ^ 32, sigValue := BitVec.ofNat 64 sig })
    { c1 with free := c1.free + 1 })

/-- The publication of one record (06 R200-R202). -/
def publishRec (p : Part) (set : Nat) (x : AppendRec) (c : Ctl) : Ctl :=
  let done := fun (f : Seq → Seq) (c : Ctl) => forgetSeq x.seq (modSeq x.seq (fun e => f { e with appendBusy := false }) c)
  if x.skipped then pushPool p set x.taken.reverse c
  else if x.faulted then done (fun e => { e with state := .faulted }) (pushPool p set x.taken.reverse c)
  else if x.exhausted then
    let e := getSeq c x.seq
    sendMsg p (owner p c .queue e.queue) 9 (leBytes 2 x.seq ++ leBytes 1 set ++ leBytes 1 0 ++ leBytes 4 e.length)
      (bump p (0x2B40 + set) 6 32 1 (done (fun e => { e with state := .exhausted }) c))
  else
    done (fun e =>
      { e with
        head := listIdx e x.recycle
        pages := e.pages + x.taken.length
        length := e.length + x.len - 16 * x.recycle
        posBase := (e.posBase + 16 * x.recycle) % 2 ^ 32 }) (bump p (0x2B40 + set) 7 32 x.recycle c)

/-- Clients charged for an AT.APPEND, one for each record: that of the record's sequence, and the queue's for a record that
was left out or skipped; the queue's alone for an empty list (11 R320). -/
def appendPayers (c : Ctl) (r : Ref) (a : Append) : List Nat :=
  let own := (getQ c r.q).ctx.client
  let l := a.recs.map (fun x => if x.skipped then own else (getSeq c x.seq).client) ++ List.replicate a.omitted own
  if l.isEmpty then [own] else l

/-- The publish phase (06 R200): one indivisible operation. -/
def appendPublish (r : Ref) (v : View) (c : Ctl) : Ctl :=
  let p := v.part
  match ready c r 0 5, c.appends.find? fun a => decide (a.ref = r) && !a.waiting with
  | some m, some a =>
    if sigsFailed c m.desc ∧ a.pos = 0 then settle p (resolve r 4 0 false c)
    else if a.pos < a.recs.length ∨ (a.pos = 0 ∧ !sigsPassed c m.desc) then c
    else
      let c1 := a.recs.foldl (fun c x => publishRec p a.set x c) { c with appends := c.appends.erase a }
      settle p (executedBy p r 0 (dTarget m.desc) (appendPayers c r a) c1)
  | _, _ => c

/-- AT_APPEND_PUBLISH (06 R200, R202). -/
def execAtAppendPublish (r : Ref) (s : State) : Host.Outcome State Fault Refusal := act s (appendPublish r)

end Sys2Proof.Machine
end

