-- ==== Sys2Proof/Machine/Attention.lean ====
section
/-! DEFINITION. AT.SCORE (06 R189-R196, R208) and AT.GRAD (06 R206-R209). -/

namespace Sys2Proof.Machine

/-! ## The descriptor (06 R195) -/

/-- Numeric fields of AT.SCORE and AT.GRAD. -/
def scoreFields : List NumField := [
  (77, 3, 1, 4), (112, 13, 1, 4096), (176, 16, 1, 32767), (192, 16, 1, 32767), (240, 16, 1, 32767), (272, 16, 1, 32767),
  (288, 16, 1, 32767), (384, 15, 1, 32767)]

/-- Byte address of a row in scratch: base, head stride and row stride in units (06 R195). -/
def rowAt (b base hstride stride h row : Nat) : Nat := scratchBase b + 64 * base + 64 * hstride * h + 64 * stride * row

/-- Query heads. -/
def headsOf (d : Desc) : Nat := numF d (77, 3, 1, 4)

/-- Query row. -/
def qRow (b : Nat) (d : Desc) (h row : Nat) : Nat :=
  rowAt b (fld d 160 15) (numF d (192, 16, 1, 32767)) (numF d (176, 16, 1, 32767)) h row

/-- A row addressed as the output from base `o`. -/
def oRow (b : Nat) (d : Desc) (o h row : Nat) : Nat :=
  rowAt b o (numF d (288, 16, 1, 32767)) (numF d (272, 16, 1, 32767)) h row

/-- Fresh K or V row. -/
def fRow (b : Nat) (d : Desc) (isV : Bool) (row : Nat) : Nat :=
  rowAt b (fld d (if isV then 224 else 208) 15) 0 (numF d (240, 16, 1, 32767)) 0 row

/-- Statistics of a head and row. -/
def statAt (b : Nat) (d : Desc) (h row : Nat) : Nat := scratchBase b + 64 * fld d 304 15 + 8 * (headsOf d * row + h)

/-! ## Keys and values of a record -/

/-- The keys of one record: held tokens in pages at the byte addresses given, then fresh ones (06 R189). -/
structure Keys where
  x : Geom
  /-- Byte address of each page of the descriptor's group. -/
  pages : List Nat
  held : Nat
  fresh : Nat
  b : Nat
  d : Desc
  row : Nat
  deriving DecidableEq, Repr

/-- All keys. -/
def Keys.total (k : Keys) : Nat := k.held + k.fresh

/-- Element `j` of K or V of key `i`: a held one widened by its page's scale (06 R191, 02 R60), a fresh one in
Q_FMT. -/
def Keys.elem (m : Mems) (k : Keys) (isV : Bool) (i j : Nat) : Num :=
  if i < k.held then
    let a := k.pages.getD (i / 16) 0
    let w := elemAt m k.x.fmt (a + 64) (k.x.dh * (i % 16) + j + if isV then 16 * k.x.dh else 0)
    let e := elemNum k.x.fmt w
    if k.x.fmt = 4 ∨ k.x.fmt = 5 then e else e.mul (decodeFp fBF16 (devNat m (a + if isV then 6 else 4) 2))
  else elemNum (fld k.d 64 4) (elemAt m (fld k.d 64 4) (fRow k.b k.d isV (k.row + (i - k.held))) j)

/-- Element `j` of the query of head `h` and token `i`. -/
def Keys.query (m : Mems) (k : Keys) (h i j : Nat) : Num :=
  elemNum (fld k.d 64 4) (elemAt m (fld k.d 64 4) (qRow k.b k.d h (k.row + i)) j)

/-- Scaled score of token `i` of head `h` with key `j` (06 R190 steps 1 and 2). -/
def Keys.score (m : Mems) (k : Keys) (h i j : Nat) : Fl Nat :=
  let s := runSteps (fun t acc => stepFp acc (k.query m h i t) (k.elem m false j t)) k.x.dh 0
  let y := fMul s.val (fld k.d 128 32)
  ⟨y.val, s.flags ||| y.flags⟩

/-- The running row of 06 R190: maximum, sum, output. -/
structure RowSt where
  m : Nat := ninf32
  l : Nat := 0
  o : List Nat
  flags : Nat := 0
  deriving DecidableEq, Repr

/-- One key chunk `lo ..< hi` of a row that sees `vis` keys (06 R190 steps 3 to 6). DESIGN CHOICE (log 93): the running
`fma` of l and O is one operation of R76, not an accumulation of R65, so it may leave −0. -/
def rowChunk (mm : Mems) (lvl : Nat) (k : Keys) (score : Nat → Fl Nat) (vis lo hi : Nat) (s : RowSt) : RowSt :=
  let idx := (List.range (hi - lo)).map fun t => lo + t
  let ss := idx.map fun j => if j < vis then some (score j) else none
  let top := treeMax ninf32 (ss.map fun x => match x with
    | some y => y.val
    | none => ninf32)
  let m := accMax s.m top
  let ps : List (Fl Nat) := ss.map fun x => match x with
    | some y =>
      let e := fSub y.val m
      let z := convElem 4 false (dec32 (exp232 lvl e.val))
      ⟨z.val, y.flags ||| e.flags ||| z.flags⟩
    | none => ⟨0, 0⟩
  let sum := fSum (ps.map fun x => bf16Up x.val)
  let g := fSub s.m m
  let corr := exp232 lvl g.val
  let l := fFma s.l corr sum.val
  let os : List (Fl Nat) := (List.range k.x.dh).map fun j =>
    let pv := runSteps (fun t acc => stepFp acc (dec32 (bf16Up (ps.getD t ⟨0, 0⟩).val)) (k.elem mm true (lo + t) j)) (hi - lo) 0
    let o := fFma (s.o.getD j 0) corr pv.val
    ⟨o.val, pv.flags ||| o.flags⟩
  { m := m, l := l.val, o := os.map Fl.val
    flags := s.flags ||| flagsOf ps ||| sum.flags ||| g.flags ||| l.flags ||| flagsOf os }

/-- Last key of the query chunk of token `i` of a record with `heads` heads (06 R189). -/
def chunkKeys (k : Keys) (heads i : Nat) : Nat :=
  let t := 256 / heads
  k.held + min k.fresh ((i / t + 1) * t)

/-- A row over all its key chunks. -/
def rowRun (mm : Mems) (lvl : Nat) (k : Keys) (h i : Nat) : RowSt :=
  let n := chunkKeys k (headsOf k.d) i
  (List.range (cdiv n 256)).foldl (fun s ck =>
    rowChunk mm lvl k (k.score mm h i) (k.held + i + 1) (256 * ck) (min n (256 * ck + 256)) s)
    { o := List.replicate k.x.dh 0 }

/-- The output elements of a finished row, converted (06 R190). -/
def rowOut (lvl f : Nat) (ieee : Bool) (s : RowSt) : Fl (List Nat) :=
  let r := recip32 lvl s.l
  let l : List (Fl Nat) := s.o.map fun o =>
    let y := fMul o r
    let z := convElem f ieee (dec32 y.val)
    ⟨z.val, y.flags ||| z.flags⟩
  ⟨l.map Fl.val, s.flags ||| flagsOf l⟩

/-! ## One record -/

/-- What is done for one record of a range. -/
structure Plan where
  rec_ : WRec
  omitted : Bool
  /-- List index of the page that failed its checks. -/
  bad : Option Nat := none
  keys : Keys
  /-- Pages that the fetcher reads: all, or those as far as the failed one. -/
  fetched : Nat := 0
  reads : List (Nat × Nat)
  deriving DecidableEq, Repr

/-- What the fetcher reads of the page at byte `a` with `fill` slots in use: its header and the slots below FILL of its K
and V halves (06 R172, R173). -/
def pageReads (x : Geom) (a fill : Nat) : List (Nat × Nat) :=
  [(a, 64), (a + 64, x.dh * fill * nibbles x.fmt / 2), (a + 64 + 8 * x.dh * nibbles x.fmt, x.dh * fill * nibbles x.fmt / 2)]

/-- The plan of a record as the table stands (06 R189, R191, R192). -/
def planRec (v : View) (c : Ctl) (b set group : Nat) (d : Desc) (w : WRec) : Plan :=
  let m := v.mems
  let x := geom v.part c set
  let e := getSeq c w.seq
  let nums := (List.range e.pages).map fun k => pageSetOf m c b w.seq k e
  let addrs := nums.map fun n => x.addr n group
  let bad := (List.range e.pages).find? fun k => !pageOk m x w.seq set group (addrs.getD k 0) k e
  let keys : Keys := ⟨x, addrs, e.length, w.len, b, d, w.row⟩
  let f := fld d 64 4
  let own := ((List.range (headsOf d)).flatMap fun h => (List.range w.len).map fun i => (qRow b d h (w.row + i), elemBytes f x.dh)) ++
    [false, true].flatMap fun t => (List.range w.len).map fun i => (fRow b d t (w.row + i), elemBytes f x.dh)
  let fetch : Nat → List (Nat × Nat) := fun k =>
    let a := addrs.getD k 0
    (if (nearSet c b w.seq (listIdx e k)).isSome then [] else [(listAddr e (listIdx e k), 4)]) ++
      if bad = some k then [(a, 64)] else pageReads x a (fillOf e k)
  if w.omitted ∨ e.state ≠ .live then { rec_ := w, omitted := true, keys := keys, reads := [] }
  else
    let n := match bad with
      | some k => k + 1
      | none => e.pages
    { rec_ := w, omitted := bad.isSome, bad := bad.map fun k => listIdx e k, keys := keys, fetched := n
      reads := (List.range n).flatMap fetch ++ if bad.isSome then [] else own }

/-- Output and statistics writes of a record, with flags (06 R190, R192). -/
def recordWrites (v : View) (d : Desc) (b : Nat) (ieee : Bool) (q : Plan) : List (Nat × List Byte) × List (Nat × List Byte) × Nat :=
  let f := fld d 68 4
  let rows := (List.range (headsOf d)).flatMap fun h => (List.range q.rec_.len).map fun i => (h, i)
  let res : List (RowSt × Fl (List Nat)) := rows.map fun (h, i) =>
    if q.omitted then ({ o := [] }, ⟨List.replicate q.keys.x.dh 0, 0⟩)
    else
      let s := rowRun v.mems v.part.arithLevel q.keys h i
      (s, rowOut v.part.arithLevel f ieee s)
  let z := rows.zip res
  (z.map fun (hi, r) => (oRow b d (fld d 256 15) hi.1 (q.rec_.row + hi.2), packElems f r.2.val),
   if fld d 74 1 = 1 then z.map fun (hi, r) => (statAt b d hi.1 (q.rec_.row + hi.2), leBytes 4 r.1.m ++ leBytes 4 r.1.l) else [],
   (res.map fun r => r.2.flags).foldl (· ||| ·) 0)

/-- The fetcher translates the list index of every page that it reads for a record (06 R197). -/
def fetchPages (p : Part) (b : Nat) (q : Plan) (c : Ctl) : Ctl :=
  (List.range q.fetched).foldl (fun c k => translate p b q.rec_.seq (listIdx (getSeq c q.rec_.seq) k) c) c

/-- The pages that records fetch pass through the page buffer in scratch, whose contents after them the spec does not state
(06 R195, R197, log 94). A buffer that would pass the end of scratch is taken to end there. -/
def usePageBuffer (d : Desc) (b : Nat) (l : List Plan) (c : Ctl) : Ctl :=
  let a := 64 * fld d 368 15
  if l.all fun q => decide (q.fetched = 0) then c
  else postUndef (scratchBase b + a) (min (64 * numF d (384, 15, 1, 32767)) (scratchSize - a)) c

/-- Run the records of a range: outputs and statistics written, omitted records counted, faulted sequences
reported; answers the writes of both regions. -/
def runRecords (v : View) (d : Desc) (b : Nat) (l : List Plan) (c : Ctl) : Ctl × List (Nat × List Byte) × List (Nat × List Byte) :=
  l.foldl (fun (s : Ctl × List (Nat × List Byte) × List (Nat × List Byte)) q =>
    let p := v.part
    let c := s.1
    let c1 := match q.bad with
      | some i => seqFault p q.rec_.seq i true c
      | none => c
    let c2 := fetchPages p b q (if q.omitted then bump p 0x2B00 7 64 1 c1 else c1)
    let w := recordWrites v d b (ieeeMode p c (fld d 72 2)) q
    (raiseFlags p w.2.2 (postWrites w.2.1 (postWrites w.1 c2)), s.2.1 ++ w.1, s.2.2 ++ w.2.1)) (c, [], [])

/-- READERS of a list of sequences rise by one each. -/
def addReaders (l : List Nat) (c : Ctl) : Ctl := l.foldl (fun c s => modSeq s (fun x => { x with readers := x.readers + 1 }) c) c

/-- The record at which a command's reads stop: the first whose reads touch the word of the first uncorrected check; the
first of all where a cell check, the list or an accumulator stops it. -/
def stopsAt (v : View) (c : Ctl) (b : Nat) (u : Upset) (lead : List (Nat × Nat)) (l : List Plan) : Nat :=
  if (cellUpset c b u).isSome then 0
  else match (metOf v c u (lead ++ l.flatMap Plan.reads)).find? Met.bad with
    | some x => (l.findIdx? fun q => (q.reads.flatMap wordsOf).contains x.addr).getD 0
    | none => 0

/-- The client charged for a record (11 R320): its sequence's, or the queue's when the record is omitted or treated as omitted (06 R191). -/
def payerOf (c : Ctl) (r : Ref) (q : Plan) : Nat :=
  if q.omitted then (getQ c r.q).ctx.client else (getSeq c q.rec_.seq).client

/-- Extents of AT.SCORE over ROWS packed rows (06 R196). -/
def scoreExtents (d : Desc) (b dh rows : Nat) (grad : Bool) : List (Nat × Nat) :=
  let f := fld d 64 4
  if rows = 0 then []
  else
    let h := headsOf d - 1
    [(qRow b d h (rows - 1), elemBytes f dh), (fRow b d false (rows - 1), elemBytes f dh), (fRow b d true (rows - 1), elemBytes f dh),
     (oRow b d (fld d 256 15) h (rows - 1), elemBytes (if grad then f else fld d 68 4) dh)] ++
    (if grad ∨ fld d 74 1 = 1 then [(scratchBase b + 64 * fld d 304 15, 8 * headsOf d * rows)] else [])

/-- The record that KEEP_SCORES or AT.GRAD may hold scores of: at most 128 rows and 128 keys (06 R208). -/
def keepFits (d : Desc) (q : Plan) : Bool := decide (headsOf d * q.rec_.len ≤ 128) && decide (q.keys.total ≤ 128)

/-- Identity of a record whose scores are held. -/
def keptMeta (d : Desc) (w : WRec) : List Nat := [fld d 84 6, w.seq, fld d 80 4, headsOf d]

/-- The scaled scores of a record, row by row. -/
def keptScores (v : View) (d : Desc) (q : Plan) : List Nat :=
  (List.range (headsOf d)).flatMap fun h => (List.range q.rec_.len).flatMap fun i =>
    (List.range q.keys.total).map fun j => if j < q.keys.held + i + 1 then (q.keys.score v.mems h i j).val else ninf32

/-! ## AT.SCORE -/

/-- AT.SCORE: checks, READERS of its whole range, and its records in order (06 R189-R196, R205). It waits for a
FREE bank, for counts below 15 and for appends under way. -/
def score (r : Ref) (u : Upset) (v : View) (c : Ctl) : Ctl :=
  match ready c r 0 4 with
  | none => c
  | some cmd =>
    let p := v.part
    let d := cmd.desc
    let b := dTarget d
    let of := fld d 68 4
    let set := fld d 84 6
    let group := fld d 80 4
    let x := geom p c set
    let wl := 64 * fld d 320 48
    let cnt := wlCount v.mems wl
    let first := fld d 96 12
    let recs := ((List.range (min (first + numF d (112, 13, 1, 4096)) cnt)).drop first).map fun i => wlAt v.mems wl i
    let plans := recs.map fun w => planRec v c b set group d w
    let keep := decide (fld d 75 1 = 1)
    let c0 := dropKept b (noteClamp p (anyClamped d scoreFields) c)
    let exts := scoreExtents d b x.dh (wlRows v.mems wl) false
    let seqs := recs.map WRec.seq
    if cmd.phase ≠ 0 then c
    else if keep ∧ !hasTrain p then settle p (resolve r 2 0 false (dropKept b c))
    else if (fld d 64 4 ≠ 4 ∧ fld d 64 4 ≠ 5) ∨ !([2, 3, 4, 5, 10].contains of) ∨ fld d 72 2 = 3 then invalid p r 1 c0
    else if !(exts.all (within (scratchBase b) scratchSize)) ∨ !inDevice p c wl (64 + 8 * cnt) then invalid p r 5 c0
    else if spanOff cmd.off (wl, 64 + 8 * cnt) then invalid p r 6 c0
    else if x.g ≤ group ∨ numF d (384, 15, 1, 32767) < 32 * x.page / 64 ∨
        (keep ∧ !(match plans with
          | [q] => keepFits d q
          | _ => false)) then invalid p r 10 c0
    else if ((getB c b).bank0.state ≠ .free ∧ (getB c b).bank1.state ≠ .free) ∨
        seqs.any (fun s => decide (15 < (getSeq c s).readers + seqs.count s) || (getSeq c s).appendBusy) then
      modCmd r (fun m => { m with depends := true }) c
    else
      let c1 := addReaders seqs (endDepends p r c0)
      let lead := [(wl, 64 + 8 * cnt)]
      let stopAt := stopsAt v c1 b u lead plans
      let bad : Ctl → Ctl := fun c =>
        let res := runRecords v d b (plans.take stopAt) (usePageBuffer d b (plans.take (stopAt + 1)) c)
        let lost := match plans[stopAt]? with
          | some q => (recordWrites v d b false { q with omitted := true }, q.fetched)
          | none => (([], [], 0), 0)
        let c2 := match plans[stopAt]? with
          | some q => fetchPages p b q res.1
          | none => res.1
        modB b (fun y => { y with readers := y.readers ++ seqs.drop stopAt })
          (dropReaders (seqs.take stopAt) (poisonWrites (lost.1.1 ++ lost.1.2.1) c2))
      let good : Ctl → Ctl := fun c =>
        let res := runRecords v d b plans (usePageBuffer d b plans c)
        let sig := signatureOf [res.2.1, res.2.2]
        let c2 := modCmd r (fun m => { m with phase := 1, work := seqs, payers := plans.map (payerOf c r), sigValue := BitVec.ofNat 64 sig, dst := m.dst ++ wroteSpans res.1 }) res.1
        let c3 := match keep, plans with
          | true, [q] => if q.omitted then c2 else
              modB b (fun y => { y with kept := some { m := headsOf d * q.rec_.len, n := q.keys.total, meta_ := keptMeta d q.rec_, scores := keptScores v d q } }) c2
          | _, _ => c2
        if seqs.isEmpty then executedBy p r sig b [(getQ c r.q).ctx.client] c3 else c3
      let run := blockRun v r b u (lead ++ plans.flatMap Plan.reads) bad good
      if plans.all Plan.omitted then run c1 else drainRead v r b u bad run c1

/-- AT_SCORE (06 R189). -/
def execAtScore (r : Ref) (u : Upset) (s : State) : Host.Outcome State Fault Refusal := act s (score r u)

/-- A record of an AT.SCORE completes: its READERS count falls, and its time is charged to its sequence's client
(06 R194, 11 R320); after the last one the command has executed. -/
def recordDone (r : Ref) (v : View) (c : Ctl) : Ctl :=
  match ready c r 0 4 with
  | none => c
  | some m =>
    match m.work with
    | [] => c
    | s :: rest =>
      let b := dTarget m.desc
      let cl := m.payers.headD (getQ c r.q).ctx.client
      let c1 := charge v.part b cl m.redo.isSome
        (modCmd r (fun x => { x with work := rest, payers := x.payers.tail }) (dropReaders [s] c))
      if rest.isEmpty then executedBy v.part r m.sigValue.toNat b [] c1 else c1

/-- AT_SCORE_RECORD_DONE (06 R194). -/
def execAtScoreRecordDone (r : Ref) (s : State) : Host.Outcome State Fault Refusal := act s (recordDone r)

/-! ## AT.GRAD (06 R206-R209) -/

/-- What one query row contributes: for each key p (FP32), its BF16, and dAcc (06 R207). -/
structure GradRow where
  h : Nat
  i : Nat
  p16 : List Nat
  dAcc : List Nat
  flags : Nat
  deriving DecidableEq, Repr

/-- A row of AT.GRAD: D by the tree, p from the final statistics, dP and dAcc per visible key. DESIGN CHOICE (log 95):
BF16(p) is converted with SAT, as the p of AT.SCORE is (R190); OVF_MODE is a field of the output conversion only. -/
def gradRow (v : View) (d : Desc) (b : Nat) (k : Keys) (held : Option (List Nat)) (h i : Nat) : GradRow :=
  let mm := v.mems
  let f := fld d 64 4
  let lvl := v.part.arithLevel
  let row := k.row + i
  let el : Nat → Nat → Nat := fun base j => enc32 (elemNum f (elemAt mm f (oRow b d base h row) j))
  let prods := (List.range k.x.dh).map fun j => fMul (el (fld d 417 15) j) (el (fld d 256 15) j)
  let dd := fSum (prods.map Fl.val)
  let m := devNat mm (statAt b d h row) 4
  let rl := recip32 lvl (devNat mm (statAt b d h row + 4) 4)
  let vis := k.held + i + 1
  let parts : List (Fl Nat × Nat) := (List.range k.total).map fun j =>
    if vis ≤ j then (⟨0, 0⟩, 0)
    else
      let s : Fl Nat := match held with
        | some l => ⟨l.getD ((h * k.fresh + i) * k.total + j) 0, 0⟩
        | none => k.score mm h i j
      let e := fSub s.val m
      let pr := fMul (exp232 lvl e.val) rl
      let dP := runSteps (fun t acc => stepFp acc (elemNum f (elemAt mm f (oRow b d (fld d 417 15) h row) t)) (k.elem mm true j t)) k.x.dh 0
      let df := fSub dP.val dd.val
      let a := fMul pr.val df.val
      let g := fMul a.val (fld d 464 32)
      (⟨g.val, s.flags ||| e.flags ||| pr.flags ||| dP.flags ||| df.flags ||| a.flags ||| g.flags⟩, pr.val)
  let p16 := parts.map fun x => convElem 4 false (dec32 x.2)
  { h := h, i := i, p16 := p16.map Fl.val, dAcc := parts.map fun x => x.1.val
    flags := flagsOf prods ||| dd.flags ||| flagsOf (parts.map Prod.fst) ||| flagsOf p16 }

/-- Query rows in order: query chunks of ⌊256/HEADS⌋ tokens, each head-major (06 R189). -/
def gradOrder (heads f : Nat) : List (Nat × Nat) :=
  let t := 256 / heads
  (List.range (cdiv f t)).flatMap fun q => (List.range heads).flatMap fun h =>
    (List.range (min t (f - t * q))).map fun i => (h, t * q + i)

/-- What AT.GRAD writes: dQ rows, then dK and dV rows, with flags (06 R206, R207). -/
def gradWrites (v : View) (d : Desc) (b : Nat) (k : Keys) (held : Option (List Nat)) : Fl (List (Nat × List Byte)) :=
  let mm := v.mems
  let f := fld d 64 4
  let dh := k.x.dh
  let rows := (gradOrder (headsOf d) k.fresh).map fun x => gradRow v d b k held x.1 x.2
  let vec : (Nat → Fl Nat) → Fl (List Byte) := fun g =>
    let l := (List.range dh).map g
    ⟨l.flatMap fun x => leBytes 4 x.val, flagsOf l⟩
  let dq := rows.map fun w =>
    let y := vec fun j => runSteps (fun t acc => stepFp acc (dec32 (w.dAcc.getD t 0)) (k.elem mm false t j)) k.total 0
    ((oRow b d (fld d 432 15) w.h (k.row + w.i), y.val), y.flags)
  let base := scratchBase b + 64 * fld d 448 15
  let col : Nat → Bool → Fl (List Byte) := fun key isV => vec fun j =>
    rows.foldl (fun (a : Fl Nat) w =>
      let y := if isV then
          stepFp a.val (dec32 (bf16Up (w.p16.getD key 0))) (elemNum f (elemAt mm f (oRow b d (fld d 417 15) w.h (k.row + w.i)) j))
        else stepFp a.val (dec32 (w.dAcc.getD key 0)) (k.query mm w.h w.i j)
      ⟨y.val, a.flags ||| y.flags⟩) (⟨0, 0⟩ : Fl Nat)
  let dkv := [false, true].flatMap fun isV => (List.range k.total).map fun key =>
    let y := col key isV
    ((base + 4 * dh * (key + if isV then k.total else 0), y.val), y.flags)
  ⟨(dq ++ dkv).map Prod.fst, (rows.map GradRow.flags).foldl (· ||| ·) 0 ||| ((dq ++ dkv).map Prod.snd).foldl (· ||| ·) 0⟩

/-- What AT.GRAD writes for an omitted record: +0 everywhere. -/
def gradZeros (d : Desc) (b : Nat) (k : Keys) : List (Nat × List Byte) :=
  let z := List.replicate (4 * k.x.dh) (0 : Byte)
  ((gradOrder (headsOf d) k.fresh).map fun x => (oRow b d (fld d 432 15) x.1 (k.row + x.2), z)) ++
    (List.range (2 * k.total)).map fun j => (scratchBase b + 64 * fld d 448 15 + 4 * k.x.dh * j, z)

/-- AT.GRAD (06 R206-R209). With SCORES = 1 it leaves held scores to be found until it runs; any other command of the
block frees them first (R208). With SIG_EN its writes are signed as AT.SCORE's are, dQ first, then dK and dV (R195, R209,
log 92). -/
def grad (r : Ref) (u : Upset) (v : View) (c : Ctl) : Ctl :=
  match ready c r 0 8 with
  | none => c
  | some cmd =>
    let p := v.part
    let d := cmd.desc
    let b := dTarget d
    let set := fld d 84 6
    let group := fld d 80 4
    let x := geom p c set
    let wl := 64 * fld d 320 48
    let cnt := wlCount v.mems wl
    let rows := wlRows v.mems wl
    let first := fld d 96 12
    let use := decide (fld d 416 1 = 1)
    let c0 := (if use then id else dropKept b) (noteClamp p (anyClamped d scoreFields) c)
    let inScratch := within (scratchBase b) scratchSize
    let exts := scoreExtents d b x.dh rows true ++
      (if rows = 0 then [] else
        [(oRow b d (fld d 417 15) (headsOf d - 1) (rows - 1), elemBytes (fld d 64 4) x.dh),
         (oRow b d (fld d 432 15) (headsOf d - 1) (rows - 1), 4 * x.dh)])
    if (fld d 64 4 ≠ 4 ∧ fld d 64 4 ≠ 5) ∨ fld d 72 2 = 3 then invalid p r 1 c0
    else if x.fmt ≠ 4 ∧ x.fmt ≠ 5 then invalid p r 4 c0
    else if !(exts.all inScratch) ∨ !inDevice p c wl (64 + 8 * cnt) then invalid p r 5 c0
    else if spanOff cmd.off (wl, 64 + 8 * cnt) then invalid p r 6 c0
    else
      let w := wlAt v.mems wl first
      let q := planRec v c b set group d w
      let held := match (getB c b).kept with
        | some k => if k.meta_ = keptMeta d w ∧ k.m = headsOf d * w.len ∧ k.n = q.keys.total then some k.scores else none
        | none => none
      if first < cnt ∧ !inScratch (scratchBase b + 64 * fld d 448 15, 8 * x.dh * q.keys.total) then invalid p r 5 c0
      else if use ∧ held.isNone then invalid p r 6 c0
      else if x.g ≤ group ∨ numF d (384, 15, 1, 32767) < 32 * x.page / 64 then invalid p r 10 c0
      else if cnt ≤ first then executed p r 0 c0
      else
        let zs := gradZeros d b q.keys
        let reads := (wl, 64 + 8 * cnt) :: q.reads ++
          (if q.omitted then [] else (gradOrder (headsOf d) w.len).flatMap fun y =>
            [(oRow b d (fld d 417 15) y.1 (w.row + y.2), elemBytes (fld d 64 4) x.dh), (oRow b d (fld d 256 15) y.1 (w.row + y.2), elemBytes (fld d 64 4) x.dh),
             (statAt b d y.1 (w.row + y.2), 8)])
        let bad : Ctl → Ctl := fun c => poisonWrites zs (fetchPages p b q (usePageBuffer d b [q] c))
        let signed : List (Nat × List Byte) → Nat := fun l =>
          let n := headsOf d * w.len
          signatureOf [l.take n, l.drop n]
        let good : Ctl → Ctl := fun c =>
          let c1 := fetchPages p b q (usePageBuffer d b [q] (match q.bad with
            | some i => seqFault p w.seq i true c
            | none => c))
          if q.omitted then executed p r (signed zs) (postWrites zs (bump p 0x2B00 7 64 1 c1))
          else
            let g := gradWrites v d b q.keys (if use then held else none)
            executed p r (signed g.val) (raiseFlags p g.flags (postWrites g.val c1))
        let run := blockRun v r b u reads bad good
        if q.omitted then run c0 else drainRead v r b u bad run c0

/-- AT_GRAD (06 R207). -/
def execAtGrad (r : Ref) (u : Upset) (s : State) : Host.Outcome State Fault Refusal := act s (grad r u)

end Sys2Proof.Machine
end

