-- ==== Sys2Proof/Machine/Sched.lean ====
section
/-! DEFINITION. The scheduler (11): kernel boundaries, pre-emption, DM.SPILL, and the deadline monitor. -/

namespace Sys2Proof.Machine

/-! ## KERNEL_BOUNDARY (11 R318, R322, R326) -/

/-- Client `n` comes onto unit `u` at a kernel boundary, where `r` (plus 1) ran: a live layer of `r` on a block is
switched out (11 R327); `n` has waited for the boundary (11 R323). -/
def switchTo (p : Part) (u cur n : Nat) (c : Ctl) : Ctl :=
  if cur = n + 1 then c
  else
    let r := cur - 1
    let c1 := if 0 < cur ∧ u < 32 ∧ isLive c r u then switchOut p u r n (spillFits p c r n) c else c
    let c2 := if 0 < cur then addWait p n (Config.cycles c1.free % 2 ^ 32) { c1 with free := c1.free + 1 } else c1
    runClient u n c2

/-- A kernel boundary of unit `u` (11 R322): a client whose live layer is not pre-empted goes on; otherwise the
client of least virtual time is selected. While a switch is in progress on a block nothing is chosen (11 R326). -/
def boundary (u : Nat) (v : View) (c : Ctl) : Ctl :=
  let p := v.part
  if !dispatching c ∨ !scheduledUnits.contains u ∨ !atBoundary c u ∨ (u < 32 ∧ moving c u) then c
  else
    let cur := look 0 u c.sched.running
    let c0 := dropOld u c
    if 0 < cur ∧ u < 32 ∧ isLive c (cur - 1) u ∧ !preempted p c u (cur - 1) then c0
    else match selectClient p c u with
      | some n => switchTo p u cur n c0
      | none => if 0 < cur ∧ u < 32 ∧ isLive c (cur - 1) u then c0 else runNobody u c0

/-- KERNEL_BOUNDARY (11 R322). -/
def execKernelBoundary (unit : Nat) (s : State) : Host.Outcome State Fault Refusal := act s (boundary unit)

/-! ## DM.SPILL and fills (11 R329-R332, R339) -/

/-- Bytes and places of a client's window on a block: scratch address, save address, length. -/
def windowPlaces (p : Part) (c : Ctl) (cl b : Nat) : Nat × Nat × Nat :=
  let w := windowSpan p c cl
  (scratchBase b + 64 * w.1, 64 * effVal p c (0x4000 + cl) 4 + 64 * w.2 * b, 64 * w.2)

/-- A window has been moved: a spill leaves its client to be selected again on the block, a fill leaves it in scratch
(11 R329, R330). -/
def windowMoved (cl b : Nat) (fill : Bool) (why : Why) (c : Ctl) : Ctl :=
  let c1 := modW cl b (fun w => { w with spilled := !fill, why := if fill then w.why else why }) c
  if fill then c1 else stopRunning cl b c1

/-- Move one window; a failed check of the ferry, or an uncorrected word, fails the move with the record answered
(11 R339). A window that died meanwhile needs no move of the device's own (11 R319). -/
def moveWindow (v : View) (u : Upset) (cl b : Nat) (fill : Bool) (why : Why) (c : Ctl) : Ctl × Option Rec :=
  let pl := windowPlaces v.part c cl b
  let src := if fill then pl.2.1 else pl.1
  let dst := if fill then pl.1 else pl.2.1
  if why ≠ .host ∧ (getW c cl b) = {} then (c, none)
  else match ownCheck c 0x2D 12 u with
    | some rc => (if rc.injected then useInjection c else c, some rc)
    | none =>
      let k := checked v none 0x2D u [(src, pl.2.2)] c
      match k.2 with
      | some x => (report v.part none x k.1, some (consumes 0x2D x))
      | none => (windowMoved cl b fill why (post (.dev dst (devBytes v.mems src pl.2.2)) k.1), none)

/-- Move the windows of a client on the named blocks of an isle, in ascending order, as far as the first that fails:
that block is answered with the record of its error. -/
def moveWindows (v : View) (u : Upset) (cl isle mask : Nat) (fill : Bool) (why : Why) (c : Ctl) : Ctl × Option (Nat × Rec) :=
  (List.range 4).foldl (fun (x : Ctl × Option (Nat × Rec)) b =>
    if mask.testBit b ∧ x.2.isNone then
      let y := moveWindow v u cl (4 * isle + b) fill why x.1
      (y.1, y.2.map fun rc => (4 * isle + b, rc))
    else x) (c, none)

/-- The commands of a queue from the mark that opened layer `l` onwards that are unretired and have no outcome. -/
def sinceMark (c : Ctl) (q l : Nat) : List Ref :=
  ((getQ c q).cmds.filter fun m => decide (m.status = 0) && (decide (m.stage = .read) || decide (l ≤ m.layer))).map fun m => ⟨q, m.idx⟩

/-- A window is lost to an uncorrected error during its move, found at address `a` (11 R339): layers with intact redo
lists are abandoned and re-run; otherwise the unretired commands of their queues since the mark retire FAULTED with the
record of the error. -/
def loseWindow (p : Part) (cl b : Nat) (rc : Rec) (c : Ctl) : Ctl :=
  let w := getW c cl b
  let c0 := stopRunning cl b c
  if w.live.isEmpty then raise p rc (modW cl b (fun _ => {}) c0)
  else if rerunnable c cl b then raise p rc (abandon p b cl c0)
  else
    let hit := w.live.flatMap fun x => sinceMark c x.1 x.2
    raise p { rc with halts := rc.halts ++ hit }
      (modW cl b (fun _ => {}) (hit.foldl (fun c r => modCmd r (fun m => { m with stage := .stopped }) c) c0))

/-- What a move costs (11 R323, R329): P of the client when it was pre-empted or evicted, and W of the clients that wait
for the block; the time is a free value (log 6). -/
def chargeMove (p : Part) (cl b : Nat) (why : Why) (c : Ctl) : Ctl :=
  let t := Config.cycles c.free % 2 ^ 32
  let c1 := { c with free := c.free + 1 }
  chargeWait p b cl t (if why = .preempt ∨ why = .evict then addLoss p cl t c1 else c1)

/-- Costs of a move over the blocks of a mask. -/
def chargeMoves (p : Part) (j : Job) (c : Ctl) : Ctl :=
  (List.range 4).foldl (fun c b => if j.mask.testBit b then chargeMove p j.client (4 * j.isle + b) j.why c else c) c

/-- The device's own spill or fill: the first of the ferry work it has asked for, at a kernel boundary of the ferry
(11 R327, R339, 01 R41). -/
def deviceMove (v : View) (u : Upset) (cl isle mask : Nat) (fill : Bool) (c : Ctl) : Ctl :=
  match c.sched.ferry with
  | j :: rest =>
    if j.client = cl ∧ j.isle = isle ∧ j.mask = mask ∧ j.fill = fill ∧ enginesRun c ∧ atBoundary c 0x2D then
      let m := moveWindows v u cl isle mask fill j.why (modSched (fun s => { s with ferry := rest }) c)
      let c2 := chargeMoves v.part j m.1
      settle v.part (match m.2 with
        | none => c2
        | some x => loseWindow v.part cl x.1 x.2 c2)
    else c
  | [] => c

/-- A host's DM.SPILL (11 R331, R332): waits for boundaries with no command of the client in execution;
INVALID 6 when the client is not resident or a window to fill is not spilled. -/
def hostMove (r : Ref) (u : Upset) (fill : Bool) (v : View) (c : Ctl) : Ctl :=
  let p := v.part
  match ready c r 5 2 with
  | none => c
  | some m =>
    let d := m.desc
    let mask := fld d 68 4
    let isle := fld d 72 3
    let cl := fld d 80 8
    let idle := (List.range 4).all fun b =>
      !mask.testBit b || (atBoundary c (4 * isle + b) &&
        (onUnit c (4 * isle + b)).all fun e => decide ((getQ c e.1).ctx.client ≠ cl))
    if (fld d 64 1 = 1) ≠ (fill = true) then c
    else if !(look [] isle c.sched.resident).contains cl then invalid p r 6 c
    else if fill ∧ (List.range 4).any (fun b => mask.testBit b && !(getW c cl (4 * isle + b)).spilled) then invalid p r 6 c
    else if !idle then c
    else
      let x := moveWindows v u cl isle mask fill .host c
      match x.2 with
      | none =>
        let c1 := if !fill ∧ fld d 65 1 = 1 then
          setResident p isle ((look [] isle x.1.sched.resident).filter fun y => y ≠ cl) x.1 else x.1
        executed p r 0 c1
      | some y =>
        loseWindow p cl y.1 { y.2 with op := opOf c r, halts := [r] }
          (modCmd r (fun m => { m with stage := .stopped }) (chargeCmd p r x.1))

/-- DM_SPILL (11 R331). -/
def execDmSpill (req : SpillReq) (u : Upset) (s : State) : Host.Outcome State Fault Refusal :=
  act s fun v c => match req with
    | .queued r => hostMove r u false v c
    | .device cl isle mask _ => deviceMove v u cl isle mask false c

/-- DM_FILL (11 R332). -/
def execDmFill (req : SpillReq) (u : Upset) (s : State) : Host.Outcome State Fault Refusal :=
  act s fun v c => match req with
    | .queued r => hostMove r u true v c
    | .device cl isle mask _ => deviceMove v u cl isle mask true c

/-! ## Tasks (11 R333-R336) -/

/-- Task `n`. -/
def getTask (c : Ctl) (n : Nat) : Task := look {} n c.sched.tasks
/-- Change task `n`. -/
def modTask (n : Nat) (f : Task → Task) (c : Ctl) : Ctl :=
  modSched (fun s => { s with tasks := tweak {} n f s.tasks }) c

/-- Start monitoring (11 R333): DoneSync is recorded; the next boundary is the first release. -/
def startTask (p : Part) (n : Nat) (c : Ctl) : Ctl :=
  modTask n (fun _ => { s0 := getSync c (effVal p c (0x2440 + n) 3), tierNow := odVal p c (0x2440 + n) 0xA }) c

/-- A tier change is announced (11 R334, R336): 0 misses, 1 hysteresis, 2 host write. It takes effect at
the next boundary. -/
def tierChange (p : Part) (n old new cause : Nat) (c : Ctl) : Ctl :=
  let cl := effVal p c (0x2440 + n) 1
  sendMsg p (owner p c .client cl) 0x15
    (leBytes 1 n ++ leBytes 1 cl ++ leBytes 1 old ++ leBytes 1 new ++ leBytes 1 cause ++ leBytes 3 0 ++
      leBytes 8 c.time.boundary)
    (odSet p (0x2440 + n) 0xA new (modTask n (fun t => { t with misses := 0, mets := 0 }) c))

/-- A release is emitted for every enabled task at a frame boundary (11 R333): boundary, target and
deadline; the tier takes effect. -/
def releaseTasks (p : Part) (b : Nat) (c : Ctl) : Ctl :=
  (List.range 64).foldl (fun c n =>
    if odVal p c (0x2440 + n) 2 = 1 then
      modTask n (fun t =>
        { t with
          released := true
          releases := t.releases + 1
          tierNow := odVal p c (0x2440 + n) 0xA
          open_ := t.open_ ++ [⟨b, t.s0 + t.releases + 1, (b + odVal p c (0x2440 + n) 4 * us) % 2 ^ 64, odVal p c (0x2440 + n) 5⟩] }) c
    else c) c

/-- The deadline of the oldest open release of task `n` arrives (11 R333, R334): fusion time is at or
after it. -/
def deadline (n : Nat) (v : View) (c : Ctl) : Ctl :=
  let p := v.part
  let t := getTask c n
  match t.open_ with
  | [] => c
  | o :: rest =>
    let i := 0x2440 + n
    if odVal p c i 2 ≠ 1 then c
    else
      let c0 := modTime (reach o.due) c
      let done := getSync c (effVal p c i 3)
      let tier := odVal p c i 0xA
      if o.target ≤ done then
        let mets := t.mets + 1
        let c1 := modTask n (fun x => { x with open_ := rest, mets := mets, misses := 0 }) c0
        if odVal p c i 9 ≤ mets ∧ 0 < tier then tierChange p n tier (tier - 1) 1 c1 else c1
      else
        let misses := t.misses + 1
        let c1 := modTask n (fun x => { x with open_ := rest, misses := misses, mets := 0 }) c0
        let cl := effVal p c i 1
        let c2 := sendMsg p (owner p c .client cl) 0x14
          (leBytes 1 n ++ leBytes 1 cl ++ leBytes 1 tier ++ leBytes 1 0 ++ leBytes 2 misses ++ leBytes 2 0 ++
            leBytes 8 o.at_ ++ leBytes 8 done) (bump p i 0xB 32 1 c1)
        if odVal p c i 8 ≤ misses ∧ tier + 1 < effVal p c i 7 then tierChange p n tier (tier + 1) 0 c2 else c2

/-- TASK_DEADLINE (11 R333). -/
def execTaskDeadline (n : Nat) (s : State) : Host.Outcome State Fault Refusal := act s (deadline n)

end Sys2Proof.Machine
end

