-- ==== Sys2Proof/Machine/Clock.lean ====
section
/-! DEFINITION. The time unit (09): trackers, time states, frame boundaries, PPS and stamps. -/

namespace Sys2Proof.Machine

/-! ## Trackers (09 R268-R271) -/

/-- Change tracker `t`. -/
def modTr (t : Nat) (f : Tracker → Tracker) (c : Ctl) : Ctl :=
  modTime (fun x => if t = 0 then { x with track0 := f x.track0 } else { x with track1 := f x.track1 }) c

/-- The tracker is switched on (09 R270). -/
def trOn (p : Part) (c : Ctl) (t : Nat) : Bool :=
  decide (effVal p c (0x2201 + t) 3 = 1) &&
    !(decide (t = 1) && decide (effVal p c 0x2201 3 = 1) && decide (effVal p c 0x2201 1 = effVal p c 0x2202 1) &&
      decide (effVal p c 0x2201 2 = effVal p c 0x2202 2))

/-- The MAC is started: enabled, and the device has left the setup state (17 R484, R495, R496). -/
def macRuns (p : Part) (c : Ctl) (m : Nat) : Bool :=
  decide (c.boot.stage = .service) && decide (m < 6) && (effVal p c 0x2911 (m + 1)).testBit 0

/-- Three completed Pdelay exchanges with a mean of at most 800 ns (09 R269). -/
def asCapable (x : Tracker) : Bool :=
  decide (x.delays.length = 3) && x.delays.all Option.isSome &&
    decide (sumN (x.delays.map fun d => d.getD 0) ≤ 3 * 800 * 65536)

/-- Some stream is armed (09 R272): RUNNING or HALTED. -/
def streamArmed (c : Ctl) : Bool :=
  (c.img ++ c.vd ++ c.pts).any fun e => decide (e.2.state ≠ .idle)

/-! ## Frame boundaries (09 R267) -/

/-- SLOW_DOWN_UPDATE (11 R324): SlowDown from the frame's E, W and P. -/
def slowDown (p : Part) (c : Ctl) : Ctl :=
  let c1 := (List.range 256).foldl (fun c cl =>
    let a := look {} cl c.sched.acct
    odSet p (0x4000 + cl) 0xB (if a.e = 0 then 256 else min 65535 (256 * (a.e + a.w + a.p) / a.e)) c) c
  modSched (fun s => { s with acct := [] }) c1

/-- A HALTED live stream writes one ABSENT entry at every boundary, with the boundary as TIME (08 R252). -/
def absentAt (p : Part) (cls b : Nat) (c : Ctl) : Ctl :=
  (streamsOf c cls).foldl (fun c e =>
    if e.2.state = .halted ∧ armSource e.2.arm ≠ 2 then
      modS cls e.1 (fun s => { s with seq := s.seq + 1 })
        (writeStatus p { arm := e.2.arm, seq := e.2.seq, stamp := b } 1 e.2.cause c)
    else c) c

/-- A rising edge of PPS_OUT, which falls after `w` units (09 R280). -/
def ppsRise (w : Nat) (c : Ctl) : Ctl :=
  emit (.pps true) (modTime (fun t => { t with pps := true, ppsFall := some ((t.value + w) % 2 ^ 64) }) c)

/-- PpsOutWidth. -/
def ppsWidth (p : Part) (c : Ctl) : Nat := odVal p c 0x2206 2 * us

/-- The boundary event (09 R267): in mode 2 an edge of PPS_OUT (09 R280); SlowDown of every client (11 R324), releases and
tiers (11 R333-R335), ABSENT entries of halted streams; the count of a frame's disagreements starts afresh (14 R414). -/
def emitBoundary (p : Part) (c : Ctl) : Ctl :=
  let b := c.time.boundary
  let c1 := modTime (fun t => { t with boundary := b + t.period }) c
  let c2 := if odVal p c 0x2206 1 = 2 then ppsRise (min (ppsWidth p c) (c.time.period / 2)) c1 else c1
  let c3 := releaseTasks p (b % 2 ^ 64) (slowDown p (modSafety (fun s => { s with named := [] }) c2))
  [2, 3, 4].foldl (fun c cls => absentAt p cls (b % 2 ^ 64) c) c3

/-- A boundary that is reached in the cycle of a transition is emitted before it (09 R281). -/
def dueBoundary (p : Part) (c : Ctl) : Ctl :=
  if c.boot.started ∧ c.time.period ≠ 0 ∧ c.time.boundary ≤ fullTime c.time then emitBoundary p c else c

/-! ## Time states (09 R272-R275) -/

/-- The increment of 09 R273 in parts per 10^9: nominal in FREE_RUN, frozen in HOLDOVER; otherwise the domain's rate
estimate, off by SlewLimit towards the domain while SLEWING and by at most SlewLimit towards it in LOCKED (free values, log
16). It is set at a transition and at each Sync of the selected tracker. -/
def servo (p : Part) (c : Ctl) : Ctl :=
  let lim : Int := (odVal p c 0x2200 9 * 1000 : Nat)
  let est := Config.rateEstimate c.free
  let size : Int := if c.time.state = 1 then (Config.servoTrim c.free).natAbs % (lim.natAbs + 1) else lim
  let trim := if 0 < offsetNow c then size else -size
  match c.time.state with
  | 0 => modTime (fun t => { t with rate := 0, trim := 0 }) c
  | 3 => modTime (fun t => { t with trim := 0 }) c
  | _ => modTime (fun t => { t with rate := est + trim, trim := trim }) { c with free := c.free + 1 }

/-- A transition: state and selected tracker, STATE record, TIME_STATE message and the new increment (09 R273, R275, 13
R383). -/
def timeGoes (p : Part) (st sel : Nat) (c : Ctl) : Ctl :=
  let other := decide (c.time.selected < 2) && decide (sel < 2) && decide (sel ≠ c.time.selected)
  let c1 := modTime (fun t => { t with state := st, selected := sel }) c
  let c2 := if other then bump p 0x2200 0xB 32 1 c1 else c1
  let c3 := if st = 3 then bump p 0x2200 0xC 32 1 c2 else c2
  let d := leBytes 8 (ofInt 64 (offsetNow c3))
  servo p (sendMsg p 0 0x0D (leBytes 1 st ++ leBytes 1 sel ++ leBytes 6 0 ++ d ++ leBytes 8 (now c3)) (recordState p c3))

/-- The first whole second after a full time (09 R280). -/
def secondAfter (f : Nat) : Nat := boundaryAfter (1000000000 * 65536) 0 f

/-- The step of 09 R272: value and epoch load the selected domain's time; offsets follow, and the next boundary and the next
edge of PPS_OUT are the first after the new time (09 R267, R280). -/
def timeStep (t : Nat) (c : Ctl) : Ctl :=
  let d := (getTr c t).offset
  let full := ((fullTime c.time : Int) + d).toNat
  modTime (fun x =>
    let y := setFull full x
    { y with
      boundary := boundaryAfter y.period y.phase full
      second := secondAfter full
      track0 := { y.track0 with offset := y.track0.offset - d }
      track1 := { y.track1 with offset := y.track1.offset - d } }) c

/-- The tracker chosen when one becomes VALID (09 R270, R281). -/
def validTracker (p : Part) (c : Ctl) : Option Nat :=
  let v0 := decide (c.time.track0.status = 2)
  let v1 := decide (c.time.track1.status = 2)
  if v0 && v1 then some (effVal p c 0x2200 0xE) else if v0 then some 0 else if v1 then some 1 else none

/-- One transition of the table of 09 R272, if one applies. -/
def timeMove (p : Part) (c : Ctl) : Option Ctl :=
  let sel := c.time.selected
  let selValid := decide (sel < 2) && decide ((getTr c sel).status = 2)
  let other := 1 - sel
  let otherValid := decide (sel < 2) && decide ((getTr c other).status = 2)
  match c.time.state with
  | 0 =>
    if sel ≥ 2 then (validTracker p c).map fun t => timeGoes p 0 t c
    else if !selValid then some (timeGoes p 0 (if otherValid then other else 255) c)
    else if odVal p c 0x2200 0xA = 0 then some (timeGoes p 2 sel c)
    else if !streamArmed c then some (timeGoes p 1 sel (timeStep sel c))
    else none
  | 3 => (validTracker p c).map fun t => timeGoes p 2 t c
  | st =>
    if !selValid then some (if otherValid then timeGoes p 2 other c else timeGoes p 3 sel c)
    else if st = 2 ∧ ((offsetNow c).natAbs : Int) ≤ lockedOffset then some (timeGoes p 1 sel c)
    else if st = 1 ∧ 65536000 < (offsetNow c).natAbs then some (timeGoes p 2 sel c)
    else none

/-- At most `n` transitions. -/
def timeMoves (p : Part) : Nat → Ctl → Ctl
  | 0, c => c
  | n + 1, c =>
    if (timeMove p c).isNone then c
    else
      let c0 := dueBoundary p c
      timeMoves p n ((timeMove p c0).getD c0)

/-- Transitions until none applies: at most four follow one another. -/
def timeSettle (p : Part) (c : Ctl) : Ctl := timeMoves p 4 c

/-! ## Network-time messages -/

/-- Value of a receive stamp: the captured one less PhyRxLatency of the MAC (09 R276). -/
def rxValue (p : Part) (c : Ctl) (mac : Nat) (rx : Word64) : Nat := (rx.toNat + 2 ^ 64 - effVal p c 0x2203 (mac + 1)) % 2 ^ 64

/-- Value of the transmit stamp of a message that is sent now: its start-of-frame delimiter follows after a free time, and
PhyTxLatency of the MAC is added (09 R276). -/
def txValue (p : Part) (c : Ctl) (mac : Nat) : Nat :=
  (now c + Config.sendDelay c.free % 2 ^ 47 + effVal p c 0x2204 (mac + 1)) % 2 ^ 64

/-- Domain time minus fusion time at the reception of a Sync (09 R271, R276): origin plus link delay, less
the receive stamp. -/
def syncOffset (p : Part) (c : Ctl) (t : Nat) (m : Gptp) : Int :=
  ((m.origin + (getTr c t).delay : Nat) : Int) - ((fullTime c.time : Int) + diff (rxValue p c m.mac m.rx) (now c))

/-- A change of grandmaster returns a tracker to SEARCHING (09 R271). -/
def noteGm (p : Part) (t gm : Nat) (c : Ctl) : Ctl :=
  let x := getTr c t
  if x.gm = gm then c
  else if x.gm = 0 then modTr t (fun y => { y with gm := gm }) c
  else bump p (0x2201 + t) 8 32 1 (modTr t (fun y => { y with gm := gm, good := 0, status := 1 }) c)

/-- A Sync is complete: offset, count of consecutive Syncs, state (09 R271). Its arrival is its receive stamp, also where a
Follow_Up completes it. -/
def syncDone (p : Part) (t : Nat) (m : Gptp) (c : Ctl) : Ctl :=
  let c1 := noteGm p t m.gm.toNat c
  let x := getTr c1 t
  let limit := odVal p c1 0x2200 0xD * 1000 * us
  let came := rxValue p c1 m.mac m.rx
  let chain := decide (0 < x.good) && decide (diff came x.lastSync ≤ (limit : Nat)) && decide (x.status ≠ 3)
  let good := if chain then min 4 (x.good + 1) else 1
  let off := syncOffset p c1 t m
  let c2 := modTr t (fun y =>
    { y with offset := off, good := good, lastSync := came, waiting := none,
             status := if good = 4 ∧ asCapable y then 2 else 1 }) c1
  let c3 := timeSettle p c2
  if c3.time.selected = t then servo p c3 else c3

/-- Trackers that a message of a MAC and domain concerns. -/
def trackersOf (p : Part) (c : Ctl) (mac domain : Nat) : List Nat :=
  [0, 1].filter fun t =>
    trOn p c t && macRuns p c mac && decide (effVal p c (0x2201 + t) 2 = mac) && decide (effVal p c (0x2201 + t) 1 = domain)

/-- Journal a network-time message (13 R382): the message as received (its bytes are no operand, so free
values, log 5), then OffsetNow, selected tracker and TimeState. -/
def recordTimeMsg (p : Part) (mac len : Nat) (c : Ctl) : Ctl :=
  if odVal p c 0x2310 1 = 0 then c
  else
    recordNow p 4 mac (tab len (fun i => Config.freeByte c.free i) ++ leBytes 8 (ofInt 64 (offsetNow c)) ++
      leBytes 1 c.time.selected ++ leBytes 1 c.time.state ++ leBytes 6 0) { c with free := c.free + 1 }

/-- SYNC_MESSAGE (09 R271): a two-step Sync waits for its Follow_Up. -/
def execSyncMessage (m : Gptp) (s : State) : Host.Outcome State Fault Refusal :=
  act s fun v c =>
    let l := trackersOf v.part c m.mac m.domain
    let c1 := l.foldl (fun c t =>
      if m.twoStep then modTr t (fun y => { y with waiting := some m }) c else syncDone v.part t m c) c
    if l.isEmpty then c else recordTimeMsg v.part m.mac 44 c1

/-- FOLLOW_UP (09 R268): completes the two-step Sync that waits, with the origin it carries. -/
def execFollowUp (m : Gptp) (s : State) : Host.Outcome State Fault Refusal :=
  act s fun v c =>
    let l := trackersOf v.part c m.mac m.domain
    let c1 := l.foldl (fun c t =>
      match (getTr c t).waiting with
      | some w => syncDone v.part t { w with origin := m.origin } c
      | none => c) c
    if l.isEmpty then c else recordTimeMsg v.part m.mac 76 c1

/-- ANNOUNCE (09 R268, R271): read for grandmasterIdentity and stepsRemoved, of which no rule makes further use (log 16). -/
def execAnnounce (mac domain : Nat) (gm : Word64) (steps : Nat) (s : State) : Host.Outcome State Fault Refusal :=
  act s fun v c =>
    let l := trackersOf v.part c mac domain
    let c1 := l.foldl (fun c t => modTr t (fun x => { x with steps := steps }) (noteGm v.part t gm.toNat c)) c
    if l.isEmpty then c else recordTimeMsg v.part mac 64 (timeSettle v.part c1)

/-- PDELAY_REQ_SEND (09 R268): once per second on each MAC in use; its transmit stamp is kept. -/
def execPdelayReqSend (mac : Nat) (s : State) : Host.Outcome State Fault Refusal :=
  act s fun v c =>
    if macRuns v.part c mac then
      emit (.pdelayReq mac) (modTime (fun t => { t with sent := stow 0 mac (txValue v.part c mac) t.sent }) { c with free := c.free + 1 })
    else c

/-- PDELAY_REQ_RECEIVED (09 R268, R276): answered with a two-step Pdelay_Resp, which carries the receive stamp, and a
Pdelay_Resp_Follow_Up with the transmit stamp of that answer. -/
def execPdelayReqReceived (mac : Nat) (rx : Word64) (s : State) : Host.Outcome State Fault Refusal :=
  act s fun v c =>
    if macRuns v.part c mac then
      emit (.pdelayFollowUp mac (BitVec.ofNat 64 (txValue v.part c mac)))
        (emit (.pdelayResp mac (BitVec.ofNat 64 (rxValue v.part c mac rx))) { c with free := c.free + 1 })
    else c

/-- The link delay of a completed exchange, none when it has failed or no Pdelay_Req is under way: half of the time between
the two stamps of the device less the responder's turn-around, which comes corrected for the neighbour's rate (09 R268,
R269, R276, log 27). -/
def exchangeDelay (p : Part) (c : Ctl) (mac : Nat) (x : Option (Nat × Word64)) : Option Nat :=
  match x, c.time.sent.find? fun e => decide (e.1 = mac) with
  | some (turn, rx), some e => some (((diff (rxValue p c mac rx) e.2 - turn).toNat) / 2)
  | _, _ => none

/-- What an exchange leaves of a tracker: asCapable and LinkDelay follow the last three (09 R269). -/
def noteDelay (delay : Option Nat) (x : Tracker) : Tracker :=
  let y := { x with delays := (x.delays ++ [delay]).drop (x.delays.length - 2) }
  let ok := y.delays.filterMap id
  let z := { y with delay := if ok.isEmpty then x.delay else sumN ok / ok.length }
  if x.status = 2 ∧ !asCapable z then { z with status := 3, good := 0 }
  else if x.status = 1 ∧ x.good = 4 ∧ asCapable z then { z with status := 2 } else z

/-- PDELAY_RESP_RECEIVED (09 R269): an exchange has completed, with the responder's turn-around and the captured receive
time, or has failed. -/
def execPdelayRespReceived (mac : Nat) (x : Option (Nat × Word64)) (s : State) : Host.Outcome State Fault Refusal :=
  act s fun v c =>
    let l := [0, 1].filter fun t => trOn v.part c t && macRuns v.part c mac && decide (effVal v.part c (0x2201 + t) 2 = mac)
    let d := exchangeDelay v.part c mac x
    let c1 := modTime (fun t => { t with sent := t.sent.filter fun e => decide (e.1 ≠ mac) }) c
    if macRuns v.part c mac then timeSettle v.part (l.foldl (fun c t => modTr t (noteDelay d) c) c1) else c

/-- Arrival of the last Sync of a tracker, complete or not: its receive stamp. -/
def lastArrival (p : Part) (c : Ctl) (t : Nat) : Nat :=
  match (getTr c t).waiting with
  | some m => rxValue p c m.mac m.rx
  | none => (getTr c t).lastSync

/-- SYNC_LOSS_TIMEOUT (09 R271): no Sync of the tracker for SyncLossTimeout, while its MAC runs. -/
def execSyncLossTimeout (t : Nat) (s : State) : Host.Outcome State Fault Refusal :=
  act s fun v c =>
    let x := getTr c t
    let last := lastArrival v.part c t
    if t < 2 ∧ (x.status = 2 ∨ x.status = 1) ∧ macRuns v.part c (effVal v.part c (0x2201 + t) 2) then
      timeSettle v.part (modTr t (fun y => { y with status := 3, good := 0, waiting := none })
        (if last = 0 then c else modTime (reach ((last + odVal v.part c 0x2200 0xD * 1000 * us) % 2 ^ 64)) c))
    else c

/-- While a tracker's MAC is disabled, the tracker stays SEARCHING (09 R269). -/
def searchAgain (p : Part) (c : Ctl) : Ctl :=
  [0, 1].foldl (fun c t =>
    if (getTr c t).status ≠ 0 ∧ !macRuns p c (effVal p c (0x2201 + t) 2) then
      modTr t (fun x => { x with status := 1, good := 0, waiting := none }) c
    else c) c

/-- VALUE_WRAP (09 R259): the value wraps to 0 and the epoch increases. -/
def execValueWrap (s : State) : Host.Outcome State Fault Refusal :=
  act s fun _ c => if c.boot.started then modTime (fun t => reachFull ((t.epoch + 1) * 2 ^ 64) t) c else c

/-! ## PPS (09 R278, R280) -/

/-- PPS_IN_EDGE (09 R278): counted and journalled; stamped unless it follows the last stamped edge by less
than 100 ms. Served from the setup state onwards (17 R484). -/
def execPpsInEdge (raw : Word64) (s : State) : Host.Outcome State Fault Refusal :=
  act s fun v c =>
    let p := v.part
    if !regionsServed c then c
    else
      let st := (raw.toNat + 2 ^ 64 - effVal p c 0x2206 3) % 2 ^ 64
      let ep := ((fullTime c.time : Int) + diff st (now c)).toNat / 2 ^ 64
      let first := decide (odVal p c 0x2206 6 = 0)
      let c1 := bump p 0x2206 6 32 1 c
      let c2 := if first ∨ 100000 * (us : Int) ≤ diff st (odVal p c 0x2206 4) then
          odSet p 0x2206 4 st (odSet p 0x2206 5 ep c1) else c1
      record p 5 0 st ep [] c2

/-- PPS_OUT_EDGE (09 R280): in mode 1 fusion time reaches the next whole second, once each. In mode 2 the edge is the frame
boundary's own (`emitBoundary`), and in mode 0 the pin is held low: then nothing more happens. -/
def execPpsOutEdge (s : State) : Host.Outcome State Fault Refusal :=
  act s fun v c =>
    if odVal v.part c 0x2206 1 = 1 ∧ c.boot.started then
      ppsRise (ppsWidth v.part c)
        (modTime (fun t => { t with second := secondAfter t.second }) (modTime (reachFull c.time.second) c))
    else c

/-- PPS_OUT_RETURN_LOW (09 R280): PpsOutWidth after the edge. -/
def execPpsOutReturnLow (s : State) : Host.Outcome State Fault Refusal :=
  act s fun _ c => match c.time.ppsFall with
    | some f => emit (.pps false) (modTime (fun t => { reach f t with pps := false, ppsFall := none }) c)
    | none => c

end Sys2Proof.Machine
end

