-- ==== Sys2Proof/Machine/FaultRows.lean ====
section
/-! DEFINITION. What moves fault records and acts on them (15 R432-R442), scrubs (12 R345, R347, R363), DRAM
refresh (12 R358, R364, R366) and taint (15 R446, R447). -/

namespace Sys2Proof.Machine

/-- The isle collector takes a record of one of its blocks; it fences the block at once for a second
class-1 record while another is OPEN and for a collector overflow (15 R441). With the isle itself fenced,
the action is superseded (01 R18). -/
def isleTakes (p : Part) (b : Nat) (r : Rec) (c : Ctl) : Ctl :=
  if !fencesBlock c b r then toIsle p (b / 4) r c
  else if fencedUnit c (32 + b / 4) then toIsle p (b / 4) { r with superseded := true } c
  else
    let hit := (allCmds c).filterMap fun e =>
      if unitOfDesc e.2.desc = b ∧ e.2.status = 0 ∧ (e.2.stage = .dispatched ∨ e.2.stage = .executed) then
        some (⟨e.1, e.2.idx⟩ : Ref) else none
    fence p b none (toIsle p (b / 4) { r with halts := r.halts ++ hit } c)

/-- A record whose collector entry is found uncorrected: a MECH 25 record takes its place (15 R436, log 112). -/
def spoilt (unit : Nat) (r : Rec) : Rec := { mech := 25, unit := unit, halts := r.halts }

/-- A collector forwards its oldest record (15 R432); a block collector's overflow goes first (15 R433). -/
def forward (k : Collector) (bad : Bool) (v : View) (c : Ctl) : Ctl :=
  let take := fun (b : Nat) (r : Rec) => if bad then raise v.part (spoilt b r) else isleTakes v.part b r
  match k with
  | .block b =>
    (match (look {} b c.faults.blocks).overflow, (look {} b c.faults.blocks).recs with
     | some r, _ => take b r
        (modFaults (fun f => { f with blocks := tweak {} b (fun x => { x with overflow := none }) f.blocks }) c)
     | none, r :: rest => take b r
        (modFaults (fun f => { f with blocks := tweak {} b (fun x => { x with recs := rest }) f.blocks }) c)
     | none, [] => c)
  | .isle i =>
    (match (look {} i c.faults.isles).recs with
     | r :: rest => (if bad then raise v.part (spoilt (32 + i) r) else toInbox r)
        (modFaults (fun f => { f with isles := tweak {} i (fun x => { x with recs := rest }) f.isles }) c)
     | [] => c)

/-- FAULT_RECORD_FORWARDED (15 R432). -/
def execFaultRecordForwarded (k : Collector) (bad : Bool) (s : State) : Host.Outcome State Fault Refusal :=
  act s (forward k bad)

/-- A stopped unit's oldest record enters a collector of `cap` entries that has room again (15 R433). -/
def Coll.enter (cap : Nat) (x : Coll) : Coll :=
  match x.waiting with
  | r :: rest => if x.recs.length < cap then { x with recs := x.recs ++ [r], waiting := rest } else x
  | [] => x

/-- A collector has room; a unit goes on once none of its records waits. -/
def room (k : Collector) (_v : View) (c : Ctl) : Ctl :=
  match k with
  | .block b => modFaults (fun f => { f with blocks := tweak {} b (Coll.enter 32) f.blocks }) c
  | .isle i => modFaults (fun f => { f with isles := tweak {} i (Coll.enter 64) f.isles }) c

/-- COLLECTOR_ROOM (15 R433). -/
def execCollectorRoom (k : Collector) (s : State) : Host.Outcome State Fault Refusal := act s (room k)

/-- FAULT_RECORD_LOGGED (15 R434): the chip collector logs its oldest record. -/
def execFaultRecordLogged (bad : Bool) (s : State) : Host.Outcome State Fault Refusal :=
  act s fun v c => match c.faults.inbox with
    | r :: rest => logRecord v.part (if bad then { spoilt 255 r with at_ := now c } else r)
        (modFaults (fun f => { f with inbox := rest }) c)
    | [] => c

/-- What the chip collector does when a timer expires (15 R436). -/
inductive Action where
  | fenceUnit (u : Nat)
  | safe
  | close
  deriving DecidableEq, Repr

/-- The action of a mechanism on a unit. -/
def actionOf (m u : Nat) : Action :=
  if m = 8 then .close
  else if actsSafe m u then .safe
  else if u ≤ 0x2C then .fenceUnit u
  else .close

/-- The timer of record `index` expires (15 R440); in debug hold the action waits (15 R452). -/
def expire (index : Nat) (v : View) (c : Ctl) : Ctl :=
  let p := v.part
  match (allLogged c).find? fun l => decide (l.index = index) with
  | none => c
  | some l =>
    match l.timer with
    | none => c
    | some t =>
      if l.state ≠ .opened ∨ c.safety.mode ≠ .inService then c
      else
        let c1 := bump p 0x2800 0xE 32 1 (modTime (reach t) c)
        let set := fun (st : RecState) (c : Ctl) =>
          mapLog (fun x => if x.index = index then { x with state := st, timer := none } else x) c
        match actionOf l.rec_.mech l.rec_.unit with
        | .close => set .closed c1
        | .fenceUnit u => fence p u (some index) (set .escalated c1)
        | .safe => enterSafe p 1 index (set .escalated c1)

/-- ESCALATION_TIMER_EXPIRY (15 R440). -/
def execEscalationTimerExpiry (index : Nat) (s : State) : Host.Outcome State Fault Refusal := act s (expire index)

/-- Clear record `index` (15 R440, R442): an OPEN or ESCALATED record becomes CLEARED, and a block that its
command halted goes on. -/
def clearFault (index : Nat) (c : Ctl) : Ctl :=
  match (allLogged c).find? fun l => decide (l.index = index) with
  | none => c
  | some l =>
    if !isUncleared l then c
    else
      let c1 := mapLog (fun x => if x.index = index then { x with state := .cleared, timer := none } else x) c
      let u := l.rec_.unit
      if u < 32 ∧ !fencedUnit c u ∧ ((getB c u).haltedBy.map fun r => l.rec_.halts.contains r) = some true then
        modB u (fun b => { b with halted := false, haltedBy := none }) c1
      else c1

/-! ## Taint (15 R446, R447) -/

/-- A fault was found in a unit: TAINT messages for each client of its tracker in ascending order, which is
then emptied. -/
def sendTaint (p : Part) (u index : Nat) (c : Ctl) : Ctl :=
  let t := look {} u c.faults.taint
  let msg := fun (cl first last n : Nat) (c : Ctl) =>
    sendMsg p 0 0x11 (leBytes 4 index ++ leBytes 1 cl ++ leBytes 1 u ++ leBytes 1 (b2n t.overflow) ++ leBytes 1 0 ++
      leBytes 8 first ++ leBytes 8 last ++ leBytes 8 t.clean ++ leBytes 8 (now c) ++ leBytes 4 n) c
  let sorted := (List.range 256).filterMap fun cl => t.entries.find? fun e => decide (e.1 = cl)
  let c1 := sorted.foldl (fun c e => msg e.1 e.2.1 e.2.2.1 e.2.2.2 c) c
  let c2 := if t.overflow ∧ t.entries.isEmpty then msg 0 0 0 0 c1 else c1
  modFaults (fun f => { f with taint := stow {} u { t with entries := [], overflow := false } f.taint }) c2

/-- A clean check empties a tracker (15 R446). -/
def cleanCheck (u : Nat) (c : Ctl) : Ctl :=
  modFaults (fun f => { f with taint := stow {} u { entries := [], overflow := false, clean := now c } f.taint }) c

/-! ## Scrubs (12 R345, R347, R363, R535) -/

/-- A scrub's read of a word of unit `unit`, sub-unit `sub`: what it finds, or what an injection makes of it; a word
already poisoned is passed over (12 R535, 15 R448). `found bad injected` counts and records. -/
def scrubbed (v : View) (addr : Nat) (f : Found) (ms : List Nat) (unit sub : Nat) (found : Bool → Bool → Ctl → Ctl)
    (c : Ctl) : Ctl :=
  if poisonedIn v.mems addr 1 then c
  else if injected c ms unit && decide (c.faults.injSub = sub) then
    found (decide (c.faults.injKind = 1)) true (useInjection c)
  else match f with
    | .clean => c
    | .corrected => found false false c
    | .uncorrected => found true false c

/-- SCRATCH_SCRUB (12 R345): one unit of a bank; an uncorrected word is poisoned and halts nothing
(01 R17). -/
def execScratchScrub (block unit word : Nat) (f : Found) (s : State) : Host.Outcome State Fault Refusal :=
  act s fun v c =>
    let a := scratchBase block + 64 * unit + 8 * word
    if hasBlock v.part block ∧ pdOn c (blockDomain block) ∧ unit < 32768 ∧ word < 8 then
      scrubbed v a f [3, 4] block (unit % 16) (fun bad inj c => scratchFound v.part none bad a inj c) c
    else c

/-- LAGOON_SCRUB (12 R347). -/
def execLagoonScrub (isle line word : Nat) (f : Found) (s : State) : Host.Outcome State Fault Refusal :=
  act s fun v c =>
    let a := lagoonBase isle + 1024 * line + 8 * word
    if isle < isles v.part ∧ pdOn c (lagoonDomain isle) ∧ line < 8192 ∧ word < 128 then
      scrubbed v a f [5, 6] (32 + isle) (word / 32) (fun bad inj c => lagoonFound v.part bad a inj c) c
    else c

/-- DRAM_PATROL_SCRUB (12 R363). -/
def execDramPatrolScrub (unit : Nat) (f : Found) (s : State) : Host.Outcome State Fault Refusal :=
  act s fun v c =>
    if 64 * unit + 64 ≤ usableBytes v.part c ∧ pdOn c (46 + halfOf unit) then
      scrubbed v (64 * unit) f [7, 8] (0x32 + halfOf unit) (chanOf v.part c unit)
        (fun bad inj c => dramFound v.part bad (64 * unit) inj c) (modTraffic (readUnit v.part c none unit) c)
    else c

/-! ## DRAM refresh and activates (12 R358, R364, R366) -/

/-- DRAM_REFRESH (12 R366): a due per-bank refresh is issued; it is postponed only while a read of urgency
3 or 4 waits for the bank. -/
def execDramRefresh (half chan bank : Nat) (urgent : Bool) (s : State) : Host.Outcome State Fault Refusal :=
  act s fun _ c =>
    let k := bankKey half chan bank
    if half < 2 ∧ chan < 12 ∧ bank < 16 ∧ pdOn c (46 + half) then
      if urgent then { c with dram := { c.dram with due := tweak 0 k (· + 1) c.dram.due } }
      else { c with dram := { c.dram with
              refreshed := tweak 0 k (fun n => n + 1 + look 0 k c.dram.due) c.dram.refreshed
              due := stow 0 k 0 c.dram.due } }
    else c

/-- MR4_POLL (12 R358): the refresh rate follows the temperature readout of a channel. -/
def execMr4Poll (half chan code : Nat) (s : State) : Host.Outcome State Fault Refusal :=
  act s fun _ c =>
    if half < 2 ∧ chan < 12 ∧ pdOn c (46 + half) then
      { c with dram := { c.dram with rate := stow 0 (half * 12 + chan) (code % 32) c.dram.rate } }
    else c

/-- ACTIVATE_TABLE_CLEAR (12 R364): every table is cleared at the end of a refresh window. -/
def execActivateTableClear (s : State) : Host.Outcome State Fault Refusal :=
  act s fun _ c => { c with traffic := { c.traffic with tables := [] } }

end Sys2Proof.Machine
end

