-- ==== Sys2Proof/Machine/Crypto.lean ====
section
/-! DEFINITION. Signature checks by ECDSA on P-521 (17 R486, R493), CBOR and the signed structures of 15 R450, and the
commands of the crypto engine (17 R493, R494, 15 R449-R451). -/

namespace Sys2Proof.Machine

/-! ## ECDSA on P-521 -/

/-- The field prime. -/
def p521 : Nat := 2 ^ 521 - 1

/-- The order of the base point. -/
def order521 : Nat :=
  0x01fffffffffffffffffffffffffffffffffffffffffffffffffffffffffffffffffa51868783bf2f966b7fcc0148f709a5d03bb5c9b8899c47aebb6fb71e91386409

/-- The coefficient b of y² = x³ - 3x + b. -/
def b521 : Nat :=
  0x0051953eb9618e1c9a1f929a21a0b68540eea2da725b99b315f3b8b489918ef109e156193951ec7e937b1652c0bd3bb1bf073573df883d2c34f1ef451fd46b503f00

/-- The base point. -/
def base521 : Nat × Nat :=
  (0x00c6858e06b70404e9cd9e3ecb662395b4429c648139053fb521f828af606b4d3dbaa14b5e77efe75928fe1dc127a2ffa8de3348b3c1856a429bf97e7e31c2e5bd66,
   0x011839296a789a3bc0045c8a5fb42c7d1bd998f54449579b446817afbd17273e662c97ee72995ef42640c550b9013fad0761353c7086a272c24088be94769fd16650)

/-- b^e mod m over the 521 bits of e. -/
def powMod (m b e : Nat) : Nat :=
  ((List.range 521).foldl (fun (x : Nat × Nat) i => (if e.testBit i then x.1 * x.2 % m else x.1, x.2 * x.2 % m)) (1, b % m)).1

/-- Inverse modulo a prime. -/
def invMod (m a : Nat) : Nat := powMod m a (m - 2)

/-- A point of the curve; none is the point at infinity. -/
abbrev Point := Option (Nat × Nat)

/-- Third point of the line through two points, mirrored. -/
def addPoint (a b : Point) : Point :=
  match a, b with
  | none, q => q
  | q, none => q
  | some (x, y), some (u, w) =>
    if x = u ∧ (y + w) % p521 = 0 then none
    else
      let s := if x = u then (3 * x * x + 3 * (p521 - 1)) * invMod p521 (2 * y) % p521
        else (w + p521 - y) * invMod p521 (u + p521 - x) % p521
      let t := (s * s + 2 * p521 - x - u) % p521
      some (t, (s * (x + p521 - t) + p521 - y) % p521)

/-- k times a point. -/
def mulPoint (k : Nat) (q : Point) : Point :=
  ((List.range 521).foldl (fun (x : Point × Point) i => (if k.testBit i then addPoint x.1 x.2 else x.1, addPoint x.2 x.2)) (none, q)).1

/-- The point of a public key in uncompressed SEC 1 form, if it is one. -/
def keyPoint (key : List Byte) : Option (Nat × Nat) :=
  let x := ofBE ((key.drop 1).take 66)
  let y := ofBE ((key.drop 67).take 66)
  if key.length = 133 ∧ key.head? = some 4 ∧ x < p521 ∧ y < p521 ∧ (y * y) % p521 = (x * x * x + 3 * (p521 - x) + b521) % p521
  then some (x, y) else none

/-- An ECDSA signature (r then s, 66 bytes each, big-endian) over a SHA-512 digest is valid. -/
def ecdsaOk (key digest sig : List Byte) : Bool :=
  match keyPoint key with
  | none => false
  | some q =>
    let r := ofBE (sig.take 66)
    let s := ofBE ((sig.drop 66).take 66)
    if sig.length = 132 ∧ 1 ≤ r ∧ r < order521 ∧ 1 ≤ s ∧ s < order521 then
      let w := invMod order521 s
      let u := ofBE digest * w % order521
      match addPoint (mulPoint u (some base521)) (mulPoint (r * w % order521) (some q)) with
      | none => false
      | some x => decide (x.1 % order521 = r)
    else false

/-! ## CBOR (RFC 8949, core deterministic encoding: 15 R450) -/

/-- Head of an item of major type `m` with argument `n`, in the shortest form. -/
def cborHead (m n : Nat) : List Byte :=
  if n < 24 then leBytes 1 (32 * m + n)
  else if n < 2 ^ 8 then leBytes 1 (32 * m + 24) ++ beBytes 1 n
  else if n < 2 ^ 16 then leBytes 1 (32 * m + 25) ++ beBytes 2 n
  else if n < 2 ^ 32 then leBytes 1 (32 * m + 26) ++ beBytes 4 n
  else leBytes 1 (32 * m + 27) ++ beBytes 8 n

/-- An integer. -/
def cborInt (i : Int) : List Byte := if 0 ≤ i then cborHead 0 i.toNat else cborHead 1 (-1 - i).toNat
/-- A natural number. -/
def cborNat (n : Nat) : List Byte := cborHead 0 n
/-- A byte string. -/
def cborBytes (bs : List Byte) : List Byte := cborHead 2 bs.length ++ bs
/-- An array of encoded items. -/
def cborArray (l : List (List Byte)) : List Byte := cborHead 4 l.length ++ l.flatten
/-- A map from 1, 2, 3, … to encoded items. -/
def cborMap (l : List (List Byte)) : List Byte :=
  cborHead 5 l.length ++ (l.zipIdx.flatMap fun e => cborNat (e.2 + 1) ++ e.1)
/-- A truth value. -/
def cborBool (b : Bool) : List Byte := leBytes 1 (if b then 0xF5 else 0xF4)
/-- null. -/
def cborNull : List Byte := leBytes 1 0xF6

/-- Protected header: the map 1 → -36, 3 → 60. -/
def coseProtected : List Byte := cborHead 5 2 ++ cborNat 1 ++ cborInt (-36) ++ cborNat 3 ++ cborNat 60

/-- "Signature1" as a text string. -/
def coseContext : List Byte :=
  cborHead 3 10 ++ leBytes 10 0x3165727574616e676953

/-- The Sig_structure over which the identity key signs. -/
def coseToSign (payload : List Byte) : List Byte :=
  cborArray [coseContext, cborBytes coseProtected, cborBytes [], cborBytes payload]

/-- A COSE_Sign1 structure with the part's signature, a free value (log 12); `n` numbers the signing. -/
def coseSign1 (p : Part) (n : Nat) (payload : List Byte) : List Byte :=
  cborHead 6 18 ++ cborArray [cborBytes coseProtected,
    cborHead 5 1 ++ cborNat 4 ++ cborBytes ((sha512 p.identityPub).take 16),
    cborBytes payload, cborBytes (tab 132 fun i => Config.identitySign n (coseToSign payload) i)]

/-! ## CRY commands (17 R493) -/

/-- Run a command of the crypto engine: its numeric fields, its extents (the ones it writes second), its check
on the buffer size, and its effect. -/
def cry (op : Nat) (r : Ref) (u : Upset) (fields : Desc → List NumField) (reads writes : Desc → List (Nat × Nat)) (small : Desc → Bool)
    (f : View → Desc → Ctl → Ctl) (v : View) (c : Ctl) : Ctl :=
  match ready c r 6 op with
  | none => c
  | some m =>
    let p := v.part
    let d := m.desc
    let c0 := noteClamp p (anyClamped d (fields d)) c
    if (reads d ++ writes d).any (fun s => !inDevice p c s.1 s.2) then invalid p r 5 c0
    else if (reads d ++ writes d).any (spanOff m.off) then invalid p r 6 c0
    else if small d then invalid p r 7 c0
    else engineRun v r 0x2E 12 u (reads d) (undefSpans (writes d)) (fun c => executed p r 0 (f v d c)) c0

/-- SRC_BYTES of HASH and VERIFY. -/
def crySrc : NumField := (128, 32, 1, 0xFFFFFFFF)
/-- SRC_BYTES of ATTEST: the nonce. -/
def cryNonce : NumField := (128, 32, 0, 64)

/-- What a command of the crypto engine reads: its source or nonce, and the key and signature to verify. -/
def cryReads (d : Desc) : List (Nat × Nat) :=
  match dOp d with
  | 0 => [(64 * fld d 64 48, numF d crySrc)]
  | 1 => [(64 * fld d 64 48, numF d crySrc), (64 * fld d 256 48, 265)]
  | _ => [(64 * fld d 64 48, numF d cryNonce)]

/-- What a command of the crypto engine writes. -/
def cryWrites (d : Desc) : List (Nat × Nat) :=
  [(64 * fld d 160 48, match dOp d with
    | 0 => 64
    | 1 => 1
    | _ => fld d 224 32)]

/-- CRY_HASH (17 R493). -/
def execCryHash (r : Ref) (u : Upset) (s : State) : Host.Outcome State Fault Refusal :=
  act s (cry 0 r u (fun _ => [crySrc]) cryReads cryWrites
    (fun _ => false)
    (fun v d c => post (.dev (64 * fld d 160 48) (sha512 (devBytes v.mems (64 * fld d 64 48) (numF d crySrc)))) c))

/-- CRY_VERIFY (17 R493). -/
def execCryVerify (r : Ref) (u : Upset) (s : State) : Host.Outcome State Fault Refusal :=
  act s (cry 1 r u (fun _ => [crySrc]) cryReads cryWrites (fun _ => false)
    (fun v d c =>
      let k := devBytes v.mems (64 * fld d 256 48) 265
      let ok := ecdsaOk (k.take 133) (sha512 (devBytes v.mems (64 * fld d 64 48) (numF d crySrc))) (k.drop 133)
      post (.dev (64 * fld d 160 48) (leBytes 1 (b2n ok))) c))

/-- The payload map of an attestation report (17 R494). -/
def attestPayload (v : View) (nonce : List Byte) (c : Ctl) : List Byte :=
  let p := v.part
  let b := c.boot
  cborMap [cborNat 1, cborNat (variantCode p), cborNat (unitPresence p), cborNat p.arithLevel, cborNat b.build,
    cborBytes b.digest, cborNat b.svn, cborNat v.fuses.rollback, cborNat v.fuses.keyRevoked, cborNat b.keySlot,
    cborBool b.sealed, cborBool b.testActive, cborBool c.safety.splitActive, cborNat (odVal p c 0x2600 1),
    cborNat (odVal p c 0x2600 2), cborNat (now c), cborNat c.time.epoch, cborBytes nonce, cborNat p.serial,
    cborNat (odVal p c 0x2700 3)]

/-- Write a report: its length, then the report from byte 64 (17 R494). -/
def attest (v : View) (d : Desc) (c : Ctl) : Ctl :=
  let a := 64 * fld d 160 48
  let rep := coseSign1 v.part c.free (attestPayload v (devBytes v.mems (64 * fld d 64 48) (numF d cryNonce)) c)
  postAll [.dev a (leBytes 4 rep.length), .dev (a + 64) rep] { c with free := c.free + 1 }

/-- CRY_ATTEST (17 R494). -/
def execCryAttest (r : Ref) (u : Upset) (s : State) : Host.Outcome State Fault Refusal :=
  act s (cry 2 r u (fun _ => [cryNonce]) cryReads cryWrites (fun d => decide (fld d 224 32 < 1024)) attest)

/-! ## The fleet signature (15 R449-R451) -/

/-- A record map of the payload (15 R451). -/
def fleetRecord (arch : Nat) (l : Logged) : List Byte :=
  let r := l.rec_
  let opt : Nat → List Byte := fun x => if x = 15 then cborNull else cborNat x
  cborMap [cborNat l.index, cborNat l.cls, cborNat r.mech, cborNat r.unit,
    cborArray [cborNat arch, opt (unitIsle r.unit), opt (unitBlock r.unit),
      match r.cell with
      | some x => cborNat x
      | none => cborNull],
    cborNat r.sub,
    (match r.op with
     | some (_, _, code, cls, _) => cborArray [cborNat cls, cborNat code]
     | none => cborNull),
    cborNat l.time, cborInt l.temp, cborArray [cborNat l.vCore, cborNat l.vArray, cborNat l.vMem], cborNat r.count,
    cborNat (recStateCode l.state), cborBool r.injected, cborBool r.spare]

/-- The payload of a fleet signature. -/
def fleetPayload (p : Part) (c : Ctl) (first count mask : Nat) : List Byte :=
  let rs := (heldRecs c).filter fun l => decide (first ≤ l.index) && decide (l.index < first + count) && mask.testBit l.cls
  cborMap [cborNat 1, cborNat (variantCode p), cborNat p.arithLevel, cborNat c.boot.build, cborNat (now c),
    cborNat c.time.epoch, cborNat first, cborArray (rs.map (fleetRecord (effVal p c 0x2900 1)))]

/-- FLEET_EXPORT_DONE (15 R449): the signature stands at FleetAddr, FleetStatus is DONE and FleetSync gains 1. -/
def execFleetExportDone (s : State) : Host.Outcome State Fault Refusal :=
  act s fun v c =>
    match c.fleet with
    | [a, _, first, count, mask, sync] =>
      let p := v.part
      let sig := coseSign1 p c.free (fleetPayload p c first count mask)
      settle p (signal p sync 1 (odSet p 0x2890 8 2 (odSet p 0x2890 9 sig.length
        (post (.dev a sig) { c with free := c.free + 1, fleet := [] }))))
    | _ => c

end Sys2Proof.Machine
end

