-- ==== Sys2Proof/Machine/Causeway.lean ====
section
/-! DEFINITION. Causeways (16 R468-R475): ports, the harbour, messages and their forwarding, transmission
channels, twin pairing; and the archipelago start barrier (13 R388-R391). -/

namespace Sys2Proof.Machine

/-! ## Ports -/

/-- The port may train: present, enabled, powered, and the device has left the setup state (17 R484,
R495). -/
def mayTrain (p : Part) (c : Ctl) (k : Nat) : Bool :=
  hasCw p k && decide (effVal p c 0x2903 (k + 1) = 1) && decide (c.boot.stage = .service) && pdOn c 44

/-- The port is UP. -/
def cwUp (c : Ctl) (k : Nat) : Bool := decide ((getCw c k).state = 2)

/-- Neighbours exchange link-state flits at a change of port state (16 R475). -/
def sendLinkState (p : Part) (c : Ctl) : Ctl :=
  (List.range 4).foldl (fun c k => if cwUp c k then emit (.linkState k (selfMember p c :: allMembers p c)) c else c) c

/-- A port settles in a new state: link-state flits and the choice of the harbour follow. -/
def portSettles (p : Part) (c : Ctl) : Ctl := electHarbour p (sendLinkState p c)

/-- A port that was UP or held as a duplicate is lost (16 R468, R480): counted, and it retrains when it may. -/
def portLost (p : Part) (k : Nat) (c : Ctl) : Ctl :=
  let was := decide (2 ≤ (getCw c k).state)
  let c1 := modCw k (fun _ => { state := if mayTrain p c k then 1 else 0 }) c
  portSettles p (if was then bump p 0x2905 (k + 1) 32 1 c1 else c1)

/-- Every port goes to electrical idle (17 R496). -/
def idlePorts (p : Part) (c : Ctl) : Ctl := electHarbour p (modLinks (fun l => { l with cw := [] }) c)

/-- The ports that may train begin to (17 R495, R503). -/
def trainPorts (p : Part) (c : Ctl) : Ctl :=
  (List.range 4).foldl (fun c k => if mayTrain p c k ∧ (getCw c k).state = 0 then modCw k (fun x => { x with state := 1 }) c else c) c

/-- Pairing begins when causeway 0 first comes UP while TwinEnable is 1 (16 R473). -/
def beginPairing (p : Part) (c : Ctl) : Ctl :=
  if c.links.twin.paired ∨ effVal p c 0x2908 1 ≠ 1 ∨ !cwUp c 0 then c
  else modLinks (fun l => { l with twin := { paired := true, role := effVal p c 0x2908 2 } }) c

/-- The neighbour reports itself: UP, or DUPLICATE_ID when it has this device's ArchId (16 R475). -/
def neighbour (p : Part) (k : Nat) (peer : Member) (members : List Member) (c : Ctl) : Ctl :=
  beginPairing p (portSettles p (modCw k (fun _ =>
    { state := if peer.id = archId p c then 3 else 2, peer := some peer, members := members }) c))

/-- CW_TRAINING_DONE (16 R468). -/
def execCwTrainingDone (port : Nat) (peer : Member) (s : State) : Host.Outcome State Fault Refusal :=
  act s fun v c => if mayTrain v.part c port ∧ (getCw c port).state = 1 then neighbour v.part port peer [] c else c

/-- LINK_STATE_FLIT (16 R475). -/
def execLinkStateFlit (port : Nat) (peer : Member) (members : List Member) (s : State) : Host.Outcome State Fault Refusal :=
  act s fun v c => if 2 ≤ (getCw c port).state then neighbour v.part port peer members c else c

/-- CW_PORT_LOSS (16 R468). -/
def execCwPortLoss (port : Nat) (s : State) : Host.Outcome State Fault Refusal :=
  act s fun v c => if 2 ≤ (getCw c port).state then portLost v.part port c else c

/-- CW_FLIT_CRC_FAIL (16 R468): the flit is replayed and counted; after 8 failed replays the port goes DOWN
and retrains. -/
def execCwFlitCrcFail (port : Nat) (s : State) : Host.Outcome State Fault Refusal :=
  act s fun v c =>
    if (getCw c port).state < 2 then c
    else if 8 ≤ (getCw c port).fails then portLost v.part port c
    else bump v.part 0x2904 (port + 1) 64 1 (modCw port (fun x => { x with fails := x.fails + 1 }) c)

/-! ## Messages (16 R467, R469, R470) -/

/-- Port toward causeway ID `d`: 0 to 3 where it is UP. -/
def routeUp (p : Part) (c : Ctl) (d : Nat) : Option Nat :=
  let k := effVal p c 0x2901 (d % 16 + 1)
  if k < 4 ∧ cwUp c k then some k else none

/-- The receive slot header and payload (16 R467). -/
def rxSlot (len src txCh time : Nat) (pay : List Byte) : List Byte :=
  leBytes 4 len ++ leBytes 4 (src % 16 + 16 * (txCh % 32)) ++ leBytes 8 time ++ List.replicate 48 0 ++ pay

/-- The last flit of a message has come: it fills the next slot of its receive channel, or is dropped. -/
def deliverMessage (p : Part) (f : Flit) (pay : List Byte) (c : Ctl) : Ctl :=
  let i := 0x2940 + f.rxCh % 32
  let size := 64 * effVal p c i 4
  let n := look 0 (f.rxCh % 32) c.links.rxNext
  if effVal p c i 1 ≠ 1 ∨ size < 64 + pay.length then bump p i 7 64 1 c
  else
    settle p (signal p (effVal p c i 5) 1 (bump p i 6 64 1
      (post (.dev (64 * effVal p c i 2 + size * n) (rxSlot pay.length f.src f.txCh (now c) pay))
        (modLinks (fun l => { l with rxNext := stow 0 (f.rxCh % 32) ((n + 1) % effVal p c i 3) l.rxNext }) c))))

/-- A message flit for this device joins its message. -/
def takeFlit (p : Part) (f : Flit) (c : Ctl) : Ctl :=
  let key := (f.src % 16 * 32 + f.txCh % 32) * 32 + f.rxCh % 32
  let old := look {} key c.links.rx
  let pay := if f.first then f.payload else old.got ++ f.payload
  if !f.first ∧ old.msg ≠ f.msgSeq + 1 then c
  else if f.last then deliverMessage p f pay (modLinks (fun l => { l with rx := stow {} key {} l.rx }) c)
  else modLinks (fun l => { l with rx := stow {} key { msg := f.msgSeq + 1, got := pay } l.rx }) c

/-- A message flit for another device is forwarded, or dropped and counted (16 R470). -/
def forwardFlit (p : Part) (f : Flit) (c : Ctl) : Ctl :=
  match routeUp p c f.dest with
  | some k => if f.hops = 15 then bump p 0x2906 1 64 1 c else emit (.flit k { f with hops := f.hops + 1 }) c
  | none => bump p 0x2906 1 64 1 c

/-- CW_FLIT_RECEIVED (16 R470). -/
def execCwFlitReceived (port : Nat) (f : Flit) (s : State) : Host.Outcome State Fault Refusal :=
  act s fun v c =>
    if !cwUp c port then c
    else
      let c1 := modCw port (fun x => { x with fails := 0 }) c
      if f.dest = archId v.part c then takeFlit v.part f c1 else forwardFlit v.part f c1

/-! ## Transmissions (16 R464-R466) -/

/-- MacLinkState of MAC `m` (16 R480). -/
def macIsUp (p : Part) (c : Ctl) (m : Nat) : Bool := macRuns p c m && look false m c.links.macUp

/-- The flits of a message. -/
def flitsOf (p : Part) (c : Ctl) (chan target seq : Nat) (pay : List Byte) : List Flit :=
  let l := chunks 240 (max 1 (cdiv pay.length 240)) pay
  l.mapIdx fun i x =>
    { dest := bitsN target 4 4, src := archId p c, hops := 0, rxCh := bitsN target 8 5, txCh := chan, first := decide (i = 0), last := decide (i + 1 = l.length), msgSeq := seq % 65536, payload := x }

/-- Whether a channel's next transmission can be sent now (16 R466). -/
def canSend (p : Part) (c : Ctl) (chan : Nat) : Bool :=
  let t := effVal p c (0x2920 + chan) 1
  (!t.testBit 14 || decide (c.links.twin.role = 1)) &&
    (if t.testBit 3 then (routeUp p c (bitsN t 4 4)).isSome else macIsUp p c (bitsN t 0 3))

/-- Exports go on in service and, in the safe state, until its 0.010 ms step (14 R427). -/
def exporting (c : Ctl) : Bool := serving c || (decide (c.safety.mode = .safeState) && decide (c.safety.phase = 0))

/-- Drop the transmission at the head of a channel (16 R466). -/
def dropHead (p : Part) (chan : Nat) (c : Ctl) : Ctl :=
  settle p (signal p (effVal p c (0x2920 + chan) 5) 1 (bump p (0x2920 + chan) 7 64 1 c))

/-- Send one payload: a frame padded to 60 bytes, or the flits of a message. -/
def sendOut (p : Part) (chan : Nat) (pay : List Byte) (c : Ctl) : Ctl :=
  let t := effVal p c (0x2920 + chan) 1
  if t.testBit 3 then
    match routeUp p c (bitsN t 4 4) with
    | some k =>
      let n := (look {} chan c.links.tx).seq
      (flitsOf p c chan t n pay).foldl (fun c f => emit (.flit k f) c)
        (modLinks (fun l => { l with tx := tweak {} chan (fun x => { x with seq := (n + 1) % 65536 }) l.tx }) c)
    | none => c
  else emit (.eth (bitsN t 0 3) (pay ++ List.replicate (60 - pay.length) 0)) c

/-- The transmission with place `order` at the head of a channel comes before those of the other channels that share its
MAC (16 R466). -/
def macTurn (p : Part) (c : Ctl) (chan order : Nat) : Bool :=
  let t := effVal p c (0x2920 + chan) 1
  t.testBit 3 || c.links.tx.all fun e =>
    let u := effVal p c (0x2920 + e.1) 1
    decide (e.1 = chan) || u.testBit 3 || decide (bitsN u 0 3 ≠ bitsN t 0 3) || e.2.queue.head?.all fun x => decide (order < x.order)

/-- The oldest transmission of a channel is sent in its turn, or dropped; a poisoned word in its slot is consumed by the
MAC or the causeway, and nothing is sent. -/
def transmit (chan : Nat) (v : View) (c : Ctl) : Ctl :=
  let p := v.part
  let x := look {} chan c.links.tx
  match x.queue with
  | [] => c
  | ⟨slot, n, order⟩ :: rest =>
    if !exporting c ∨ !macTurn p c chan order then c
    else
      let c1 := modLinks (fun l => { l with tx := stow {} chan { x with queue := rest } l.tx }) c
      let i := 0x2920 + chan
      let a := 64 * effVal p c i 2 + 64 * effVal p c i 4 * slot
      let u := if (effVal p c i 1).testBit 3 then 0x3C else 0x3D
      if !canSend p c chan then dropHead p chan c1
      else if poisonedIn v.mems a n then
        dropHead p chan (raise p { mech := 9, unit := u, addr := a } c1)
      else
        settle p (signal p (effVal p c i 5) 1 (bump p i 6 64 1 (sendOut p chan (devBytes v.mems a n) (dramReads p u [(a, n)] c1))))

/-- TRANSMISSION_SEND (16 R466). -/
def execTransmissionSend (chan : Nat) (s : State) : Host.Outcome State Fault Refusal := act s (transmit chan)

/-- MAC_LINK_CHANGE (16 R480): what the interface of a MAC reports. -/
def execMacLinkChange (mac : Nat) (up : Bool) (s : State) : Host.Outcome State Fault Refusal :=
  act s fun _ c =>
    if mac < 6 ∧ c.boot.started then modLinks (fun l => { l with macUp := stow false mac up l.macUp }) c else c

/-! ## Twin pairing (16 R471-R473) -/

/-- Change the twin. -/
def modTwin (f : Twin → Twin) (c : Ctl) : Ctl := modLinks (fun l => { l with twin := f l.twin }) c

/-- Code of SafetyState (14 R431). -/
def modeCode : Mode → Nat
  | .notReady => 0
  | .inService => 1
  | .debugHold => 2
  | .safeState => 3
  | .failed => 4

/-- TwinRole as it reads (16 R473): refused while the neighbour has this device's ArchId. -/
def twinRole (p : Part) (c : Ctl) : Nat :=
  if effVal p c 0x2908 1 = 1 ∧ (getCw c 0).state = 3 then 255 else c.links.twin.role

/-- TwinPeerId. -/
def twinPeerId (c : Ctl) : Nat := ((getCw c 0).peer.map Member.id).getD 255

/-- A change of role (16 R473): TwinSync gains 1, and a change to ACTIVE counts in Takeovers. -/
def setRole (p : Part) (r : Nat) (c : Ctl) : Ctl :=
  if c.links.twin.role = r then c
  else
    let c1 := modTwin (fun t => { t with role := r }) c
    settle p (signal p (effVal p c 0x2908 7) 1 (if r = 1 then bump p 0x2908 0xD 32 1 c1 else c1))

/-- The new role of the first row of 16 R473 that applies. -/
def newRole (p : Part) (c : Ctl) : Option Nat :=
  let t := c.links.twin
  let own := decide (c.safety.mode = .inService)
  let peerIs := fun (f : Heartbeat → Bool) => (t.peer.map f).getD false
  let peerId := twinPeerId c
  let standby := peerIs fun h => decide (h.role = 0) && decide (h.safety = 1)
  if t.role = 1 then
    if !own ∨ t.release then some 0
    else if peerIs (fun h => decide (h.role = 1)) ∧ peerId < archId p c then some 0
    else none
  else if !own then none
  else if effVal p c 0x2908 6 ≤ t.misses then some 1
  else if peerIs (fun h => decide (h.safety ≠ 1)) then some 1
  else if !t.yield ∧ standby ∧ peerIs (fun h => h.yield) then some 1
  else if !t.yield ∧ standby ∧ archId p c < peerId then some 1
  else if t.takeover then some 1
  else none

/-- Number of fenced blocks. -/
def fencedCount (c : Ctl) : Nat := sumN (tab 32 fun b => b2n (c.faults.fencedBlocks.testBit b))

/-- The heartbeat that the device sends (16 R472). -/
def heartbeatNow (p : Part) (c : Ctl) : Heartbeat :=
  { crcOk := true
    src := archId p c
    role := c.links.twin.role
    safety := modeCode c.safety.mode
    timeState := c.time.state
    faultOpen := anyUncleared c
    yield := c.links.twin.yield
    serial := c.links.twin.sent
    sent := BitVec.ofNat 64 (now c)
    fenced := fencedCount c }

/-- HEARTBEAT_TICK (16 R473): misses, role, requests consumed, heartbeat sent while causeway 0 is UP. -/
def heartbeatTick (v : View) (c : Ctl) : Ctl :=
  let p := v.part
  if !c.links.twin.paired ∨ (getCw c 0).state = 3 then c
  else
    let missed := !c.links.twin.heard
    let c1 := modTwin (fun t => { t with misses := if missed then t.misses + 1 else 0, heard := false }) c
    let c2 := if missed then bump p 0x2908 0xC 32 1 c1 else c1
    let c3 := match newRole p c2 with
      | some r => setRole p r c2
      | none => c2
    let c4 := modTwin (fun t =>
      { t with takeover := false, release := false, yield := t.yield && !t.takeover }) c3
    if cwUp c4 0 then emit (.heartbeat (heartbeatNow p c4)) (modTwin (fun t => { t with sent := (t.sent + 1) % 2 ^ 32 }) c4)
    else c4

/-- HEARTBEAT_TICK (16 R473). -/
def execHeartbeatTick (s : State) : Host.Outcome State Fault Refusal := act s heartbeatTick

/-- A heartbeat is valid (16 R472). -/
def validHeartbeat (c : Ctl) (h : Heartbeat) : Bool :=
  h.crcOk && decide (h.src = twinPeerId c) &&
    (match c.links.twin.peer with
     | some o => decide (o.serial < h.serial)
     | none => true)

/-- HEARTBEAT_RECEIVED (16 R472): kept when valid; a peer shown ACTIVE ends the own yield. -/
def execHeartbeatReceived (h : Heartbeat) (s : State) : Host.Outcome State Fault Refusal :=
  act s fun _ c =>
    if c.links.twin.paired ∧ cwUp c 0 ∧ validHeartbeat c h then
      modTwin (fun t => { t with peer := some h, heard := true, yield := t.yield && decide (h.role ≠ 1) }) c
    else c

/-! ## The start barrier (13 R388-R391) -/

/-- Change the barrier. -/
def modBarrier (f : Barrier → Barrier) (c : Ctl) : Ctl := { c with barrier := f c.barrier }

/-- This device is the harbour. -/
def isHarbour (p : Part) (c : Ctl) : Bool :=
  decide (effVal p c 0x2900 5 = 1) && decide (c.links.harbour = archId p c)

/-- A pulse toward a member, on the sideband of the port of its route. -/
def pulse (p : Part) (d : Nat) (x : Pulse) (c : Ctl) : Ctl :=
  match routeUp p c d with
  | some k => emit (.sideband k x) c
  | none => c

/-- Fusion time after `n` MCLK cycles (01 R30): 1 ns each, 1.25 ns while derated. -/
def afterMclk (c : Ctl) (n : Nat) : Nat := (now c + 65536 * (if c.power.derated then n * 5 / 4 else n)) % 2 ^ 64

/-- The harbour sends GO to the members that have armed; the others are excluded (13 R389). -/
def sendGo (p : Part) (c : Ctl) : Ctl :=
  let ids := ((allMembers p c).map Member.id).dedup
  let got := c.barrier.got
  let out := ids.filter fun i => !got.contains i
  let c1 := odSet p 0x2600 0xE (out.foldl (fun a i => a ||| 2 ^ (i % 16)) 0) c
  let c2 := ((ids.filter fun i => got.contains i && decide (i ≠ archId p c))).foldl (fun c i => pulse p i .go c) c1
  modBarrier (fun b =>
    { b with
      got := []
      until_ := none
      due := if got.contains (archId p c) then some (afterMclk c (effVal p c 0x2600 0xB)) else b.due }) c2

/-- GO as soon as every member has armed while the harbour waits. -/
def tryGo (p : Part) (c : Ctl) : Ctl :=
  if c.barrier.until_.isSome ∧ ((allMembers p c).map Member.id).all (fun i => c.barrier.got.contains i) then sendGo p c else c

/-- ARM of member `i` reaches the harbour, or is passed on towards it. -/
def armFrom (p : Part) (i : Nat) (c : Ctl) : Ctl :=
  if isHarbour p c then tryGo p (modBarrier (fun b => { b with got := insNat i b.got }) c)
  else pulse p c.links.harbour .arm (modBarrier (fun b => if i = archId p c then b else { b with forwarded := insNat i b.forwarded }) c)

/-- A write of 1 to BarrierArm (13 R389). -/
def armBarrier (p : Part) (c : Ctl) : Ctl :=
  if c.links.harbour = 255 then c else armFrom p (archId p c) (modBarrier (fun b => { b with armed := true }) c)

/-- A write of 1 to BarrierGo on the harbour (13 R389): ignored elsewhere, and while a wait runs. -/
def goBarrier (p : Part) (c : Ctl) : Ctl :=
  if isHarbour p c ∧ c.barrier.until_ = none then
    tryGo p (modBarrier (fun b => { b with until_ := some ((now c + odVal p c 0x2600 0xF * us) % 2 ^ 64) }) c)
  else c

/-- BARRIER_ARM_RECEIVED (13 R389). -/
def execBarrierArmReceived (id : Nat) (s : State) : Host.Outcome State Fault Refusal :=
  act s fun v c => if effVal v.part c 0x2900 5 = 1 ∧ serving c then armFrom v.part id c else c

/-- BARRIER_TIMEOUT (13 R389): BarrierTimeout has passed since BarrierGo. -/
def execBarrierTimeout (s : State) : Host.Outcome State Fault Refusal :=
  act s fun v c => match c.barrier.until_ with
    | some t => sendGo v.part (modTime (reach t) c)
    | none => c

/-- BARRIER_GO_RECEIVED (13 R389): the member's release is due BarrierLatency - BarrierDeskew MCLK cycles
later, at once when that is negative; GO is passed on to the members whose ARM came through here. -/
def execBarrierGoReceived (port : Nat) (s : State) : Host.Outcome State Fault Refusal :=
  act s fun v c =>
    let p := v.part
    if effVal p c 0x2900 5 ≠ 1 ∨ !cwUp c port ∨ !serving c then c
    else
      let c1 := c.barrier.forwarded.foldl (fun c i => pulse p i .go c) (modBarrier (fun b => { b with forwarded := [] }) c)
      if c.barrier.armed then
        modBarrier (fun b => { b with due := some (afterMclk c (effVal p c 0x2600 0xB - odVal p c 0x2601 (port + 1))) }) c1
      else c1

/-- BARRIER_RELEASE (13 R389): BarrierSync gains 1 and BarrierArm clears. -/
def execBarrierRelease (s : State) : Host.Outcome State Fault Refusal :=
  act s fun v c => match c.barrier.due with
    | some t =>
      settle v.part (signal v.part (effVal v.part c 0x2600 0xA) 1 (odSet v.part 0x2600 0xC 0
        (modBarrier (fun b => { b with armed := false, due := none }) (modTime (reach t) c))))
    | none => c

/-- A write of 1 to BarrierCalibrate on the harbour (13 R388): every member measures its path. -/
def calibrate (p : Part) (c : Ctl) : Ctl :=
  if isHarbour p c then
    ((((allMembers p c).map Member.id).dedup.filter fun i => decide (i ≠ archId p c))).foldl (fun c i => pulse p i .calibrate c) c
  else c

/-- BARRIER_CALIBRATION_DONE (13 R388): half the round trip, rounded up, for the port on the member's path to
the harbour. -/
def execBarrierCalibrationDone (port roundTrip : Nat) (s : State) : Host.Outcome State Fault Refusal :=
  act s fun v c =>
    let p := v.part
    if effVal p c 0x2900 5 = 1 ∧ !isHarbour p c ∧ routeUp p c c.links.harbour = some port then
      odSet p 0x2601 (port + 1) (min 65535 (cdiv roundTrip 2)) c
    else c

end Sys2Proof.Machine
end

