-- ==== Sys2Proof/Machine/Compare.lean ====
section
/-! DEFINITION. The chip comparator and what the cores decide from it (14 R402-R418, R536): signatures,
pairs, safety-task windows, disagreements, third evaluations, observation and sampled replay. -/

namespace Sys2Proof.Machine

/-! ## Pairs (14 R405, R406) -/

/-- Entry of a pair. -/
def getPair (c : Ctl) (n : Nat) : Pair := look {} n c.safety.pairs

/-- Set the entry of a pair. -/
def setPair (n : Nat) (e : Pair) (c : Ctl) : Ctl := modSafety (fun s => { s with pairs := stow {} n e s.pairs }) c

/-- Two signatures come from units of the same kind: blocks of different isles, different SG halves, or
the ferry (14 R405). -/
def independent (u w : Nat) : Bool :=
  if u < 32 ∧ w < 32 then decide (u / 4 ≠ w / 4)
  else if (u = 0x28 ∨ u = 0x29) ∧ (w = 0x28 ∨ w = 0x29) then decide (u ≠ w)
  else decide (u = 0x2D) && decide (w = 0x2D)

/-- The verdict on two held sides. -/
def verdictOf (a b : Side) : Bool := independent a.unit b.unit && decide (a.value = b.value)

/-- The comparator decides a pair whose two sides are held. -/
def decidePair (p : Part) (n : Nat) (c : Ctl) : Ctl :=
  let e := getPair c n
  match e.a, e.b with
  | some a, some b =>
    let c1 := if independent a.unit b.unit then c else bump p 0x2700 0xF 32 1 c
    modSafety (fun s => { s with decided := s.decided ++ [n] })
      (setPair n { e with verdict := some (verdictOf a b), decided := now c } c1)
  | _, _ => c

/-- A signature reaches the comparator (14 R405, R536): stored in its side; the pair is an orphan when the
other side was withdrawn. One for a side already held waits, and one that meets
a self-test slice of the comparator (14 R419). -/
def arrive (r : Ref) (v : View) (c : Ctl) : Ctl :=
  match findCmd c r with
  | none => c
  | some m =>
    match sigTag m.desc with
    | none => c
    | some t =>
      let n := t % 32768
      let e := getPair c n
      let own := if t < 32768 then e.a else e.b
      let otherGone := if t < 32768 then e.gone1 else e.gone0
      if !serving c ∨ c.safety.slice = some .comparator ∨ m.status ≠ 0 ∨ m.sig ≠ .owed ∨ (m.stage ≠ .executed ∧ m.stage ≠ .done) ∨ own.isSome then c
      else
        let s : Side := ⟨r, m.sigValue, unitOfDesc m.desc⟩
        let first := if e.a.isNone && e.b.isNone then now c else e.since
        let e1 : Pair := if t < 32768 then { e with a := some s, gone0 := false, since := first }
          else { e with b := some s, gone1 := false, since := first }
        let c1 := setPair n e1 (modCmd r (fun x => { x with sig := .sent }) c)
        if otherGone then orphan v.part n (1 - t / 32768) s c1 else decidePair v.part n c1

/-- SIGNATURE_ARRIVAL (14 R405). -/
def execSignatureArrival (r : Ref) (s : State) : Host.Outcome State Fault Refusal := act s (arrive r)

/-- min(PairTimeout, FramePeriod) in units of the value. -/
def pairLimit (p : Part) (c : Ctl) : Nat := min (odVal p c 0x2700 0xC * us) c.time.period

/-- The second signature of a pair has not come in time (14 R406). -/
def pairLate (n : Nat) (v : View) (c : Ctl) : Ctl :=
  let e := getPair c n
  if !serving c then c
  else match e.a, e.b with
    | some s, none => orphan v.part n 1 s (modTime (reach ((e.since + pairLimit v.part c) % 2 ^ 64)) c)
    | none, some s => orphan v.part n 0 s (modTime (reach ((e.since + pairLimit v.part c) % 2 ^ 64)) c)
    | _, _ => c

/-- PAIR_TIMEOUT (14 R406). -/
def execPairTimeout (pair : Nat) (s : State) : Host.Outcome State Fault Refusal := act s (pairLate pair)

/-! ## Suspect units (14 R416) -/

/-- Observation of a unit. -/
def getSus (c : Ctl) (u : Nat) : Suspect := look {} u c.safety.suspects

/-- Change the observation of a unit. -/
def modSus (u : Nat) (f : Suspect → Suspect) (c : Ctl) : Ctl :=
  modSafety (fun s => { s with suspects := tweak {} u f s.suspects }) c

/-- Place a unit under observation. -/
def observe (u : Nat) (c : Ctl) : Ctl :=
  modSus u (fun s => if s.suspect then s else { s with suspect := true, clean := 0, layers := [] }) c

/-- The frame window of a value (09 R266). -/
def windowOf (c : Ctl) (v : Nat) : Nat :=
  if c.time.period = 0 then 0 else (fullTime c.time - (diff (now c) v).toNat - c.time.phase) / c.time.period

/-- A disagreement that failed at `t` names a unit: it is suspect; the second within 1,000 × FramePeriod
fences it, or enters the safe state for the ferry. Two of one frame window count once (14 R414, R416). -/
def nameUnit (p : Part) (u t : Nat) (c : Ctl) : Ctl :=
  let s := getSus c u
  let c1 := observe u c
  let again := decide (s.first ≠ 0) && decide (diff t (s.first - 1) ≤ ((1000 * c.time.period : Nat) : Int))
  if again ∧ windowOf c t = windowOf c (s.first - 1) then c1
  else if again then (if u = 0x2D then enterSafe p 2 0xFFFFFFFF c1 else fenceNow p u c1)
  else modSus u (fun x => { x with first := t + 1 }) c1

/-! ## Third evaluations (14 R415) -/

/-- A block may replay for two copies. -/
def mayReplay (p : Part) (c : Ctl) (a b x : Nat) : Bool :=
  hasBlock p x && decide (x / 4 ≠ a / 4) && decide (x / 4 ≠ b / 4) && !fencedUnit c x && !(getSus c x).suspect

/-- The replay block. -/
def replayBlock (p : Part) (c : Ctl) (a b : Nat) : Option Nat :=
  let u := effVal p c 0x2700 0x12
  if mayReplay p c a b u then some u else (List.range 32).reverse.find? fun x => mayReplay p c a b x

/-- An unresolved disagreement: both units are observed, UnresolvedDisagreements counts, MECH 21. -/
def unresolved (p : Part) (t : Third) (c : Ctl) : Ctl :=
  raise p { mech := 21 } (bump p 0x2700 0x16 32 1 (observe t.b.unit (observe t.a.unit c)))

/-- The third evaluation of a failed pair starts, or is unresolved: an AT.SCORE, an overflowed redo list of copy A's
layer, no eligible replay block, copies of different kinds. -/
def startThird (p : Part) (t : Third) (c : Ctl) : Ctl :=
  let mx := decide (t.a.unit < 32) && decide (t.b.unit < 32)
  let blockOk := mx && decide (t.opcode = 1) && (replayBlock p c t.a.unit t.b.unit).isSome &&
    !(getRedo c t.a.ref.q t.a.unit).overflow.contains t.layer
  let sg := (decide (t.a.unit = 0x28) || decide (t.a.unit = 0x29)) && (decide (t.b.unit = 0x28) || decide (t.b.unit = 0x29))
  let dm := decide (t.a.unit = 0x2D) && decide (t.b.unit = 0x2D)
  if blockOk ∨ sg ∨ dm then modSafety (fun s => { s with third := s.third ++ [t] }) c else unresolved p t c

/-- The work on a replay block is displaced at its boundary for client `cl` with a slack of 0 (14 R415, 11 R327): no
save, abandonment, or a spill where the layer cannot be re-run. -/
def displace (p : Part) (b cl : Nat) (c : Ctl) : Ctl :=
  let cur := look 0 b c.sched.running
  if cur = 0 then c
  else runNobody b (if isLive c (cur - 1) b then switchOut p b (cur - 1) cl false c else c)

/-- The replay block for copies on units `a` and `b` takes the work of client `cl` at its kernel boundary: none while
no block is eligible or the block is within a kernel (14 R415). -/
def takeReplay (p : Part) (a b cl : Nat) (c : Ctl) : Option Ctl :=
  match replayBlock p c a b with
  | some x => if atBoundary c x then some (displace p x cl c) else none
  | none => none

/-- The judgement of a finished third evaluation by its signatures (14 R415). -/
def judgeThird (p : Part) (t : Third) (sigs : List Word64) (c : Ctl) : Ctl :=
  let a := t.a.value
  let b := t.b.value
  let x := sigs.getD 0 0
  let y := sigs.getD 1 0
  if t.a.unit < 32 then
    if a ≠ x ∧ b ≠ x ∧ a ≠ b then enterSafe p 2 0xFFFFFFFF c
    else
      let c1 := if a ≠ x then nameUnit p t.a.unit t.failed c else c
      if b ≠ x then nameUnit p t.b.unit t.failed c1 else c1
  else if t.a.unit = 0x2D then
    if a ≠ x ∧ b ≠ x then enterSafe p 2 0xFFFFFFFF c else nameUnit p 0x2D t.failed c
  else
    let onA := decide (a = y)
    let onB := decide (b = x)
    if onA && !onB then nameUnit p t.b.unit t.failed c
    else if onB && !onA then nameUnit p t.a.unit t.failed c
    else enterSafe p 2 0xFFFFFFFF c

/-- Signatures of a third evaluation: the re-runs of both copies for SG, else one. -/
def thirdSigs (t : Third) : Nat := if t.a.unit = 0x28 ∨ t.a.unit = 0x29 then 2 else 1

/-- THIRD_EVALUATION_DONE (14 R415): MX.DRAIN and DM.COPY give one signature; SG the re-run of copy A's
command on copy B's half, then of copy B's on copy A's. During a debug hold the judgement waits; an evaluation that an
uncorrected error ends without a signature, or that has no eligible block left, is unresolved (R430). -/
def execThirdEvaluationDone (pair : Nat) (sigs : List Word64) (s : State) : Host.Outcome State Fault Refusal :=
  act s fun v c =>
    match c.safety.third.find? fun t => decide (t.pair = pair) with
    | none => c
    | some t =>
      let drop := modSafety (fun s => { s with third := s.third.erase t })
      if c.safety.mode ≠ .inService then c
      else if 32 ≤ t.a.unit then
        if sigs.length < thirdSigs t then unresolved v.part t (drop c) else judgeThird v.part t sigs (drop c)
      else if (replayBlock v.part c t.a.unit t.b.unit).isNone then unresolved v.part t (drop c)
      else match takeReplay v.part t.a.unit t.b.unit (getQ c t.a.ref.q).ctx.client c with
        | none => c
        | some c1 => if sigs.isEmpty then unresolved v.part t (drop c1) else judgeThird v.part t sigs (drop c1)

/-- THIRD_EVALUATION_TIMEOUT (14 R415): it has not started within one fusion frame. -/
def execThirdEvaluationTimeout (pair : Nat) (s : State) : Host.Outcome State Fault Refusal :=
  act s fun v c =>
    match c.safety.third.find? fun t => decide (t.pair = pair) with
    | none => c
    | some t => if c.safety.mode ≠ .inService then c else
        unresolved v.part t (modTime (reach ((t.failed + c.time.period) % 2 ^ 64))
          (modSafety (fun s => { s with third := s.third.erase t }) c))

/-! ## Safety-task windows (14 R397, R407, R408, R414) -/

/-- The bound of 14 R408: 2 µs + SafetyPeriod + SafetyBudget, and 2 × SafetyPeriod more in split mode. -/
def passBound (p : Part) (c : Ctl) : Nat :=
  (2 + effVal p c 0x2700 5 + effVal p c 0x2700 6 + if c.safety.splitActive then 2 * effVal p c 0x2700 5 else 0) * us

/-- Fusion time at which a side's command was done. -/
def doneAt (c : Ctl) (r : Ref) : Option Nat :=
  match findCmd c r with
  | some m => if m.stage = .done then some m.since else none
  | none => none

/-- A pair is passed later than the bound from its later command being done. -/
def passedLate (p : Part) (c : Ctl) (a b : Side) : Bool :=
  match doneAt c a.ref, doneAt c b.ref with
  | some x, some y =>
    decide (((passBound p c : Nat) : Int) < diff (now c) x) && decide (((passBound p c : Nat) : Int) < diff (now c) y)
  | _, _ => false

/-- The record of one side of a disagreement (14 R414 step 4). -/
def sideRecord (n : Nat) (c : Ctl) (s : Side) : Rec :=
  { mech := 16, unit := s.unit, sub := n, op := opOf c s.ref, at_ := now c }

/-- OPCODE of a command. -/
def opcodeOf (c : Ctl) (r : Ref) : Nat := ((findCmd c r).map fun m => dOp m.desc).getD 0

/-- A disagreement (14 R414): both commands retire COMPARE_FAIL with their queues disabled after them, a
record for each unit not yet named in this frame, and a third evaluation. -/
def disagree (p : Part) (n : Nat) (a b : Side) (c : Ctl) : Ctl :=
  let ra := sideRecord n c a
  let rb := sideRecord n c b
  let newA := !c.safety.named.contains a.unit
  let newB := !c.safety.named.contains b.unit && decide (b.unit ≠ a.unit)
  let t : Third := ⟨n, a, b, ((findCmd c a.ref).map Cmd.layer).getD 0, opcodeOf c a.ref, now c⟩
  let c1 := settle p (failAppends n (resolve b.ref 4 0 true (resolve a.ref 4 0 true (bump p 0x2700 0xD 32 1 c))))
  let c2 := if newA then logRecord p ra c1 else c1
  let c3 := if newB then logRecord p rb c2 else c2
  let c4 := modSafety (fun s => { s with named := insNat a.unit (insNat b.unit s.named) }) c3
  if newA ∨ newB then startThird p t c4 else c4

/-- One decided pair in a window: passed or failed by the cores' own judgement. A pair one of whose
commands already has another status is left for its withdrawal (14 R536). -/
def judgePair (p : Part) (n : Nat) (c : Ctl) : Ctl :=
  let e := getPair c n
  match e.a, e.b, e.verdict with
  | some a, some b, some hw =>
    if anyFailed c [a.ref, b.ref] then c
    else
      let ok := verdictOf a b
      let c1 := modSafety (fun s =>
        { s with pairs := stow {} n {} s.pairs, decided := s.decided.filter fun x => x ≠ n }) c
      let c2 := if hw = ok then c1 else raise p { mech := 18, unit := 0x37, sub := n } (bump p 0x2700 0x11 32 1 c1)
      if ok then
        let c3 := if passedLate p c2 a b then bump p 0x2700 0x10 64 1 c2 else c2
        let pass : Cmd → Cmd := fun m => { m with sig := .passed }
        settle p (modCmd b.ref pass (modCmd a.ref pass c3))
      else disagree p n a b c2
  | _, _, _ => c

/-- An injected error in the SRAM of a core that the window reads (15 R448). -/
def sramInjected (p : Part) (k : Nat) (c : Ctl) : Ctl :=
  if injected c [13] (0x34 + k) then raise p { mech := 13, unit := 0x34 + k, sub := k, injected := true } (useInjection c) else c

/-- The input replicator gives an input its index and delivers it to the three cores (14 R394). A word of a FIFO whose
reader agent is not the cluster, or which is empty, reads as payload 0 with VALID 0 (10 R304, R306). -/
def deliverInput (p : Part) (x : CoreIn) (c : Ctl) : Ctl :=
  let i := c.safety.inputIndex
  let c1 := modSafety (fun s => { s with inputIndex := (i + 1) % 2 ^ 64 }) c
  let give (w : Word64) (valid fin : Bool) (c : Ctl) : Ctl := (List.range 3).foldl (fun c k => emit (.coreIn k i w valid fin) c) c
  match x with
  | .crossing w => give w true false c1
  | .fifo f => match (getFifo c f).words with
    | (w, fin) :: rest =>
      if (fifoAgents p c f).2 = 3 then give w true fin (modFifo f (fun y => { y with words := rest }) c1)
      else give 0 false false c1
    | [] => give 0 false false c1

/-- SAFETY_TASK_WINDOW (14 R394, R397): the inputs that have arrived, then up to 512 decided pairs in the order decided.
No window opens during a debug hold or outside service. -/
def execSafetyTaskWindow (xs : List CoreIn) (s : State) : Host.Outcome State Fault Refusal :=
  act s fun v c => if c.safety.mode = .inService then
      (c.safety.decided.take 512).foldl (fun c n => judgePair v.part n c)
        ((List.range 3).foldl (fun c k => sramInjected v.part k c) (xs.foldl (fun c x => deliverInput v.part x c) c))
    else c

/-! ## Observation and sampled replay (14 R416, R417) -/

/-- The oldest layer of a unit that waits for its replay is dealt with. -/
def popLayer (u : Nat) (c : Ctl) : Ctl := modSus u (fun x => { x with layers := x.layers.tail }) c

/-- OBSERVATION_REPLAY_DONE (14 R416), of the oldest layer that waits: a disagreeing replay starts the count of clean
self-tests again and is a disagreement that names the unit. -/
def execObservationReplayDone (unit : Nat) (agree : Bool) (s : State) : Host.Outcome State Fault Refusal :=
  act s fun v c =>
    match (getSus c unit).layers with
    | [] => c
    | cl :: _ => if c.safety.mode ≠ .inService then c else match takeReplay v.part unit unit cl c with
      | none => c
      | some c1 =>
        if agree then popLayer unit c1
        else nameUnit v.part unit (now c) (modSus unit (fun x => { x with clean := 0 }) (popLayer unit c1))

/-- OBSERVATION_REPLAY_SKIP (14 R416): counted in ReplaysSkipped. -/
def execObservationReplaySkip (unit : Nat) (s : State) : Host.Outcome State Fault Refusal :=
  act s fun v c =>
    if serving c ∧ (getSus c unit).layers ≠ [] then bump v.part 0x2700 0x17 32 1 (popLayer unit c) else c

/-- SAMPLED_REPLAY_DONE (14 R417, R418), of the oldest sampled layer of the block. Agreement is a clean check; a
difference is logged, taints the unit's clients and makes the block suspect. -/
def execSampledReplayDone (block : Nat) (agree : Bool) (s : State) : Host.Outcome State Fault Refusal :=
  act s fun v c =>
    let p := v.part
    match look [] block c.safety.samples with
    | [] => c
    | cl :: rest => if !serving c ∨ odVal p c 0x2700 0x13 = 0 then c else match takeReplay p block block cl c with
      | none => c
      | some c0 =>
        let c1 := modSafety (fun s => { s with samples := stow [] block rest s.samples }) c0
        if agree then cleanCheck block c1
        else nameUnit p block (now c)
          (sendTaint p block c1.faults.next (logRecord p { mech := 16, unit := block, at_ := now c } c1))

end Sys2Proof.Machine
end

