-- ==== Sys2Proof/Machine/Cores.lean ====
section
/-! DEFINITION. The safety cluster's cores (14 R393-R401): the output voter, checkpoints and
resynchronisation, debug, split mode; the run-time self-tests (14 R419, R420); the reflex voter (14 R424). -/

namespace Sys2Proof.Machine

/-! ## Cores -/

/-- State of core `k`. -/
def coreOf (c : Ctl) (k : Nat) : CoreSt := c.safety.cores.getD k .fenced

/-- Set the state of core `k`. -/
def setCore (k : Nat) (x : CoreSt) (c : Ctl) : Ctl := modSafety (fun s => { s with cores := s.cores.set k x }) c

/-- Cores in service. -/
def inService (c : Ctl) : List Nat := (List.range 3).filter fun k => decide (coreOf c k = .inService)

/-- A core is dropped (14 R396): counted and recorded; a second drop within 1,000 × FramePeriod of the first
fences it. Fewer than two cores fail the device (14 R429). -/
def dropCore (p : Part) (k : Nat) (c : Ctl) : Ctl :=
  let first := c.safety.drops.getD k 0
  let again := decide (first ≠ 0) && decide (diff (now c) (first - 1) ≤ ((1000 * c.time.period : Nat) : Int))
  let c1 := raise p { mech := 13, unit := 0x34 + k, sub := k } (bump p 0x2700 0xB 32 1 c)
  let c2 := modSafety (fun s => { s with copying := s.copying.set k false, copied := s.copied.set k false }) c1
  let c3 :=
    if again then raise p { mech := 14, unit := 0x34 + k, sub := k } (setCore k .fenced c2)
    else setCore k .resync (modSafety (fun s => { s with drops := s.drops.set k (now c + 1) }) c2)
  if (inService c3).length < 2 then failDevice p 10 c3 else c3

/-! ## The output voter (14 R395) -/

/-- A released output acts: a message-FIFO write, a safe-state request; commit grants act in the window
that makes them, crossings leave the cluster. -/
def release (p : Part) (k : Nat) (v : CoreVal) (c : Ctl) : Ctl :=
  let c1 := emit (.coreOut k v) c
  match v with
  | .fifo f w fin => if (fifoAgents p c f).1 = 3 then fifoPut p f w fin c1 else c1
  | .safeRequest => enterSafe p 2 0xFFFFFFFF c1
  | _ => c1

/-- The votes held for output `k`. -/
def voteOf (c : Ctl) (k : Nat) : Option Vote := c.safety.votes.find? fun x => decide (x.k = k)

/-- Replace or remove the votes for output `k`. -/
def setVote (k : Nat) (x : Option Vote) (c : Ctl) : Ctl :=
  modSafety (fun s => { s with votes := (s.votes.filter fun y => decide (y.k ≠ k)) ++ x.toList }) c

/-- Fusion time at which a VoteWindow that begins now ends. -/
def voteEnd (p : Part) (c : Ctl) : Nat := (now c + effVal p c 0x2700 7 * us) % 2 ^ 64

/-- The voter's decision on the values it holds (14 R395), with `n` cores in service. -/
def vote (p : Part) (n : Nat) (x : Vote) (c : Ctl) : Ctl :=
  match x.vals, x.released with
  | [(_, v), (_, w)], none =>
    if v = w then
      release p x.k v (setVote x.k (if n = 2 then none else some { x with released := some v, due := voteEnd p c }) c)
    else if n = 2 then enterSafe p 3 0xFFFFFFFF (setVote x.k none c)
    else c
  | [_, _, (j, w)], some v =>
    let c1 := setVote x.k none c
    if v = w then c1 else dropCore p j c1
  | [(i, v), (j, w), (_, u)], none =>
    let c1 := setVote x.k none c
    if u = v then dropCore p j (release p x.k v c1)
    else if u = w then dropCore p i (release p x.k w c1)
    else enterSafe p 3 0xFFFFFFFF c1
  | _, _ => c

/-- A core in service produces output `k` (14 R395). In split mode the outputs of A and B are held until C
has reproduced them (14 R400). -/
def output (core k : Nat) (w : CoreVal) (v : View) (c : Ctl) : Ctl :=
  let x : Vote := (voteOf c k).getD ⟨k, [], none, voteEnd v.part c⟩
  if !serving c ∨ 3 ≤ core then c
  else if c.safety.splitActive then
    (if core = 2 ∨ x.vals.any (fun e => decide (e.1 = core)) then c
     else setVote k (some { x with vals := x.vals ++ [(core, w)] }) c)
  else
    let l := inService c
    if l.length < 2 then failDevice v.part 10 c
    else if !l.contains core ∨ x.vals.any (fun e => decide (e.1 = core)) then c
    else
      let y : Vote := { x with vals := x.vals ++ [(core, w)] }
      vote v.part l.length y (setVote k (some y) c)

/-- CORE_OUTPUT (14 R395). -/
def execCoreOutput (core k : Nat) (w : CoreVal) (s : State) : Host.Outcome State Fault Refusal :=
  act s (output core k w)

/-- VoteWindow passes for output `k` (14 R395): a released output drops the core that is absent; an output
not released enters the safe state. -/
def voteExpires (k : Nat) (v : View) (c : Ctl) : Ctl :=
  match voteOf c k with
  | none => c
  | some x =>
    if !serving c ∨ c.safety.splitActive then c
    else
      let c1 := modTime (reach x.due) (setVote k none c)
      match x.released with
      | some _ => ((inService c).filter fun j => !x.vals.any fun e => decide (e.1 = j)).foldl
          (fun c j => dropCore v.part j c) c1
      | none => enterSafe v.part 3 0xFFFFFFFF c1

/-- VOTE_WINDOW_EXPIRY (14 R395). -/
def execVoteWindowExpiry (k : Nat) (s : State) : Host.Outcome State Fault Refusal := act s (voteExpires k)

/-! ## Checkpoints (14 R396) -/

/-- The digest of core `k` among three. -/
def digestOf (a b d : Word64) (k : Nat) : Word64 := if k = 0 then a else if k = 1 then b else d

/-- The digest on which the cores in service agree: by two of three, or by both of two. -/
def agreedDigest (l : List Nat) (f : Nat → Word64) : Option Word64 :=
  match l with
  | [i, j] => if f i = f j then some (f i) else none
  | [i, j, k] => if f i = f j ∨ f i = f k then some (f i) else if f j = f k then some (f j) else none
  | _ => none

/-- A dropped core at an agreeing checkpoint: the copy starts, or, once copied, it rejoins if its own
checkpoint agrees and else drops again. -/
def rejoin (p : Part) (d : Word64) (f : Nat → Word64) (k : Nat) (c : Ctl) : Ctl :=
  if coreOf c k ≠ .resync then c
  else if c.safety.copied.getD k false then
    (if f k = d then setCore k .inService (modSafety (fun s => { s with copied := s.copied.set k false }) c)
     else dropCore p k c)
  else modSafety (fun s => { s with copying := s.copying.set k true }) c

/-- CHECKPOINT (14 R396), an output under the voter's table; in split mode the replay compares it. -/
def checkpoint (a b d : Word64) (v : View) (c : Ctl) : Ctl :=
  let f := digestOf a b d
  let l := inService c
  if c.safety.mode ≠ .inService ∨ c.safety.splitActive then c
  else if l.length < 2 then failDevice v.part 10 c
  else match agreedDigest l f with
    | none => enterSafe v.part 3 0xFFFFFFFF c
    | some g =>
      let back := (List.range 3).filter fun k => decide (coreOf c k = .resync)
      let c1 := (l.filter fun k => decide (f k ≠ g)).foldl (fun c k => dropCore v.part k c) c
      back.foldl (fun c k => rejoin v.part g f k c) c1

/-- CHECKPOINT (14 R396). -/
def execCheckpoint (a b d : Word64) (s : State) : Host.Outcome State Fault Refusal := act s (checkpoint a b d)

/-- RESYNC_COPY_DONE (14 R396): the dropped core holds an in-service core's SRAM and registers. -/
def execResyncCopyDone (core : Nat) (s : State) : Host.Outcome State Fault Refusal :=
  act s fun _ c =>
    if serving c ∧ coreOf c core = .resync ∧ c.safety.copying.getD core false then
      modSafety (fun t => { t with copying := t.copying.set core false, copied := t.copied.set core true }) c
    else c

/-! ## Split mode (14 R400) -/

/-- SPLIT_REPLAY_INTERVAL (14 R400): core C has re-executed an interval of A or B. Its held outputs are
released when C's values equal them; any difference enters the safe state with cause 6. -/
def splitInterval (core : Nat) (vals : List CoreVal) (v : View) (c : Ctl) : Ctl :=
  let heldOf := c.safety.votes.filterMap fun x => (x.vals.find? fun e => decide (e.1 = core)).map fun e => (x.k, e.2)
  if !serving c ∨ !c.safety.splitActive ∨ 2 ≤ core then c
  else
    let c1 := modSafety (fun s =>
      { s with votes := (s.votes.map fun x =>
          ({ x with vals := x.vals.filter (fun e => decide (e.1 ≠ core)) } : Vote)).filter (fun x => !x.vals.isEmpty) }) c
    if heldOf.map Prod.snd = vals then heldOf.foldl (fun c e => release v.part e.1 e.2 c) c1
    else enterSafe v.part 6 0xFFFFFFFF c1

/-- SPLIT_REPLAY_INTERVAL (14 R400). -/
def execSplitReplayInterval (core : Nat) (vals : List CoreVal) (s : State) : Host.Outcome State Fault Refusal :=
  act s (splitInterval core vals)

/-! ## Debug on core A (14 R398, R399) -/

/-- JTAG reaches core A: the seal is clear and the cores run an image (14 R398, 17 R498). -/
def debugOpen (c : Ctl) : Bool :=
  !c.boot.sealed && (decide (c.boot.stage = .setup) || decide (c.boot.stage = .service)) &&
    decide (c.safety.mode ≠ .safeState) && decide (c.safety.mode ≠ .failed)

/-- The cores stop at a count: SafetyState reads DEBUG_HOLD in service, and the twin role is given up. -/
def haltCores (p : Part) (n : Nat) (c : Ctl) : Ctl :=
  electHarbour p (twinStandby p (modSafety (fun s =>
    { s with halted := true, haltCount := n, mode := if s.mode = .inService then .debugHold else s.mode }) c))

/-- DEBUG_HALT (14 R398): at 16 + the largest count among the cores in service. -/
def execDebugHalt (countA countB countC : Nat) (s : State) : Host.Outcome State Fault Refusal :=
  act s fun v c =>
    if debugOpen c ∧ !c.safety.halted then
      haltCores v.part (16 + ((inService c).map fun k => if k = 0 then countA else if k = 1 then countB else countC).foldl max 0) c
    else c

/-- DEBUG_RESUME (14 R399). -/
def execDebugResume (s : State) : Host.Outcome State Fault Refusal :=
  act s fun v c =>
    if debugOpen c ∧ c.safety.halted then
      electHarbour v.part (modSafety (fun t =>
        { t with halted := false, mode := if t.mode = .debugHold then .inService else t.mode }) c)
    else c

/-- DEBUG_SINGLE_STEP (14 R398): one instruction in all three cores. -/
def execDebugSingleStep (s : State) : Host.Outcome State Fault Refusal :=
  act s fun _ c =>
    if debugOpen c ∧ c.safety.halted then modSafety (fun t => { t with haltCount := t.haltCount + 1 }) c else c

/-- DEBUG_REGISTER_WRITE (14 R398): the same register of all three cores. -/
def execDebugRegisterWrite (reg : Nat) (w : Word64) (s : State) : Host.Outcome State Fault Refusal :=
  act s fun _ c =>
    if debugOpen c then modSafety (fun t => { t with regs := stow 0 reg w.toNat t.regs }) c else c

/-- DEBUG_MEMORY_WRITE (14 R398): one byte of every core's private SRAM of 1 MiB. -/
def execDebugMemoryWrite (addr : Nat) (b : Byte) (s : State) : Host.Outcome State Fault Refusal :=
  act s fun _ c =>
    if debugOpen c ∧ addr < 2 ^ 20 then
      modSafety (fun t => { t with sram := putCell (fun _ _ => true) addr b t.sram }) c
    else c

/-- DEBUG_BREAKPOINT_SET (14 R398): in all three cores. -/
def execDebugBreakpointSet (addr : Nat) (s : State) : Host.Outcome State Fault Refusal :=
  act s fun _ c => if debugOpen c then modSafety (fun t => { t with breaks := insNat addr t.breaks }) c else c

/-- DEBUG_BREAKPOINT_CLEAR (14 R398). -/
def execDebugBreakpointClear (addr : Nat) (s : State) : Host.Outcome State Fault Refusal :=
  act s fun _ c =>
    if debugOpen c then modSafety (fun t => { t with breaks := t.breaks.filter fun x => x ≠ addr }) c else c

/-- BREAKPOINT_HIT (14 R398): all three cores stop at the same count. -/
def execBreakpointHit (addr count : Nat) (s : State) : Host.Outcome State Fault Refusal :=
  act s fun v c =>
    if debugOpen c ∧ c.safety.breaks.contains addr ∧ !c.safety.halted then haltCores v.part count c else c

/-! ## Run-time self-tests (14 R419, R420) -/

/-- Number of a checker group in the tables of self-tests. -/
def checkerKey : Checker → Nat
  | .cells b => b
  | .sigBlock b => 32 + b
  | .sigHalf h => 64 + h
  | .scratch b => 96 + b
  | .lagoon i => 128 + i
  | .dram h k => 144 + 12 * h + k
  | .comparator => 170
  | .outputVoter => 171
  | .reflexVoter => 172
  | .clusterSram k => 173 + k

/-- Unit of a checker group (15 R437). -/
def checkerUnit : Checker → Nat
  | .cells b => b
  | .sigBlock b => b
  | .sigHalf h => 0x28 + h
  | .scratch b => b
  | .lagoon i => 0x20 + i
  | .dram h _ => 0x32 + h
  | .comparator => 0x37
  | .outputVoter => 0x38
  | .reflexVoter => 0x39
  | .clusterSram k => 0x34 + k

/-- The checker group exists on the part and its unit is neither fenced nor off. -/
def checkerPresent (p : Part) (c : Ctl) (x : Checker) : Bool :=
  !fencedUnit c (checkerUnit x) &&
    match x with
    | .cells b => hasBlock p b && pdOn c (blockDomain b)
    | .sigBlock b => hasBlock p b && pdOn c (blockDomain b)
    | .scratch b => hasBlock p b && pdOn c (blockDomain b)
    | .sigHalf h => decide (h < 2) && pdOn c 43
    | .lagoon i => decide (i < isles p) && pdOn c (lagoonDomain i)
    | .dram h k => decide (h < 2) && decide (k < odVal p c 0x2500 1) && pdOn c (46 + h)
    | .clusterSram k => decide (k < 3)
    | _ => true

/-- Every checker group that a part could have. -/
def allCheckers : List Checker :=
  (tab 32 Checker.cells) ++ (tab 32 Checker.sigBlock) ++ (tab 2 Checker.sigHalf) ++ (tab 32 Checker.scratch) ++
    (tab 8 Checker.lagoon) ++ (tab 12 (Checker.dram 0)) ++ (tab 12 (Checker.dram 1)) ++
    [.comparator, .outputVoter, .reflexVoter] ++ tab 3 Checker.clusterSram

/-- Fusion time of the last passing test of a group. -/
def testedAt (c : Ctl) (x : Checker) : Nat := look 0 (checkerKey x) c.safety.tested

/-- Test interval of a group in units of the value: 100 ms, or 5 ms for a unit under observation. -/
def testInterval (c : Ctl) (x : Checker) : Nat :=
  (if (getSus c (checkerUnit x)).suspect then 5000 else 100000) * us

/-- The test sequencer runs from the setup state on (17 R484), through debug hold. -/
def testsRun (c : Ctl) : Bool := regionsServed c && decide (c.safety.mode ≠ .safeState) && decide (c.safety.mode ≠ .failed)

/-- The slice of a group may begin: that of the cell checkers of a block at a kernel boundary of the block (14 R419). -/
def sliceMayBegin (c : Ctl) : Checker → Bool
  | .cells b => atBoundary c b
  | _ => true

/-- SELF_TEST_SLICE_START (14 R419): one slice at a time holds its group out of service. -/
def execSelfTestSliceStart (x : Checker) (s : State) : Host.Outcome State Fault Refusal :=
  act s fun v c =>
    if testsRun c ∧ c.safety.slice = none ∧ checkerPresent v.part c x ∧ sliceMayBegin c x then
      modSafety (fun t => { t with slice := some x }) c
    else c

/-- Checker groups of a unit. -/
def groupsOf (u : Nat) : List Checker :=
  if u < 32 then [.cells u, .sigBlock u, .scratch u] else if u = 0x28 ∨ u = 0x29 then [.sigHalf (u - 0x28)] else []

/-- A passing test: when every group of the unit has passed since the last clean check, the taint tracker
empties (15 R446) and a unit under observation counts one clean self-test; the 64th without a replay that
disagrees returns it to normal service (14 R416). -/
def testPassed (x : Checker) (c : Ctl) : Ctl :=
  let u := checkerUnit x
  let c1 := modSafety (fun s =>
    { s with tested := stow 0 (checkerKey x) (now c) s.tested, warned := s.warned.filter fun k => k ≠ checkerKey x }) c
  let clean := (look {} u c.faults.taint).clean
  if (groupsOf u).isEmpty ∨ (groupsOf u).any (fun g => decide (testedAt c1 g ≤ clean)) then c1
  else
    let c2 := cleanCheck u c1
    let s := getSus c u
    if !s.suspect then c2
    else if 64 ≤ s.clean + 1 then modSus u (fun t => { t with suspect := false, clean := 0, layers := [] }) c2
    else modSus u (fun t => { t with clean := t.clean + 1 }) c2

/-- SELF_TEST_SLICE_END (14 R419): a failure is a MECH 19 record, and taints the unit's clients (14 R418). -/
def execSelfTestSliceEnd (x : Checker) (pass : Bool) (s : State) : Host.Outcome State Fault Refusal :=
  act s fun v c =>
    if c.safety.slice ≠ some x ∨ !testsRun c then c
    else
      let c1 := modSafety (fun t => { t with slice := none }) c
      if pass then testPassed x c1
      else
        let u := checkerUnit x
        let c2 := logRecord v.part { mech := 19, unit := u, at_ := now c } (modSus u (fun t => { t with clean := 0 }) c1)
        if u < 32 ∨ u = 0x28 ∨ u = 0x29 ∨ u = 0x2D then sendTaint v.part u c.faults.next c2 else c2

/-- LATENT_COVERAGE_WARNING (14 R420): 90 % of the interval since the last passing test. -/
def execLatentCoverageWarning (x : Checker) (s : State) : Host.Outcome State Fault Refusal :=
  act s fun v c =>
    if !testsRun c ∨ !checkerPresent v.part c x ∨ c.safety.warned.contains (checkerKey x) then c
    else
      let due := (testedAt c x + testInterval c x / 10 * 9) % 2 ^ 64
      raise v.part { mech := 20, unit := checkerUnit x } (bump v.part 0x2700 0x18 32 1
        (modTime (reach due) (modSafety (fun t => { t with warned := insNat (checkerKey x) t.warned }) c)))

/-- OldestTestAge in µs (14 R420). -/
def oldestTestAge (p : Part) (c : Ctl) : Nat :=
  if !testsRun c then 0
  else ((allCheckers.filter fun x => checkerPresent p c x).map fun x => (diff (now c) (testedAt c x)).toNat / us).foldl max 0

/-! ## The reflex voter (14 R424) -/

/-- The two words of a reflex result (14 R424). -/
def reflexWords (e : Nat × Nat × Nat × Nat × Nat) (outvoted : Bool) : Word64 × Word64 :=
  (BitVec.ofNat 64 e.2.1,
   BitVec.ofNat 64 (e.2.2.1 % 2 ^ 32 + 2 ^ 32 * e.2.2.2.1 + 2 ^ 48 * (e.1 % 8) + 2 ^ 51 * b2n outvoted +
     2 ^ 52 * (e.2.2.2.2 % 4096)))

/-- Write a result into ReflexFifo, if its writer agent is the safety cluster. -/
def writeReflex (p : Part) (e : Nat × Nat × Nat × Nat × Nat) (outvoted : Bool) (c : Ctl) : Ctl :=
  let f := effVal p c 0x2710 2
  let w := reflexWords e outvoted
  if (fifoAgents p c f).1 = 3 then bump p 0x2710 9 64 1 (fifoPut p f w.2 true (fifoPut p f w.1 false c))
  else bump p 0x2710 0xA 64 1 c

/-- REFLEX_VOTE (14 R424): the oldest column waiting, unless a self-test slice holds the voter (14 R419). -/
def execReflexVote (l : Lanes) (s : State) : Host.Outcome State Fault Refusal :=
  act s fun v c =>
    match c.safety.reflex with
    | [] => c
    | e :: rest =>
      if odVal v.part c 0x2710 1 = 0 ∨ c.safety.slice = some .reflexVoter then c
      else
        let c1 := modSafety (fun t => { t with reflex := rest }) c
        match l with
        | .agree => writeReflex v.part e false c1
        | .outvoted k => writeReflex v.part e true
            (raise v.part { mech := 15, unit := 0x39, sub := k } (bump v.part 0x2710 0xB 32 1 c1))
        | .differ => enterSafe v.part 4 0xFFFFFFFF c1

end Sys2Proof.Machine
end

