-- ==== Sys2Proof/Machine/Image.lean ====
section
/-! DEFINITION. Cameras over CSI-2 and the image pipeline (08 R231-R243, R246, R252). -/

namespace Sys2Proof.Machine

/-! ## Arming and stopping, shared by the engines (08 R232, R236) -/

/-- An armed stream: RUNNING or HALTED. -/
def armed (s : Stream) : Bool := decide (s.state ≠ .idle)

/-- Load that an arming counts for (08 R236): pixels/s, luma pixels/s, kilopoints/s. -/
def armLoad (cls : Nat) (d : Desc) : Nat :=
  if cls = 2 then clampN 1 8192 (fld d 96 14) * clampN 1 8192 (fld d 112 14) * max 1 (fld d 128 8)
  else if cls = 3 then
    max (clampN 1 8192 (fld d 96 14) * clampN 1 8192 (fld d 112 14)) (clampN 1 8192 (fld d 128 14) * clampN 1 8192 (fld d 144 14)) *
      max 1 (fld d 160 8)
  else clampN 1 40000 (fld d 160 16)

/-- Capacity of an engine (08 R236). -/
def armCapacity (cls : Nat) : Nat := if cls = 2 then 2000000000 else if cls = 3 then 3840000000 else 40000

/-- Load of the armed streams other than `n`. -/
def othersLoad (c : Ctl) (cls n : Nat) : Nat :=
  sumN (((streamsOf c cls).filter fun e => armed e.2 && decide (e.1 ≠ n)).map fun e => armLoad cls e.2.arm.desc)

/-- Bytes of a remap table (08 R240). -/
def tableBytes (d : Desc) : Nat :=
  let g := clampN 2 6 (fld d 168 4)
  4 * ((cdiv (clampN 1 8192 (fld d 128 14)) (2 ^ g) + 1) * (cdiv (clampN 1 8192 (fld d 144 14)) (2 ^ g) + 1))

/-- Bytes of the remap-table store that the armed image streams other than `n` hold (08 R241). -/
def othersTables (c : Ctl) (n : Nat) : Nat :=
  sumN ((c.img.filter fun e => armed e.2 && decide (e.1 ≠ n)).map fun e => e.2.arm.table.length)

/-- Size of the remap-table store. -/
def remapStore : Nat := 12582912

/-- The admission entries of the dictionary follow the armed streams (08 R258). -/
def noteAdmitted (p : Part) (c : Ctl) : Ctl :=
  odSet p 0x2300 1 (othersLoad c 3 64) (odSet p 0x2300 2 (othersLoad c 2 64) (odSet p 0x2300 3 (othersLoad c 4 64)
    (odSet p 0x2300 4 (remapStore - othersTables c 64) c)))

/-- A stream is armed (08 R232): a RUNNING one goes on with its sample in progress under the old arming. -/
def armStream (p : Part) (r : Ref) (cls n : Nat) (a : Arm) (f : Stream → Stream) (c : Ctl) : Ctl :=
  executed p r 0 (noteAdmitted p (modS cls n (fun s => f { s with state := .running, arm := a, seq := 0 }) c))

/-- STOP (08 R232): the stream is IDLE at once, and time may step once no stream is armed (09 R272). -/
def stopStream (p : Part) (r : Ref) (cls n : Nat) (c : Ctl) : Ctl :=
  let s := getS c cls n
  let c1 := modJournal (fun j => { j with ready := j.ready.filter fun x => !(decide (x.cls = cls) && decide (x.stream = n)) }) c
  timeSettle p (executed p r 0 (noteAdmitted p
    (modS cls n (fun _ => { cause := s.cause, arm := { number := s.arm.number } }) c1)))

/-- The spans of the output and status rings. -/
def ringSpans (d : Desc) (slot : Nat) : List (Nat × Nat) :=
  [(64 * fld d 192 48, slot * max 1 (fld d 240 8)), (64 * fld d 256 48, 32 * max 1 (fld d 240 8))]

/-- First failing check among extents (10 R301, 12 R342), if any. -/
def spanCheck (p : Part) (c : Ctl) (off : Nat) (l : List (Nat × Nat)) : Option Nat :=
  if l.any fun s => !inDevice p c s.1 s.2 then some 5 else if l.any (spanOff off) then some 6 else none

/-! ## IMG.PROC -/

/-- Numeric fields of IMG.PROC. -/
def imgFields (d : Desc) : List NumField :=
  [(96, 14, 1, 8192), (112, 14, 1, 8192), (128, 14, 1, 8192), (144, 14, 1, 8192), (160, 8, 1, 255), (240, 8, 1, 255)] ++
    (if fld d 66 2 = 1 then [(74, 6, 0, 47)] else []) ++ (if fld d 87 1 = 1 then [(168, 4, 2, 6)] else [])

/-- Bytes of the stage buffer: one frame of RGB at 16 bits per channel (08 R239). -/
def stageBytes (d : Desc) : Nat := 6 * inW d * inH d

/-- Bytes of a line of RAW_FMT as CSI-2 packs it (08 R237, log 27). -/
def lineBytes (fmt w : Nat) : Nat :=
  if fmt = 0 then w
  else if fmt = 1 then cdiv (w * 10) 8
  else if fmt = 2 then cdiv (w * 12) 8
  else if fmt = 3 then cdiv (w * 14) 8
  else 2 * w

/-- The spans of IMG.PROC. -/
def imgSpans (d : Desc) : List (Nat × Nat) :=
  ringSpans d (imgSlot d) ++ [(64 * fld d 320 48, 2176), (64 * fld d 368 48, stageBytes d)] ++
    (if fld d 87 1 = 1 then [(64 * fld d 416 48, tableBytes d)] else [])

/-- The first failing check of an arming (08 R236, R241, R243, 10 R301). -/
def imgCheck (p : Part) (c : Ctl) (off n : Nat) (d : Desc) : Option Nat :=
  let src := fld d 66 2
  let fmt := fld d 80 4
  let out := fld d 88 4
  let remap := decide (fld d 87 1 = 1)
  let others := c.img.filter fun e => armed e.2 && decide (e.1 ≠ n)
  if src = 3 ∨ 8 ≤ fmt ∨ !(out = 1 ∨ out = 2 ∨ out = 4 ∨ out = 5) then some 1
  else if (src = 1) ≠ (fmt = 6 ∨ fmt = 7) then some 4
  else match spanCheck p c off (imgSpans d) with
    | some x => some x
    | none =>
      if others.any fun e => decide (armSource e.2.arm = src) && decide (imgSrc e.2.arm.desc = imgSrc d) then some 6
      else if armCapacity 3 < othersLoad c 3 n + armLoad 3 d ∨
          (src = 0 ∧ 16 ≤ (others.filter fun e => decide (armSource e.2.arm = 0)).length) ∨
          (remap ∧ remapStore < othersTables c n + tableBytes d) then some 7
      else if !remap ∧ (outW d ≠ inW d ∨ outH d ≠ inH d) then some 10
      else none

/-- Parameters and table of an arming. -/
def imgArm (v : View) (r : Ref) (number : Nat) (d : Desc) : Arm :=
  { desc := d
    queue := r.q
    number := number
    params := devBytes v.mems (64 * fld d 320 48) 2176
    table := if fld d 87 1 = 1 then devBytes v.mems (64 * fld d 416 48) (tableBytes d) else [] }

/-- IMG.PROC with OP = ARM; a reserved OP is INVALID under either row (08 R243). -/
def imgProcArm (r : Ref) (u : Upset) (v : View) (c : Ctl) : Ctl :=
  match ready c r 3 0 with
  | none => c
  | some m =>
    let p := v.part
    let d := m.desc
    let n := fld d 68 6
    let c0 := noteClamp p (anyClamped d (imgFields d)) c
    if fld d 64 2 = 1 then c
    else if fld d 66 2 = 1 && !hasVd p then settle p (resolve r 2 0 false c)
    else if 2 ≤ fld d 64 2 then invalid p r 1 c0
    else match imgCheck p c m.off n d with
      | some x => invalid p r x c0
      | none =>
        engineRun v r 0x2B 10 u
          ([(64 * fld d 320 48, 2176)] ++ (if fld d 87 1 = 1 then [(64 * fld d 416 48, tableBytes d)] else []))
          id (armStream p r 3 n (imgArm v r (nextArming c 3 n) d) fun s =>
            let old := getS c 3 n
            let same := decide (fld d 66 2 = 1) && decide (armSource old.arm = 1) && decide (imgSrc old.arm.desc = imgSrc d)
            { s with
              cur := if old.state = .running then s.cur else none
              started := false
              pics := if old.state = .running && same then s.pics else [] }) c0

/-- IMG_PROC_ARM (08 R232). -/
def execImgProcArm (r : Ref) (u : Upset) (s : State) : Host.Outcome State Fault Refusal := act s (imgProcArm r u)

/-- IMG.PROC with OP = STOP. -/
def imgProcStop (r : Ref) (v : View) (c : Ctl) : Ctl :=
  match ready c r 3 0 with
  | none => c
  | some m =>
    let p := v.part
    let d := m.desc
    if fld d 64 2 = 0 then c
    else if fld d 66 2 = 1 && !hasVd p then settle p (resolve r 2 0 false c)
    else if 2 ≤ fld d 64 2 then invalid p r 1 c
    else stopStream p r 3 (fld d 68 6) c

/-- IMG_PROC_STOP (08 R232). -/
def execImgProcStop (r : Ref) (s : State) : Host.Outcome State Fault Refusal := act s (imgProcStop r)

/-! ## CSI-2 receivers (08 R237, R238) -/

/-- A live camera stream receives channel `ch`: the one under which a frame is in progress, else the armed one that names
it. A stream armed again while RUNNING finishes its frame on the old channel first (R232); a HALTED one is armed (log 59). -/
def receives (s : Stream) (ch : Nat) : Bool :=
  let names := fun (a : Arm) => decide (armSource a = 0) && decide (imgSrc a.desc = ch)
  match s.cur with
  | some x => armed s && names x.arm
  | none => armed s && names s.arm

/-- The live stream that takes a channel of a port that receives: one with a frame in progress on it comes first. -/
def csiStream (p : Part) (c : Ctl) (port vc : Nat) : Option Nat :=
  if port < 4 ∧ vc < 16 ∧ (effVal p c 0x2304 (port + 1)).testBit 16 ∧ enginesRun c ∧ pdOn c 41 then
    let l := c.img.filter fun e => receives e.2 (16 * port + vc)
    ((l.find? fun e => e.2.cur.isSome).orElse fun _ => l.head?).map Prod.fst
  else none

/-- A packet of a channel: header check, then `f` on the stream (08 R238). A HALTED stream does not halt again. -/
def csiPacket (port vc : Nat) (h : HdrErr) (f : Nat → Stream → Ctl → Ctl) (v : View) (c : Ctl) : Ctl :=
  match csiStream v.part c port vc with
  | none => c
  | some n =>
    let s := getS c 3 n
    match h with
    | .bad => if s.state = .running then haltLive v.part 3 n 1 (standing s (now c)) c else modS 3 n (fun s => { s with cur := none }) c
    | .corrected => f n s (bump v.part 0x2300 5 64 1 c)
    | .ok => f n s c

/-- A corrupt frame: a RUNNING stream halts, once its first frame has begun; of a HALTED one the frame is no complete input
(08 R238, R252, R257). -/
def csiCorrupt (p : Part) (n cause : Nat) (s : Stream) (c : Ctl) : Ctl :=
  if s.state ≠ .running then modS 3 n (fun s => { s with cur := none }) c
  else if s.started ∨ s.cur.isSome then haltLive p 3 n cause (standing s (now c)) c
  else c

/-- A frame-start stamp (09 R277): the captured value less CsiStampOffset of the port, in ns. -/
def csiStamp (p : Part) (c : Ctl) (port : Nat) (raw : Word64) : Nat :=
  (((raw.toNat : Int) - sgn 32 (effVal p c 0x2205 (port + 1)) * 65536) % 2 ^ 64).toNat

/-- CSI2_FRAME_START (08 R238): begins a sample; inside a frame it is CSI_SHAPE. -/
def frameStart (port vc num : Nat) (h : HdrErr) (raw : Word64) : View → Ctl → Ctl := fun v =>
  csiPacket port vc h (fun n s c =>
    let x : Sample := { arm := s.arm, seq := s.seq, stamp := csiStamp v.part c port raw, epoch := c.time.epoch, num := num, info0 := num }
    if s.state = .running ∧ s.cur.isSome then csiCorrupt v.part n 3 s c
    else modS 3 n (fun s =>
      { s with
        cur := some x
        seq := if s.state = .running then s.seq + 1 else s.seq
        started := s.started || decide (s.state = .running) }) c) v

/-- CSI2_FRAME_START (08 R238). -/
def execCsi2FrameStart (port vc num : Nat) (h : HdrErr) (raw : Word64) (s : State) : Host.Outcome State Fault Refusal :=
  act s (frameStart port vc num h raw)

/-- CSI-2 data types of RAW_FMT 0 to 5 (log 27). -/
def dataType (fmt : Nat) : Nat := if fmt = 5 then 0x1E else 0x2A + fmt

/-- Null, blanking and embedded data (08 R238, log 27). -/
def ignoredType (t : Nat) : Bool := decide (0x10 ≤ t) && decide (t ≤ 0x12)

/-- A line of a frame (08 R238, R239 stages 1 to 5): the stage buffer is written, in a layout that the spec
does not give, so its bytes are free values. -/
def longPacket (port vc dtype : Nat) (payload : List Byte) (h : HdrErr) (crcOk : Bool) : View → Ctl → Ctl := fun v =>
  csiPacket port vc h (fun n s c =>
    if ignoredType dtype then c
    else if !crcOk then csiCorrupt v.part n 2 s c
    else match s.cur with
      | none => csiCorrupt v.part n 3 s c
      | some x =>
        let d := x.arm.desc
        if dtype ≠ dataType (fld d 80 4) ∨ payload.length ≠ lineBytes (fld d 80 4) (inW d) ∨ inH d ≤ x.lines.length then
          csiCorrupt v.part n 3 s c
        else
          let c1 := modS 3 n (fun s => { s with cur := some { x with lines := x.lines ++ [payload] } }) c
          if s.state = .running then postUndef (64 * fld d 368 48) (stageBytes d) c1 else c1) v

/-- CSI2_LONG_PACKET (08 R238). -/
def execCsi2LongPacket (port vc dtype : Nat) (payload : List Byte) (h : HdrErr) (crcOk : Bool) (s : State) :
    Host.Outcome State Fault Refusal := act s (longPacket port vc dtype payload h crcOk)

/-- CSI2_FRAME_END (08 R238): a whole frame of an armed live stream is journalled (08 R257); of a RUNNING one it waits for
stages 6 and 7. -/
def frameEnd (port vc num : Nat) (h : HdrErr) : View → Ctl → Ctl := fun v =>
  csiPacket port vc h (fun n s c =>
    match s.cur with
    | none => csiCorrupt v.part n 3 s c
    | some x =>
      if num ≠ x.num ∨ x.lines.length ≠ inH x.arm.desc then csiCorrupt v.part n 3 s c
      else
        record v.part 0 (16 * port + vc) x.stamp x.epoch x.lines.flatten
          (modS 3 n (fun s => { s with cur := none, done := if s.state = .running then s.done ++ [x] else s.done }) c)) v

/-- CSI2_FRAME_END (08 R238). -/
def execCsi2FrameEnd (port vc num : Nat) (h : HdrErr) (s : State) : Host.Outcome State Fault Refusal :=
  act s (frameEnd port vc num h)

/-! ## The stages (08 R239, R240) -/

/-- Byte `i` of a line. -/
def lineByte (l : List Byte) (i : Nat) : Nat := (l.getD i 0).toNat

/-- Little-endian number of `k` bytes at `i` of a byte list. -/
def fieldAt (l : List Byte) (i k : Nat) : Nat := ofLE ((l.drop i).take k)

/-- Stage 1: pixel `x` of a raw line, shifted to 16 bits (log 27). -/
def rawPixel (fmt : Nat) (l : List Byte) (x : Nat) : Nat :=
  match fmt with
  | 0 => lineByte l x * 256
  | 1 => (lineByte l (5 * (x / 4) + x % 4) * 4 + bitsN (lineByte l (5 * (x / 4) + 4)) (2 * (x % 4)) 2) * 64
  | 2 => (lineByte l (3 * (x / 2) + x % 2) * 16 + bitsN (lineByte l (3 * (x / 2) + 2)) (4 * (x % 2)) 4) * 16
  | 3 => (lineByte l (7 * (x / 4) + x % 4) * 64 + bitsN (fieldAt l (7 * (x / 4) + 4) 3) (6 * (x % 4)) 6) * 4
  | _ => fieldAt l (2 * x) 2

/-- Stages 2 and 3 with the parameter block. -/
def balance (params : List Byte) (q v : Nat) : Nat :=
  min 65535 (((v - fieldAt params (2 * q) 2) * fieldAt params (8 + 2 * q) 2 + 2048) / 4096)

/-- Stage 5: the tone table at a 16-bit value. -/
def tone (params : List Byte) (v : Nat) : Nat :=
  let i := v / 64
  let a := fieldAt params (64 + 2 * i) 2
  let b := fieldAt params (66 + 2 * i) 2
  ((a : Int) + (((b : Int) - a) * (v % 64 : Nat) + 32) / 64).toNat

/-- Luma and chroma of a pixel: YUV422 lines hold U Y V Y (log 27); NV12 and P010 hold luma rows, then
rows of interleaved chroma pairs (08 R246). -/
def lumaAt (fmt : Nat) (lines : List (List Byte)) (y x : Nat) : Nat :=
  if fmt = 5 then lineByte (lines.getD y []) (4 * (x / 2) + 1 + 2 * (x % 2))
  else if fmt = 6 then lineByte (lines.getD y []) x
  else fieldAt (lines.getD y []) (2 * x) 2

/-- Chroma pair `cx` of chroma row `cy`. -/
def chromaAt (fmt h : Nat) (lines : List (List Byte)) (cy cx : Nat) : Nat × Nat :=
  if fmt = 5 then (lineByte (lines.getD cy []) (4 * cx), lineByte (lines.getD cy []) (4 * cx + 2))
  else if fmt = 6 then (lineByte (lines.getD (h + cy) []) (2 * cx), lineByte (lines.getD (h + cy) []) (2 * cx + 1))
  else (fieldAt (lines.getD (h + cy) []) (4 * cx) 2, fieldAt (lines.getD (h + cy) []) (4 * cx + 2) 2)

/-- A grid position displaced by (i - k, j - k), if inside. -/
def around (h w k y x i j : Nat) : Option (Nat × Nat) :=
  if k ≤ y + i ∧ y + i < h + k ∧ k ≤ x + j ∧ x + j < w + k then some (y + i - k, x + j - k) else none

/-- A limited-range code as 16 bits: 8-bit codes stand in the high byte, P010 holds its codes so (log 27). -/
def code16 (fmt v : Nat) : Int := if fmt = 7 then v else 256 * v

/-- 10⁶ times the ITU-R BT.709 coefficients of Cb and Cr in R, G and B (08 R239, log 27). -/
def bt709 (ch : Nat) : Int × Int := if ch = 0 then (0, 1574800) else if ch = 1 then (-187324, -468124) else (1855600, 0)

/-- A channel by the limited-range matrix, in units of 1 / `full` of full scale, rounded down: luma spans 219 codes from 16,
chroma 224 codes about 128. -/
def matrix709 (full : Int) (ch : Nat) (y cb cr : Int) : Int :=
  let k := bt709 ch
  full * ((y - 4096) * 57344 * 1000000 + (k.1 * (cb - 32768) + k.2 * (cr - 32768)) * 56064) / (56064 * 57344 * 1000000)

/-- RGB of a YUV pixel (08 R239): the BT.709 limited-range matrix of its luma and of its chroma, interpolated from the
samples around it. The rule that interpolates, scales to 16 bits (65,280 to 65,536 for full scale) and rounds is fixed but
not given: the result is free among what these leave possible (log 10). -/
def yuvChannel (lvl fmt place ch y : Nat) (chroma : List (Option (Nat × Nat))) : Nat :=
  let cs : List (Int × Int) := (chroma.filterMap id).map fun q => (code16 fmt q.1, code16 fmt q.2)
  let all := fun (full : Int) => cs.flatMap fun a => cs.map fun b => matrix709 full ch (code16 fmt y) a.1 b.2
  let put := fun (z : Int) => (max 0 (min 65535 z)).toNat
  let lo := put (((all 65280).min?.getD 0) - 1)
  let hi := put (((all 65536).max?.getD 0) + 2)
  lo + Config.yuvToRgb lvl fmt place ch y chroma % (hi + 1 - lo)

/-- BT.709 luma of three FP32 values, 0.2126 R + 0.7152 G + 0.0722 B (08 R239, log 27): its rounding is not given, so it is
an FP32 value within one unit of the exact one, or within two units in its last place (log 10). -/
def luma709 (lvl : Nat) (rgb : List Nat) : Nat :=
  let term := fun (k w : Nat) => (Num.fin false k 0).mul (dec32 w)
  let sum := ((term 2126 (rgb.getD 0 0)).add (term 7152 (rgb.getD 1 0))).add (term 722 (rgb.getD 2 0))
  let exact := quotNum sum (.fin false 10000 0)
  let k := (Config.luma lvl (rgb.map (BitVec.ofNat 32))).toNat
  match exact, dec32 k with
  | .fin _ _ _, .fin s m e =>
    if twoUlp exact k || !(Num.fin false 1 0).lt ((Num.fin s m e).add exact.negate).abs then k else enc32 exact
  | _, _ => enc32 exact

/-- Stages 1 to 4: channel `ch` (0 R, 1 G, 2 B) of pixel (y, x). -/
def colour (lvl : Nat) (a : Arm) (lines : List (List Byte)) (y x ch : Nat) : Nat :=
  let d := a.desc
  let fmt := fld d 80 4
  let h := inH d
  let w := inW d
  if fmt < 5 then
    (Config.demosaic lvl (fld d 84 2) (2 * (y % 2) + x % 2) ch
      ((List.range 25).map fun k => (around h w 2 y x (k / 5) (k % 5)).map fun q =>
        balance a.params (2 * (q.1 % 2) + q.2 % 2) (rawPixel fmt (lines.getD q.1 []) q.2))).toNat
  else
    let cy := if fmt = 5 then y else y / 2
    let ch2 := if fmt = 5 then h else cdiv h 2
    yuvChannel lvl fmt (if fmt = 5 then x % 2 else 2 * (y % 2) + x % 2) ch (lumaAt fmt lines y x)
      ((List.range 9).map fun k => (around ch2 (cdiv w 2) 1 cy (x / 2) (k / 3) (k % 3)).map fun q => chromaAt fmt h lines q.1 q.2)

/-- What stages 1 to 5 leave in the stage buffer. -/
def staged (lvl : Nat) (a : Arm) (lines : List (List Byte)) (y x ch : Nat) : Nat := tone a.params (colour lvl a lines y x ch)

/-- Entry (i, j) of the remap table (08 R240). -/
def remapEntry (a : Arm) (i j : Nat) : Nat :=
  fieldAt a.table (4 * (i * (cdiv (outW a.desc) (2 ^ clampN 2 6 (fld a.desc 168 4)) + 1) + j)) 4

/-- Source position of an output pixel in 1/8 pixels, none where an entry is invalid (08 R240). -/
def remapAt (a : Arm) (y x : Nat) : Option (Nat × Nat) :=
  let g := clampN 2 6 (fld a.desc 168 4)
  let s := 2 ^ g
  let es := [(0, 0), (0, 1), (1, 0), (1, 1)].map fun (q : Nat × Nat) =>
    (remapEntry a (y / s + q.1) (x / s + q.2),
     (if q.1 = 0 then s - y % s else y % s) * (if q.2 = 0 then s - x % s else x % s))
  if es.any fun e => decide (e.1 = 0xFFFFFFFF) then none
  else
    let pos := fun (lo : Nat) => (sumN (es.map fun e => e.2 * bitsN e.1 lo 16) + 2 ^ (2 * g - 1)) / 2 ^ (2 * g)
    some (pos 16, pos 0)

/-- Stage 6 (08 R240): channel `ch` of output pixel (y, x) as an FP32 encoding. -/
def remapped (lvl : Nat) (a : Arm) (lines : List (List Byte)) (y x ch : Nat) : Nat :=
  let px := fun (yy xx : Nat) => staged lvl a lines (min yy (inH a.desc - 1)) (min xx (inW a.desc - 1)) ch
  if fld a.desc 87 1 = 0 then ofInt32 (px y x : Nat)
  else match remapAt a y x with
    | none => fieldAt a.params (40 + 4 * ch) 4
    | some (sy, sx) =>
      let fx := sx % 8
      let fy := sy % 8
      let y0 := sy / 8
      let x0 := sx / 8
      ofInt32 ((((8 - fx) * (8 - fy) * px y0 x0 + fx * (8 - fy) * px y0 (x0 + 1) + (8 - fx) * fy * px (y0 + 1) x0 +
        fx * fy * px (y0 + 1) (x0 + 1) + 32) / 64 : Nat) : Int)

/-- Stage 7 (08 R239): output channel `ch` of pixel (y, x) in OUT_FMT. -/
def normalised (lvl : Nat) (a : Arm) (lines : List (List Byte)) (y x ch : Nat) : Fl Nat :=
  let v := if fld a.desc 86 1 = 1 then
      luma709 lvl ((List.range 3).map fun k => remapped lvl a lines y x k)
    else remapped lvl a lines y x ch
  convElem (fld a.desc 88 4) false (dec32 (fma32 v (fieldAt a.params (16 + 4 * ch) 4) (fieldAt a.params (28 + 4 * ch) 4)))

/-- The writes of a sample into its slot and the flags that its conversions raise (08 R243, 02 R69, R70). -/
def imgWrites (lvl : Nat) (x : Sample) : List (Nat × List Byte) × Nat :=
  let a := x.arm
  let d := a.desc
  let f := fld d 88 4
  let base := armOut a + imgSlot d * (x.seq % armSlots a)
  let pix := fun (y xx : Nat) => (List.range (outChans d)).map fun ch => normalised lvl a x.lines y xx ch
  let rows := (List.range (outH d)).map fun y => (List.range (outW d)).map fun xx => pix y xx
  let flags := flagsOf (rows.flatten.flatten)
  if fld d 92 1 = 1 then
    ((List.range (outH d)).flatMap (fun y => (List.range (outW d)).map fun xx =>
      (base + recordLen f * (y * outW d + xx), packElems f (tab 64 fun i => ((((rows.getD y []).getD xx []).getD i ⟨0, 0⟩).val)))), flags)
  else
    ((List.range (outChans d)).flatMap (fun ch => (List.range (outH d)).map fun y =>
      (base + outRow d * (ch * outH d + y), packElems f ((rows.getD y []).map fun e => (e.getD ch ⟨0, 0⟩).val))), flags)

/-- A failed check of an ingest engine (08 R254, 15 R436): reported, and its streams halt with cause FAULT. -/
def engineFails (p : Part) (unit : Nat) (rc : Rec) (c : Ctl) : Ctl :=
  haltEngine p unit 11 (raise p { rc with unit := unit } c)

/-- Run a step of an ingest engine: a data-path check that fails, or an injected one, ends it. -/
def engineStep (p : Part) (unit : Nat) (upset : Bool) (f : Ctl → Ctl) (c : Ctl) : Ctl :=
  if injected c [10] unit then engineFails p unit { mech := 10, injected := true } (useInjection c)
  else if upset then engineFails p unit { mech := 10 } c
  else f c

/-- IMG_SAMPLE_PRESENT (08 R239): the oldest complete frame goes through stages 6 and 7 into its slot. -/
def samplePresent (n : Nat) (upset : Bool) (v : View) (c : Ctl) : Ctl :=
  match (getS c 3 n).done with
  | [] => c
  | x :: rest =>
    if !enginesRun c ∨ !pdOn c 41 then c
    else engineStep v.part 0x2B upset (fun c =>
      let w := imgWrites v.part.arithLevel x
      present v.part 3 n x (raiseFlags v.part w.2 (postWrites w.1 (modS 3 n (fun s => { s with done := rest }) c)))) c

/-- IMG_SAMPLE_PRESENT (08 R239). -/
def execImgSamplePresent (n : Nat) (upset : Bool) (s : State) : Host.Outcome State Fault Refusal :=
  act s (samplePresent n upset)

/-- A frame number that no input gives: a free value (log 5). -/
def freeWord (c : Ctl) : Nat := ofLE (tab 4 fun i => Config.freeByte c.free i)

/-- IMG_DECODED_PICTURE (08 R246): the stream takes the oldest picture whose entry is written, as a frame of
its cropped size; a size other than IN_W × IN_H is CSI_SHAPE. -/
def decodedPicture (n : Nat) (v : View) (c : Ctl) : Ctl :=
  let s := getS c 3 n
  match s.pics with
  | [] => c
  | q :: rest =>
    if s.state ≠ .running ∨ !enginesRun c ∨ !pdOn c 41 then c
    else
      let d := s.arm.desc
      let b := if fld d 80 4 = 7 then 2 else 1
      let chroma := q.addr + q.stride * q.height
      let spans := ((List.range q.height).map fun y => (q.addr + q.stride * y, b * q.width)) ++
        (List.range (cdiv q.height 2)).map fun y => (chroma + q.stride * y, b * (2 * cdiv q.width 2))
      let x : Sample := { arm := s.arm, seq := s.seq, stamp := q.stamp, epoch := q.epoch, info0 := freeWord c,
                          lines := spans.map fun k => devBytes v.mems k.1 k.2 }
      let c1 := modS 3 n (fun s => { s with pics := rest }) c
      if q.width ≠ inW d ∨ q.height ≠ inH d then haltLive v.part 3 n 3 x c1
      else reading v none 0x2B .none spans (fun w c => engineFails v.part 0x2B (consumes 0x2B w) (report v.part none w c))
        (fun c => postUndef (64 * fld d 368 48) (stageBytes d)
          (modS 3 n (fun s => { s with seq := s.seq + 1, done := s.done ++ [x] }) { c with free := c.free + 1 })) c1

/-- IMG_DECODED_PICTURE (08 R246). -/
def execImgDecodedPicture (n : Nat) (s : State) : Host.Outcome State Fault Refusal := act s (decodedPicture n)

end Sys2Proof.Machine
end

