-- ==== Sys2Proof/Machine/Video.lean ====
section
/-! DEFINITION. Compressed video: the video decode engine (08 R231-R236, R244-R247, R252). The bitstream
standards lie outside the spec: what parsing finds is given by the environment, decoded bytes are free
values (log 11). -/

namespace Sys2Proof.Machine

/-! ## VD.DECODE -/

/-- Numeric fields of VD.DECODE. -/
def vdFields : List NumField :=
  [(68, 6, 0, 47), (96, 14, 1, 8192), (112, 14, 1, 8192), (128, 8, 1, 255), (240, 8, 1, 255), (368, 32, 1, 0xFFFFFFFF)]

/-- Bytes of the decoded-picture buffer. -/
def dpbBytes (d : Desc) : Nat := 64 * numF d (368, 32, 1, 0xFFFFFFFF)

/-- FLOW of an arming of the video or point-cloud engine. -/
def armFlow (a : Arm) : Nat := fld a.desc 80 8

/-- FlowEntry `f` (08 R251). -/
def flowEntry (p : Part) (c : Ctl) (f : Nat) : Nat := effVal p c (0x2330 + f / 64) (1 + f % 64)

/-- A FLOW is refused: its entry is not valid (DETAIL 10), or another armed stream of the same kind, live or
journal, names it (DETAIL 6; 08 R246). -/
def flowCheck (p : Part) (c : Ctl) (cls n : Nat) (d : Desc) : Option Nat :=
  let others := (c.vd.filter fun e => !(decide (cls = 2) && decide (e.1 = n))) ++ c.pts.filter fun e => !(decide (cls = 4) && decide (e.1 = n))
  if others.any fun e => armed e.2 && decide (armFlow e.2.arm = fld d 80 8) && decide ((armSource e.2.arm = 2) = (fld d 66 2 = 2)) then some 6
  else if !(flowEntry p c (fld d 80 8)).testBit 3 then some 10
  else none

/-- The lower of two failing checks. -/
def lowest (a b : Option Nat) : Option Nat :=
  match a, b with
  | some x, some y => some (min x y)
  | some x, none => some x
  | none, b => b

/-- The spans of VD.DECODE. -/
def vdSpans (d : Desc) : List (Nat × Nat) :=
  ringSpans d (picSlot { desc := d } (if fld d 74 1 = 1 then 10 else 8)) ++ [(64 * fld d 320 48, dpbBytes d)]

/-- The first failing check of an arming (08 R236, R246, 10 R301). -/
def vdCheck (p : Part) (c : Ctl) (off n : Nat) (d : Desc) : Option Nat :=
  let src := fld d 66 2
  if src = 1 ∨ src = 3 then some 1
  else lowest (spanCheck p c off (vdSpans d))
    (lowest (flowCheck p c 2 n d) (if armCapacity 2 < othersLoad c 2 n + armLoad 2 d then some 7 else none))

/-- What a stream keeps when it is re-armed while RUNNING: its samples in progress under the old arming (08 R232). -/
def keepBefore (old s : Stream) : Stream :=
  { old with
    state := s.state
    arm := s.arm
    seq := 0
    before := old.before ++ [old.present]
    cur := old.cur.map fun x => { x with begun := x.begun || (old.started && decide (x.arm.number = old.arm.number)) }
    units := old.units.map fun x => { x with begun := x.begun || (old.started && decide (x.arm.number = old.arm.number)) }
    started := false
    leading := false
    pictures := 0 }

/-- Armings under which no sample is in progress any more are over. -/
def endEras (s : Stream) : Stream :=
  { s with before := s.before.filter fun e => (s.cur.toList ++ s.units ++ s.done).any fun x => decide (x.arm.number = e.arm.number) }

/-- VD.DECODE with OP = ARM; a reserved OP is INVALID under either row. -/
def vdDecodeArm (r : Ref) (u : Upset) (v : View) (c : Ctl) : Ctl :=
  match ready c r 2 0 with
  | none => c
  | some m =>
    let p := v.part
    let d := m.desc
    let n := numF d (68, 6, 0, 47)
    let c0 := noteClamp p (anyClamped d vdFields) c
    if fld d 64 2 = 1 then c
    else if 2 ≤ fld d 64 2 then invalid p r 1 c0
    else match vdCheck p c m.off n d with
      | some x => invalid p r x c0
      | none =>
        let old := getS c 2 n
        engineRun v r 0x2A 10 u [] id (armStream p r 2 n { desc := d, queue := r.q, number := nextArming c 2 n }
          (fun s => if old.state = .running then endEras (keepBefore old s)
            else { state := s.state, cause := s.cause, arm := s.arm })) c0

/-- VD_DECODE_ARM (08 R232). -/
def execVdDecodeArm (r : Ref) (u : Upset) (s : State) : Host.Outcome State Fault Refusal := act s (vdDecodeArm r u)

/-- VD.DECODE with OP = STOP. -/
def vdDecodeStop (r : Ref) (v : View) (c : Ctl) : Ctl :=
  match ready c r 2 0 with
  | none => c
  | some m =>
    if fld m.desc 64 2 = 0 then c
    else if 2 ≤ fld m.desc 64 2 then invalid v.part r 1 c
    else stopStream v.part r 2 (numF m.desc (68, 6, 0, 47)) (noteClamp v.part (anyClamped m.desc [(68, 6, 0, 47)]) c)

/-- VD_DECODE_STOP (08 R232). -/
def execVdDecodeStop (r : Ref) (s : State) : Host.Outcome State Fault Refusal := act s (vdDecodeStop r)

/-! ## RTP (08 R244, R245) -/

/-- Big-endian number of `k` bytes at `i`. -/
def fieldBE (l : List Byte) (i k : Nat) : Nat := ofBE ((l.drop i).take k)

/-- An RTP packet of version 2 and no RTCP (08 R244, log 27). -/
def isRtp (l : List Byte) : Bool :=
  decide (12 ≤ l.length) && decide (fieldBE l 0 1 / 64 = 2) &&
    !(decide (64 ≤ fieldBE l 1 1 % 128) && decide (fieldBE l 1 1 % 128 ≤ 95))

/-- The engine takes datagrams: it is on, and work is not stopped. -/
def ingestRuns (c : Ctl) (domain : Nat) : Bool := enginesRun c && pdOn c domain

/-- Put a packet into the access unit in progress; a change of RTP timestamp and the marker bit end one
(08 R244). A gap before the packet marks the access units that it may have hit, with the packet's journal record. -/
def addPacket (g : Dgram) (gap : Bool) (s : Stream) : Stream :=
  let ts := fieldBE g.bytes 4 4
  let hit : Sample → Sample := fun x => if gap && !x.lost then { x with lost := true, record := g.record } else x
  let fresh : Sample := { arm := s.arm, stamp := g.stamp % 2 ^ 64, epoch := g.stamp / 2 ^ 64, num := ts, lost := gap, draw := g.draw, record := g.record }
  let s1 := match s.cur with
    | none => { s with cur := some fresh }
    | some x => if x.num = ts then { s with cur := some (hit x) } else { s with units := s.units ++ [hit x], cur := some fresh }
  if fieldBE g.bytes 1 1 / 128 = 1 then { s1 with units := s1.units ++ s1.cur.toList, cur := none } else s1

/-- A datagram is of an arming: its flow, from the same kind of source. -/
def ofArm (g : Dgram) (a : Arm) : Bool := decide (g.flow = armFlow a) && decide (g.journal = fromJournal a)

/-- The access unit in progress ends without a packet of its own. -/
def endUnit (s : Stream) : Stream := { s with units := s.units ++ s.cur.toList, cur := none, last := 0 }

/-- RTP_PACKET (08 R244, R245): a gap in the sequence numbers is PKT_LOSS at the access unit that it hits, once that has
ended, since a claim of its own has precedence (R247, log 28). The access unit in progress at a re-arming is finished from
the old flow; the new arming's flow is taken up after it (R232, log 59). -/
def rtpPacket (n : Nat) (c : Ctl) : Ctl :=
  let s := getS c 2 n
  match s.inbox with
  | [] => c
  | g :: rest =>
    if !ingestRuns c 40 then c
    else
      let c1 := modS 2 n (fun s => { s with inbox := rest }) c
      let seq := fieldBE g.bytes 2 2
      let add := modS 2 n (fun s =>
        addPacket g (decide (s.last ≠ 0) && decide (s.last % 65536 ≠ seq)) { s with last := seq + 1 })
      if s.state ≠ .running ∨ !isRtp g.bytes then c1
      else match s.cur with
        | some x =>
          if x.arm.number = s.arm.number then (if ofArm g s.arm then add c1 else c1)
          else if ofArm g x.arm then
            (if x.num = fieldBE g.bytes 4 4 ∨ ofArm g s.arm then add c1 else modS 2 n endUnit c1)
          else c1
        | none => if ofArm g s.arm then add c1 else c1

/-- RTP_PACKET (08 R245). -/
def execRtpPacket (n : Nat) (s : State) : Host.Outcome State Fault Refusal := act s fun _ c => rtpPacket n c

/-- A claimed size beyond the stream's or the device's limits, the level limits or the DPB (08 R246, R247). -/
def dimClaim (d : Desc) (u : AuParse) : Bool :=
  decide (numF d (96, 14, 1, 8192) < u.width) || decide (numF d (112, 14, 1, 8192) < u.height) || !u.levelOk ||
    decide (numF d (368, 32, 1, 0xFFFFFFFF) < u.dpbUnits)

/-- A bitstream that the engine does not decode (08 R244, R245). -/
def badStream (d : Desc) (u : AuParse) : Bool :=
  u.error || decide (u.width < u.cropW) || decide (u.height < u.cropH) ||
    !(decide (u.depth = 8) || (decide (u.depth = 10) && decide (fld d 74 1 = 1)))

/-- ACCESS_UNIT_END (08 R244-R247): the oldest access unit that has ended is skipped, halts the stream, or
gives a picture. -/
def accessUnit (n : Nat) (u : AuParse) (upset : Bool) (v : View) (c : Ctl) : Ctl :=
  let p := v.part
  let s := getS c 2 n
  match s.units with
  | [] => c
  | a :: rest =>
    if !ingestRuns c 40 ∨ s.state ≠ .running then c
    else engineStep p 0x2A upset (fun c =>
      let c1 := modS 2 n (fun s => { s with units := rest }) c
      let own := decide (a.arm.number = s.arm.number)
      let begun := if own then s.started else a.begun
      let d := a.arm.desc
      let at_ : Sample := { a with seq := s.seqOf a.arm }
      if (!begun && !u.randomAccess) || u.rasl then
        modS 2 n (fun s => endEras { s with leading := true }) (bump p 0x2300 6 64 1 c1)
      else if dimClaim d u then haltAt p 2 n 4 at_ c1
      else if a.lost then haltAt p 2 n 6 at_ c1
      else if badStream d u then haltAt p 2 n 5 at_ c1
      else
        let x : Sample := { a with num := u.order, width := u.cropW, height := u.cropH, depth := u.depth, pic := s.pictures }
        postUndef (64 * fld d 320 48) (dpbBytes d)
          (modS 2 n (fun s =>
            endEras { s with
              started := s.started || own
              pictures := s.pictures + 1
              done := if u.shown then s.done ++ [x] else s.done }) c1)) c

/-- ACCESS_UNIT_END (08 R244). -/
def execAccessUnitEnd (n : Nat) (u : AuParse) (upset : Bool) (s : State) : Host.Outcome State Fault Refusal :=
  act s (accessUnit n u upset)

/-! ## Output (08 R246) -/

/-- The picture to output next: of the oldest arming, the one first in output order. -/
def nextPicture : List Sample → Option Sample
  | [] => none
  | x :: l => match nextPicture l with
    | none => some x
    | some y =>
      if y.arm.number < x.arm.number ∨ (y.arm.number = x.arm.number ∧ y.num < x.num) then some y else some x

/-- Rows of a picture in its slot: luma, then interleaved chroma (08 R246). -/
def picWrites (n : Nat) (x : Sample) : List (Nat × List Byte) :=
  let a := x.arm
  let b := picBytes x.depth
  let base := armOut a + picSlot a x.depth * (x.seq % armSlots a)
  let row := fun (k len : Nat) => (base + picStride a x.depth * k, tab len fun i => Config.decodedByte n a.number x.pic (picStride a x.depth * k + i))
  ((List.range x.height).map fun k => row k (b * x.width)) ++
    (List.range (cdiv x.height 2)).map fun k => row (x.height + k) (b * (2 * cdiv x.width 2))

/-- VD_PICTURE_OUTPUT (08 R246): the next picture in output order goes to its slot with its status entry. -/
def pictureOutput (n : Nat) (v : View) (c : Ctl) : Ctl :=
  let s := getS c 2 n
  match nextPicture s.done with
  | none => c
  | some x =>
    if !ingestRuns c 40 ∨ s.state ≠ .running then c
    else
      let own := decide (x.arm.number = s.arm.number)
      let seq := s.seqOf x.arm
      let y : Sample := { x with seq := seq, flags := if own ∧ s.leading ∧ seq = 0 then 16 else 0, info0 := x.width, info1 := x.height + 65536 * x.depth }
      present v.part 2 n y (postWrites (picWrites n y) (modS 2 n (fun s =>
        endEras { s.modEra (s.eraOf x.arm) (fun e => { e with seq := e.seq + 1 }) with
          done := s.done.erase x
          leading := if own then false else s.leading }) c))

/-- VD_PICTURE_OUTPUT (08 R246). -/
def execVdPictureOutput (n : Nat) (s : State) : Host.Outcome State Fault Refusal := act s (pictureOutput n)

end Sys2Proof.Machine
end

