-- ==== Sys2Proof/Machine/Lidar.lean ====
section
/-! DEFINITION. Point clouds: the point-cloud engine (08 R231-R236, R247-R250, R252) and the columns that it
passes to the reflex path (14 R422, R423). -/

namespace Sys2Proof.Machine

/-! ## Parameters (08 R248) -/

/-- Numeric fields of PTS.VOXEL. -/
def ptsFields : List NumField :=
  [(88, 7, 1, 64), (96, 11, 1, 1024), (112, 11, 1, 1024), (128, 17, 1, 65536), (160, 16, 1, 40000), (240, 8, 1, 255), (464, 24, 1, 16777215)]

/-- BUF_POINTS. -/
def bufPoints (d : Desc) : Nat := numF d (464, 24, 1, 16777215)

/-- The lidar parameter block. -/
structure PtsParam where
  hdr : Nat
  rec_ : Nat
  recs : Nat
  coord : Nat
  timeSrc : Bool
  big : Bool
  xOff : Nat
  iOff : Nat
  dtOff : Nat
  timeOff : Nat
  seqOff : Nat
  colRecs : Nat
  unit : Nat
  dtUnit : Nat
  lag : Nat
  closeLag : Nat
  deriving DecidableEq, Repr

/-- Read it from its bytes; numeric fields clamp (10 R285). -/
def ptsParam (l : List Byte) : PtsParam :=
  { hdr := fieldAt l 0 2
    rec_ := clampN 4 1024 (fieldAt l 2 2)
    recs := clampN 1 4096 (fieldAt l 4 2)
    coord := bitsN (fieldAt l 6 1) 0 2
    timeSrc := bitN (fieldAt l 6 1) 2
    big := bitN (fieldAt l 6 1) 3
    xOff := fieldAt l 8 2
    iOff := fieldAt l 10 2
    dtOff := fieldAt l 12 2
    timeOff := fieldAt l 14 2
    seqOff := fieldAt l 16 2
    colRecs := clampN 1 4096 (fieldAt l 18 2)
    unit := fieldAt l 20 4
    dtUnit := fieldAt l 24 4
    lag := fieldAt l 28 4
    closeLag := min 10000 (fieldAt l 104 4) }

/-- Word `i` of the FP32 values of the block: A 0-8, B 9-11, X0 12, Y0 13, Z0 14, Z1 15, INV_CELL 16,
CELL 17. -/
def ptsWord (a : Arm) (i : Nat) : Nat := fieldAt a.params (32 + 4 * i) 4

/-- Bytes of a coordinate. -/
def coordBytes (q : PtsParam) : Nat := if q.coord = 0 then 2 else 4

/-- Bytes of a datagram. -/
def dgramBytes (q : PtsParam) : Nat := q.hdr + q.recs * q.rec_

/-- Some offset's field would pass the end of the datagram or record (08 R248). -/
def offsetsBad (q : PtsParam) : Bool :=
  decide (q.rec_ < q.xOff + 3 * coordBytes q) || (decide (q.iOff ≠ 0xFFFF) && decide (q.rec_ < q.iOff + 1)) ||
    decide (q.rec_ < q.dtOff + 4) || decide (dgramBytes q < q.timeOff + 8) ||
    (decide (q.seqOff ≠ 0xFFFF) && decide (dgramBytes q < q.seqOff + 2))

/-! ## PTS.VOXEL -/

/-- The spans of PTS.VOXEL. -/
def ptsSpans (d : Desc) : List (Nat × Nat) :=
  ringSpans d (ptsSlot d) ++
    [(64 * fld d 320 48, 128), (64 * fld d 368 48, 32 * max 1 (fld d 240 8)), (64 * fld d 416 48, 64 * bufPoints d)]

/-- The first failing check of an arming (08 R236, R250, 10 R301). -/
def ptsCheck (v : View) (c : Ctl) (off n : Nat) (d : Desc) : Option Nat :=
  let p := v.part
  let src := fld d 66 2
  let q := ptsParam (devBytes v.mems (64 * fld d 320 48) 128)
  if src = 1 ∨ src = 3 then some 1
  else match spanCheck p c off (ptsSpans d) with
    | some 5 => if q.coord = 3 ∧ inDevice p c (64 * fld d 320 48) 128 then some 1 else some 5
    | x => if q.coord = 3 then some 1
      else lowest x (lowest (flowCheck p c 4 n d)
        (if armCapacity 4 < othersLoad c 4 n + armLoad 4 d then some 7 else if offsetsBad q then some 10 else none))

/-- First fusion window that starts after a full time (09 R265). -/
def nextWindow (c : Ctl) (t : Nat) : Nat := boundaryAfter c.time.period c.time.phase t

/-- The clock of an arming (08 R249, 13 R385): fusion time, or the replay clock. -/
def eraClock (c : Ctl) (journal : Bool) : Nat := if journal then c.journal.clock else fullTime c.time

/-- Samples are in progress under an earlier arming: windows of live time that have begun, or points of recorded time. -/
def eraOpen (e : Era) : Bool :=
  if fromJournal e.arm then !e.pts.isEmpty || !e.overs.isEmpty else decide (e.win < e.stop)

/-- A point-cloud stream is armed: a live one starts at the next whole fusion window, and one that was RUNNING
finishes its open windows under the old arming (08 R232). -/
def armPts (c : Ctl) (old : Stream) (a : Arm) (s : Stream) : Stream :=
  let stop := nextWindow c (eraClock c (fromJournal old.arm))
  let live := if fromJournal a then 0 else nextWindow c (fullTime c.time)
  if old.state = .running then
    let first := if fromJournal a ∧ fromJournal old.arm then stop else live
    { old with
      arm := a
      seq := 0
      first := first
      win := first
      pts := []
      overs := []
      late := 0
      last := if armFlow a = armFlow old.arm ∧ fromJournal a = fromJournal old.arm then old.last else 0
      before := (old.before ++ [{ old.present with stop := stop }]).filter eraOpen }
  else { state := .running, cause := s.cause, arm := a, done := old.done, win := live, first := live }

/-- PTS.VOXEL with OP = ARM; a reserved OP is INVALID under either row. -/
def ptsVoxelArm (r : Ref) (u : Upset) (v : View) (c : Ctl) : Ctl :=
  match ready c r 4 0 with
  | none => c
  | some m =>
    let p := v.part
    let d := m.desc
    let n := fld d 68 3
    let c0 := noteClamp p (anyClamped d ptsFields) c
    if fld d 64 2 = 1 then c
    else if 2 ≤ fld d 64 2 then invalid p r 1 c0
    else match ptsCheck v c m.off n d with
      | some x => invalid p r x c0
      | none =>
        let a : Arm := { desc := d, queue := r.q, number := nextArming c 4 n, params := devBytes v.mems (64 * fld d 320 48) 128 }
        engineRun v r 0x2C 10 u [(64 * fld d 320 48, 128)] id
          (armStream p r 4 n a fun s => armPts c (getS c 4 n) a s) c0

/-- PTS_VOXEL_ARM (08 R232). -/
def execPtsVoxelArm (r : Ref) (u : Upset) (s : State) : Host.Outcome State Fault Refusal := act s (ptsVoxelArm r u)

/-- PTS.VOXEL with OP = STOP. -/
def ptsVoxelStop (r : Ref) (v : View) (c : Ctl) : Ctl :=
  match ready c r 4 0 with
  | none => c
  | some m =>
    if fld m.desc 64 2 = 0 then c
    else if 2 ≤ fld m.desc 64 2 then invalid v.part r 1 c
    else stopStream v.part r 4 (fld m.desc 68 3) c

/-- PTS_VOXEL_STOP (08 R232). -/
def execPtsVoxelStop (r : Ref) (s : State) : Host.Outcome State Fault Refusal := act s (ptsVoxelStop r)

/-! ## Datagrams (08 R247, R248) -/

/-- Start of the fusion window that holds a full time (09 R265, R266). -/
def windowStart (c : Ctl) (t : Nat) : Nat :=
  if t < c.time.phase then 0 else c.time.phase + (t - c.time.phase) / c.time.period * c.time.period

/-- Place among `eras` of the arming whose window starts at `w`: an earlier one of the same kind, live or journal, while its
windows last; else the present one, from its first window on. -/
def eraAt (s : Stream) (journal : Bool) (w : Nat) : Option Nat :=
  (s.before.findIdx? fun e => decide (fromJournal e.arm = journal) && decide (w < e.stop)).orElse fun _ =>
    if fromJournal s.arm = journal ∧ s.first ≤ w then some s.before.length else none

/-- A field of a datagram. -/
def dgField (q : PtsParam) (l : List Byte) (i k : Nat) : Nat := if q.big then fieldBE l i k else fieldAt l i k

/-- Coordinate `k` of a record as an FP32 encoding (08 R248): counts are converted and multiplied by UNIT. -/
def coordAt (q : PtsParam) (l : List Byte) (base k : Nat) : Nat :=
  let w := dgField q l (base + q.xOff + coordBytes q * k) (coordBytes q)
  if q.coord = 2 then w else mul32 (ofInt32 (sgn (8 * coordBytes q) w)) q.unit

/-- The base time of a datagram as a value, none when the conversion fails (08 R248, 09 R279, 13 R385): network time is
converted with the offset at its receive stamp. -/
def baseTime (q : PtsParam) (g : Dgram) : Option Nat :=
  if q.timeSrc then some ((g.stamp + 2 ^ 64 - q.lag % 2 ^ 64) % 2 ^ 64)
  else g.offset.map fun o => ((((dgField q g.bytes q.timeOff 8 * 65536 : Nat) : Int) - o) % 2 ^ 64).toNat

/-- The points of a datagram, in record order. -/
def pointsOf (c : Ctl) (clock base : Nat) (q : PtsParam) (l : List Byte) : List Pt :=
  tab q.recs fun i =>
    let at_ := q.hdr + q.rec_ * i
    let t := (base + dgField q l (at_ + q.dtOff) 4 * q.dtUnit) % 2 ^ 64
    let full := ((clock : Int) + diff t (clock % 2 ^ 64)).toNat
    { x := coordAt q l at_ 0
      y := coordAt q l at_ 1
      z := coordAt q l at_ 2
      intensity := if q.iOff = 0xFFFF then 0 else lineByte l (at_ + q.iOff)
      time := full
      win := windowStart c full }

/-- A coordinate is not finite. -/
def badCoord (w : Nat) : Bool := decide (bitsN w 23 8 = 255)

/-- Place a point among those of an arming (08 R248, R249): late it is dropped and noted; beyond the buffer of its window,
or of a third window, it is dropped. -/
def placeIn (period clock : Nat) (x : Pt) (e : Era) : Era :=
  let lag := (ptsParam e.arm.params).closeLag * us
  let inWin := (e.pts.filter fun y => decide (y.win = x.win)).length
  let wins := ((e.pts.map Pt.win).filter fun w => decide (w ≠ x.win)).dedup.length
  if x.win < e.win ∨ x.win + period + lag ≤ clock then { e with late := e.late + 1 }
  else if bufPoints e.arm.desc ≤ inWin ∨ 2 ≤ wins then { e with overs := e.overs ++ [x.win] }
  else { e with pts := e.pts ++ [x] }

/-- Place a point: before the stream's first window it is no one's. -/
def placePoint (journal : Bool) (period clock : Nat) (x : Pt) (s : Stream) : Stream :=
  match eraAt s journal x.win with
  | some k => s.modEra k (placeIn period clock x)
  | none => s

/-- The counter of a flow has been read in a datagram. -/
def noteCounter (flow : Nat) (journal : Bool) (n : Nat) (s : Stream) : Stream :=
  (List.range s.eras.length).foldl (fun s k => s.modEra k fun e =>
    if armFlow e.arm = flow ∧ fromJournal e.arm = journal then { e with last := n } else e) s

/-- q = A·p + b (08 R249): component `i`. -/
def placeQ (a : Arm) (e : Pt) (i : Nat) : Nat :=
  fma32 (ptsWord a (3 * i + 2)) e.z (fma32 (ptsWord a (3 * i + 1)) e.y (fma32 (ptsWord a (3 * i)) e.x (ptsWord a (9 + i))))

/-- Complete columns leave the run of records (08 R250); `k` bounds their number. -/
def passColumns (n cols : Nat) : Nat → Ctl → Ctl
  | 0, c => c
  | k + 1, c =>
    let s := getS c 4 n
    if s.column.length < cols then c
    else passColumns n cols k
      (modSafety (fun t => { t with columns := t.columns ++ [(n, s.columns % 4096, s.column.take cols)] })
        (modS 4 n (fun s => { s with column := s.column.drop cols, columns := s.columns + 1 }) c))

/-- The records of a datagram go to the reflex path, uncompensated (08 R250, 14 R423). -/
def feedReflex (n : Nat) (a : Arm) (q : PtsParam) (l : List Pt) (c : Ctl) : Ctl :=
  if fld a.desc 74 1 = 0 then c
  else passColumns n q.colRecs (l.length + 1)
    (modS 4 n (fun s => { s with column := s.column ++ l.map fun e => { e with x := placeQ a e 0, y := placeQ a e 1, z := placeQ a e 2 } }) c)

/-- The record count that a datagram's length implies is beyond its stream's (08 R247). -/
def recsClaim (q : PtsParam) (len : Nat) : Bool := decide (q.recs < (len - q.hdr) / q.rec_)

/-- What is wrong with a datagram, or its points (08 R247, R248). -/
def readDatagram (c : Ctl) (e : Era) (q : PtsParam) (g : Dgram) : Sum Nat (List Pt) :=
  let len := g.bytes.length
  let clock := eraClock c g.journal
  if recsClaim q len then .inl 4
  else if len ≠ dgramBytes q then .inl 7
  else if q.seqOff ≠ 0xFFFF ∧ e.last ≠ 0 ∧ e.last % 65536 ≠ dgField q g.bytes q.seqOff 2 then .inl 6
  else match baseTime q g with
    | none => .inl 8
    | some base =>
      let l := pointsOf c clock base q g.bytes
      if q.coord = 2 ∧ (l.any fun x => badCoord x.x || badCoord x.y || badCoord x.z) then .inl 7
      else if l.any fun x => decide (clock + c.time.period < x.time) then .inl 8
      else .inr l

/-- LIDAR_DATAGRAM (08 R248): the oldest datagram of the stream, under the arming of the window in which it arrived; one
from before the stream's first window is no sample's (R232). -/
def lidarDatagram (n : Nat) (v : View) (c : Ctl) : Ctl :=
  let s := getS c 4 n
  match s.inbox with
  | [] => c
  | g :: rest =>
    if !ingestRuns c 42 then c
    else
      let c1 := modS 4 n (fun s => { s with inbox := rest }) c
      let k := eraAt s g.journal (windowStart c g.stamp)
      let e := s.eras.getD (k.getD s.before.length) s.present
      let a := e.arm
      let q := ptsParam a.params
      if s.state ≠ .running ∨ fromJournal a ≠ g.journal then c1
      else match readDatagram c e q g with
        | .inl cause =>
          if k.isNone then c1
          else haltAt v.part 4 n cause { standingWindow s g.journal with draw := g.draw, record := g.record } c1
        | .inr l =>
          let count := if q.seqOff = 0xFFFF then 0 else dgField q g.bytes q.seqOff 2 + 1
          feedReflex n a q l (postUndef (64 * fld a.desc 416 48) (64 * bufPoints a.desc)
            (modS 4 n (fun s => l.foldl (fun s x => placePoint g.journal c.time.period (eraClock c g.journal) x s)
              (noteCounter g.flow g.journal count s)) c1))

/-- LIDAR_DATAGRAM (08 R248). -/
def execLidarDatagram (n : Nat) (s : State) : Host.Outcome State Fault Refusal := act s (lidarDatagram n)

/-! ## Windows (08 R249, R250) -/

/-- The FP32 value nearest 2⁻¹⁶ × 10⁻⁹. -/
def tick32 : Nat := 0x2889705F

/-- A compensated point: q′, dt, cell indices, intensity. -/
structure Voxel where
  q : List Nat
  dt : Nat
  cell : Nat
  intensity : Nat
  deriving DecidableEq, Repr

/-- ⌊x⌋ of an FP32 encoding, none when it is not finite. -/
def floor32 (w : Nat) : Option Int :=
  match dec32 w with
  | .fin s m e =>
    let k : Int := if 0 ≤ e then (m : Int) * 2 ^ e.toNat else (m / 2 ^ (-e).toNat : Nat)
    let exact := decide (0 ≤ e) || decide (m % 2 ^ (-e).toNat = 0)
    some (if s then (if exact then -k else -k - 1) else k)
  | _ => none

/-- Component of a three-vector. -/
def comp (l : List Nat) (i : Nat) : Nat := l.getD (i % 3) 0

/-- Compensate a point of the window that ends at `stop` (08 R249); none when it is dropped. -/
def compensate (a : Arm) (vel omega : List Nat) (stop : Nat) (e : Pt) : Option Voxel :=
  let q := [placeQ a e 0, placeQ a e 1, placeQ a e 2]
  let dt := mul32 (ofInt32 ((stop : Int) - e.time)) tick32
  let cr := fun (i : Nat) => sub32 (mul32 (comp omega (i + 1)) (comp q (i + 2))) (mul32 (comp omega (i + 2)) (comp q (i + 1)))
  let q' := (List.range 3).map fun i => fma32 (neg32 dt) (add32 (comp vel i) (cr i)) (comp q i)
  let cell := fun (k org : Nat) => floor32 (mul32 (sub32 (comp q' k) (ptsWord a org)) (ptsWord a 16))
  let z := comp q' 2
  let inZ := !(lt32 z (ptsWord a 14)) && lt32 z (ptsWord a 15)
  match cell 0 12, cell 1 13 with
  | some ix, some iy =>
    if (q' ++ [dt]).any nan32 ∨ nan32 (ptsWord a 14) ∨ ix < 0 ∨ (numF a.desc (96, 11, 1, 1024) : Int) ≤ ix ∨ iy < 0 ∨
        (numF a.desc (112, 11, 1, 1024) : Int) ≤ iy ∨ !inZ then none
    else some ⟨q', dt, iy.toNat * numF a.desc (96, 11, 1, 1024) + ix.toNat, e.intensity⟩
  | _, _ => none

/-- FP32 of `i` + 0.5. -/
def half32 (i : Nat) : Nat := enc32 (.fin false (2 * i + 1) (-1))

/-- The eight features of a point (08 R250) in OUT_FMT. -/
def features (a : Arm) (x : Voxel) : List (Fl Nat) :=
  let w := numF a.desc (96, 11, 1, 1024)
  let centre := fun (i org : Nat) => fma32 (half32 i) (ptsWord a 17) (ptsWord a org)
  let f := if fld a.desc 75 1 = 1 then fFP16 else fBF16
  ([comp x.q 0, comp x.q 1, comp x.q 2, ofInt32 (x.intensity : Nat), x.dt, sub32 (comp x.q 0) (centre (x.cell % w) 12),
    sub32 (comp x.q 1) (centre (x.cell / w) 13), 0] : List Nat).map fun k => convFp f false (dec32 k)

/-- A closed window as its slot takes it (08 R250): bytes, status flags, pillars, points, conversion flags. -/
def windowOut (a : Arm) (vel omega : List Nat) (motion : Bool) (stop : Nat) (pts : List Pt) (lost late : Nat) :
    List Byte × Nat × Nat × Nat × Nat :=
  let d := a.desc
  let vox := pts.filterMap (compensate a vel omega stop)
  let cells := vox.foldl (fun l x => insNat x.cell l) []
  let kept := cells.take (maxPillars d)
  let pillars := kept.map fun k => (k, (vox.filter fun x => decide (x.cell = k)).take (maxPts d))
  let written := sumN (pillars.map fun q => q.2.length)
  let range := pts.length - vox.length
  let limits := vox.length - written
  let feats := pillars.map fun q => q.2.map (features a)
  let cpad := fun (n : Nat) (l : List Byte) => l ++ List.replicate (n - l.length) 0
  let bytes := cpad 64 ([pillars.length, written, range, limits, late, lost].flatMap (leBytes 4)) ++
    cpad (indexBytes d) (kept.flatMap (leBytes 4)) ++
    cpad (ptsSlot d - 64 - indexBytes d) (feats.flatMap fun q => cpad (maxPts d * 16) (q.flatMap fun e => e.flatMap fun x => leBytes 2 x.val))
  (bytes,
   b2n (decide (0 < lost + range)) + 2 * b2n (decide (0 < late)) + 4 * b2n (!motion) + 8 * b2n (decide (0 < limits)),
   pillars.length, written, flagsOf feats.flatten.flatten)

/-- What closing the window at `w` leaves of its arming. -/
def closedEra (w next : Nat) (e : Era) : Era :=
  { e with
    pts := e.pts.filter fun x => decide (x.win ≠ w)
    overs := e.overs.filter fun x => decide (x ≠ w)
    late := 0
    win := next
    seq := e.seq + 1 }

/-- The window that starts at `w` under arming `k` of `eras` closes (08 R249): its points are compensated and ordered; the
motion record is read now. -/
def closeWindow (n k w draw : Nat) (v : View) (c : Ctl) : Ctl :=
  let s := getS c 4 n
  let e := s.eras.getD k s.present
  let a := e.arm
  let next := w + c.time.period
  let at_ := 64 * fld a.desc 368 48 + 32 * (e.seq % armSlots a)
  reading v none 0x2C .none [(at_, 32)] (fun x c => engineFails v.part 0x2C (consumes 0x2C x) (report v.part none x c)) (fun c =>
    let m := devBytes v.mems at_ 32
    let motion := decide (fieldAt m 0 4 = e.seq % 2 ^ 32)
    let vec := fun (i : Nat) => (List.range 3).map fun j => if motion then fieldAt m (i + 4 * j) 4 else 0
    let lost := (e.overs.filter fun x => decide (x = w)).length
    let o := windowOut a (vec 4) (vec 16) motion next (e.pts.filter fun x => decide (x.win = w)) lost e.late
    let x : Sample := { arm := a, seq := e.seq, stamp := w % 2 ^ 64, epoch := w / 2 ^ 64, out := o.1, flags := o.2.1, info0 := o.2.2.1, info1 := o.2.2.2.1, num := o.2.2.2.2, draw := draw }
    modS 4 n (fun s =>
      let t := s.modEra k (closedEra w next)
      { t with before := t.before.filter eraOpen, done := t.done ++ [x] }) c) c

/-- The oldest window with points under an arming. -/
def oldestWindow (e : Era) : Option Nat := ((e.pts.map Pt.win) ++ e.overs).min?

/-- The oldest window with points under a journal arming: its place among `eras`, and the window. -/
def recordedWindow (s : Stream) : Option (Nat × Nat) :=
  (s.eras.zipIdx.filter fun e => fromJournal e.1.arm).findSome? fun e => (oldestWindow e.1).map fun w => (e.2, w)

/-- LIDAR_WINDOW_CLOSE (08 R249): the replay clock has reached end + CLOSE_LAG of a window of recorded points; else fusion
time reaches it for the oldest live window. -/
def windowClose (n : Nat) (upset : Bool) (v : View) (c : Ctl) : Ctl :=
  let s := getS c 4 n
  let lag := fun (k : Nat) => (ptsParam (s.eras.getD k s.present).arm.params).closeLag * us
  let due := (recordedWindow s).filter fun x => decide (x.2 + c.time.period + lag x.1 ≤ c.journal.clock)
  if s.state ≠ .running ∨ !ingestRuns c 42 then c
  else match due, s.eras.findIdx? fun e => !fromJournal e.arm with
    | some x, _ => engineStep v.part 0x2C upset (closeWindow n x.1 x.2 (drawNow c) v) c
    | none, some k =>
      let w := (s.eras.getD k s.present).win
      engineStep v.part 0x2C upset (closeWindow n k w 0 v) (modTime (reach ((w + c.time.period + lag k) % 2 ^ 64)) c)
    | none, none => c

/-- LIDAR_WINDOW_CLOSE (08 R249). -/
def execLidarWindowClose (n : Nat) (upset : Bool) (s : State) : Host.Outcome State Fault Refusal :=
  act s (windowClose n upset)

/-- LIDAR_SAMPLE_WRITTEN (08 R250): the slot and status entry of the oldest closed window. -/
def sampleWritten (n : Nat) (v : View) (c : Ctl) : Ctl :=
  match (getS c 4 n).done with
  | [] => c
  | x :: rest =>
    if !ingestRuns c 42 then c
    else present v.part 4 n x (raiseFlags v.part x.num
      (post (.dev (armOut x.arm + ptsSlot x.arm.desc * (x.seq % armSlots x.arm)) x.out)
        (modS 4 n (fun s => { s with done := rest }) c)))

/-- LIDAR_SAMPLE_WRITTEN (08 R250). -/
def execLidarSampleWritten (n : Nat) (s : State) : Host.Outcome State Fault Refusal := act s (sampleWritten n)

/-! ## REFLEX_COLUMN (14 R422, R423) -/

/-- A record lies in the corridor (14 R423). -/
def inCorridor (p : Part) (c : Ctl) (e : Pt) : Bool :=
  let b := fun (i : Nat) => effVal p c 0x2710 (3 + i)
  let ok := fun (w lo hi : Nat) => !nan32 w && !(lt32 w (b lo)) && lt32 w (b hi)
  ok e.x 0 1 && ok e.y 2 3 && ok e.z 4 5

/-- What each lane makes of a column: time of its last record, least forward distance, count. -/
def columnResult (p : Part) (c : Ctl) (l : List Pt) : Nat × Nat × Nat :=
  let k := l.filter (inCorridor p c)
  ((l.getLast?.map Pt.time).getD 0 % 2 ^ 64, k.foldl (fun a e => if lt32 e.x a then e.x else a) inf32, min 65535 k.length)

/-- REFLEX_COLUMN (14 R422): the oldest column joins the queue of 16, or is dropped and counted. -/
def execReflexColumn (s : State) : Host.Outcome State Fault Refusal :=
  act s fun v c =>
    match c.safety.columns with
    | [] => c
    | e :: rest =>
      let c1 := modSafety (fun t => { t with columns := rest }) c
      if 16 ≤ c.safety.reflex.length then bump v.part 0x2710 0xA 64 1 c1
      else
        let x := columnResult v.part c e.2.2
        modSafety (fun t => { t with reflex := t.reflex ++ [(e.1, x.1, x.2.1, x.2.2, e.2.1)] }) c1

end Sys2Proof.Machine
end

