-- ==== Sys2Proof/Machine/Power.lean ====
section
/-! DEFINITION. Switched power domains (01 R38-R44, 17 R502-R505), clocks, rails and temperature (01 R30,
19 R524, R525, R530, R532). -/

namespace Sys2Proof.Machine

/-! ## Requests (17 R502, R504, R505) -/

/-- PdEnable of domain `d`. -/
def pdEnable (p : Part) (c : Ctl) (d : Nat) : Nat := odVal p c 0x2110 (d + 1)

/-- Set PdEnable of domain `d`. -/
def setEnable (p : Part) (d v : Nat) (c : Ctl) : Ctl := odSet p 0x2110 (d + 1) v c

/-- A block domain's lagoon domain, if `d` is a block domain. -/
def lagoonOf (d : Nat) : Option Nat := if d < 40 ∧ d % 5 ≠ 4 then some (d - d % 5 + 4) else none

/-- Unit whose fence keeps a domain off (15 R443). -/
def domainUnit (d : Nat) : Option Nat :=
  if d < 40 then (if d % 5 = 4 then some (32 + d / 5) else some (4 * (d / 5) + d % 5))
  else if d ≤ 42 then some (0x2A + (d - 40)) else none

/-- The domain belongs to a fenced unit. -/
def fencedDomain (c : Ctl) (d : Nat) : Bool := ((domainUnit d).map (fencedUnit c)).getD false

/-- A request for power-up of one domain, its lagoon apart (17 R504). A block whose lagoon is not on waits
for it (01 R40). -/
def requestOn (d : Nat) (c : Ctl) : Ctl :=
  let ready := match lagoonOf d with
    | some l => pdOn c l
    | none => true
  match pdOf c d with
  | .off => if ready then setPd d .poweringUp c else modPower (fun w => { w with wantOn := insNat d w.wantOn }) c
  | .shuttingDown => setPd d .pending c
  | .poweringUp => modPower (fun w => { w with wantOff := w.wantOff.filter fun x => x ≠ d }) c
  | .on => if c.power.wantOff.contains d then modPower (fun w => { w with wantOn := insNat d w.wantOn }) c else c
  | .pending => c

/-- A request for shut-down of one domain (17 R504). -/
def requestOff (d : Nat) (c : Ctl) : Ctl :=
  let c1 := modPower (fun w => { w with wantOn := w.wantOn.filter fun x => x ≠ d }) c
  match pdOf c d with
  | .on => modPower (fun w => { w with wantOff := insNat d w.wantOff }) c1
  | .poweringUp => modPower (fun w => { w with wantOff := insNat d w.wantOff }) c1
  | .pending => setPd d .shuttingDown c1
  | _ => c1

/-- Domains follow PdEnable from the first exit from setup onwards (17 R502). -/
def followOn (d : Nat) (c : Ctl) : Ctl := if c.boot.everService then requestOn d c else c
/-- See `followOn`. -/
def followOff (d : Nat) (c : Ctl) : Ctl := if c.boot.everService then requestOff d c else c

/-- An enable (01 R40, 15 R443, 17 R502). -/
def enableDomain (p : Part) (d : Nat) (c : Ctl) : Ctl :=
  if fencedDomain c d then c
  else match lagoonOf d with
    | some l => followOn d (followOn l (setEnable p l 1 (setEnable p d 1 c)))
    | none => followOn d (setEnable p d 1 c)

/-- The shut-downs that 01 R44 refuses. -/
def refusedOff (p : Part) (c : Ctl) (d : Nat) : Bool :=
  (decide (d = 44) && (decide (effVal p c 0x2908 1 = 1) || decide (effVal p c 0x2900 5 = 1))) ||
    ((decide (d = 46) || decide (d = 47)) && c.queues.any fun e => decide (e.2.state = .enabled))

/-- A request for shut-down: refused and counted (17 R505), or followed; a lagoon's takes its blocks with it
(01 R40). -/
def disableDomain (p : Part) (d : Nat) (c : Ctl) : Ctl :=
  if refusedOff p c d then setEnable p d 1 (bump p 0x2100 3 32 1 c)
  else if d < 40 ∧ d % 5 = 4 then
    followOff d (setEnable p d 0 ((List.range 4).foldl (fun c b => followOff (d - 4 + b) (setEnable p (d - 4 + b) 0 c)) c))
  else followOff d (setEnable p d 0 c)

/-! ## SHUT_DOWN_COMPLETE and POWER_UP_COMPLETE (01 R43, 17 R503) -/

/-- The windows that a shut-down of block `b` spilled are filled again (11 R339). -/
def queueFills (b : Nat) (c : Ctl) : Ctl :=
  (c.sched.windows.filter fun e => decide (e.1 % 32 = b) && e.2.spilled && decide (e.2.why = .shutDown)).foldl (fun c e =>
    askFerry { client := e.1 / 32, isle := b / 4, mask := 2 ^ (b % 4), fill := true, why := .shutDown } c) c

/-- What a domain loses when it powers off (01 R43). -/
def loseDomain (d : Nat) (c : Ctl) : Ctl :=
  if d < 40 ∧ d % 5 ≠ 4 then
    let b := 4 * (d / 5) + d % 5
    post (.lose b (scratchBase b) scratchSize)
      (modB b (fun x => { halted := x.halted, haltedBy := x.haltedBy, readers := x.readers }) c)
  else if d < 40 then
    let i := d / 5
    post (.lose (32 + i) (lagoonBase i) lagoonSize)
      { c with listCache := stow [] i [] c.listCache, walks := stow [] i [] c.walks }
  else c

/-- SHUT_DOWN_COMPLETE: the domain is off; a pending power-up begins. -/
def completeOff (d : Nat) (_v : View) (c : Ctl) : Ctl :=
  match pdOf c d with
  | .shuttingDown => loseDomain d (setPd d .off c)
  | .pending => requestOn d (loseDomain d (setPd d .off c))
  | _ => c

/-- Counters that restart when a domain powers up (03 R117, 04 R142, 06 R210, 07 R230, 12 R372, 17 R503). -/
def domainCounters (d : Nat) : List (Nat × Nat) :=
  if d < 40 ∧ d % 5 ≠ 4 then
    let i := 0x3000 + 0x100 * (d / 5)
    (tab 6 fun k => (i + 0x11 + k, d % 5 + 1)) ++ [(i + 0x23, d % 5 + 1)]
  else if d < 40 then
    let i := 0x3000 + 0x100 * (d / 5)
    [(i + 0x17, 1), (i + 0x17, 2), (i + 0x22, 1), (i + 0x22, 2)]
  else if d = 40 then [(0x2300, 6)]
  else if d = 43 then [(0x2B80, 2), (0x2B80, 3), (0x2B80, 4)]
  else []

/-- The image pipeline's remap-table store is empty after a power-up (17 R503). -/
def emptyRemap (p : Part) (c : Ctl) : Ctl :=
  noteAdmitted p { c with img := c.img.map fun e => (e.1, { e.2 with arm := { e.2.arm with table := [] } }) }

/-- What is in place once a domain is on. -/
def nowOn (p : Part) (d : Nat) (c : Ctl) : Ctl :=
  let c1 := (domainCounters d).foldl (fun c e => odSet p e.1 e.2 0 c) c
  if d = 41 then emptyRemap p c1
  else if d = 44 then trainPorts p c1
  else if 46 ≤ d then { c1 with dram := { c1.dram with selfRefresh := setBitN c1.dram.selfRefresh (d - 46) false } }
  else if d < 40 ∧ d % 5 ≠ 4 then queueFills (4 * (d / 5) + d % 5) c1
  else if d < 40 then
    (c.power.wantOn.filter fun x => decide (x / 5 = d / 5)).foldl (fun c x =>
      requestOn x (modPower (fun w => { w with wantOn := w.wantOn.filter fun y => y ≠ x }) c)) c1
  else c1

/-- POWER_UP_COMPLETE: the domain is on; a shut-down asked for meanwhile waits for its prerequisites. -/
def completeOn (d : Nat) (v : View) (c : Ctl) : Ctl :=
  if pdOf c d = .poweringUp then nowOn v.part d (setPd d .on c) else c

/-! ## Temperature and rails -/

/-- The hottest sensor's reading, in 0.125 degC. -/
def setTemp (t : Int) (c : Ctl) : Ctl := modPower (fun w => { w with temp := t }) c

/-- MCLK_DERATE (01 R30): the die temperature exceeds 115 degC. -/
def execMclkDerate (temp : Int) (s : State) : Host.Outcome State Fault Refusal :=
  act s fun v c =>
    if c.boot.started ∧ 920 < temp ∧ !c.power.derated then
      bump v.part 0x2100 2 32 1 (modPower (fun w => { w with derated := true, temp := temp }) c)
    else c

/-- MCLK_RESTORE (01 R30): the die temperature is below 110 degC. -/
def execMclkRestore (temp : Int) (s : State) : Host.Outcome State Fault Refusal :=
  act s fun _ c =>
    if c.boot.started ∧ temp < 880 ∧ c.power.derated then
      modPower (fun w => { w with derated := false, temp := temp }) c
    else c

/-- The rails of 19 R523 in its order: recommended range and power-good threshold in mV. -/
def railLimits : List (Nat × Nat × Nat) := [
  (720, 800, 620), (720, 800, 620), (770, 840, 660), (870, 930, 750), (870, 930, 750), (470, 570, 400),
  (1160, 1260, 1000), (1710, 1890, 1500)]

/-- Limits of a rail; none for a number that names no rail. -/
def railOf (rail : Nat) : Option (Nat × Nat × Nat) := railLimits[rail]?

/-- A rail is outside its recommended range. -/
def railOut (rail mv : Nat) : Bool :=
  match railOf rail with
  | some l => decide (mv < l.1) || decide (l.2.1 < mv)
  | none => false

/-- The monitor's latest reading of a rail (19 R524): fault records hold VDD_ARRAY, VDD_CORE and VDD_MEM. -/
def setRail (rail mv : Nat) (c : Ctl) : Ctl :=
  modPower (fun w =>
    if rail = 0 then { w with vArray := mv } else if rail = 1 then { w with vCore := mv }
    else if rail = 2 then { w with vMem := mv } else w) c

/-- The clock and supply monitor raises MECH 23 (15 R436, 19 R524). -/
def monitorFault (p : Part) (c : Ctl) : Ctl := raise p { mech := 23, unit := 0x3F } c

/-- RAIL_OUT_OF_RANGE (19 R524): a rail outside its recommended range for more than 10 us. -/
def execRailOutOfRange (rail mv : Nat) (s : State) : Host.Outcome State Fault Refusal :=
  act s fun v c => if c.boot.started ∧ railOut rail mv then monitorFault v.part (setRail rail mv c) else c

/-- PLL_LOSS_OF_LOCK (19 R530). -/
def execPllLossOfLock (_pll : Nat) (s : State) : Host.Outcome State Fault Refusal :=
  act s fun v c => if c.boot.started then monitorFault v.part c else c

/-- JUNCTION_OVER_TEMPERATURE (19 R532): above 125 degC. -/
def execJunctionOverTemperature (temp : Int) (s : State) : Host.Outcome State Fault Refusal :=
  act s fun v c => if c.boot.started ∧ 1000 < temp then monitorFault v.part (setTemp temp c) else c

/-! ## Cold reset (17 R481, 19 R525, R532) -/

/-- Everything but the fuses is discarded, DRAM contents and the contents of every switched domain included:
the device waits for PERST_N. Free values already drawn stay drawn. -/
def coldReset (c : Ctl) : Ctl :=
  { ({} : Ctl) with
    free := c.free
    posted := [.zero 0 dramTop] ++ (tab 8 fun i => .lose (32 + i) (lagoonBase i) lagoonSize) ++
      (tab 32 fun b => .lose b (scratchBase b) scratchSize) }

/-- COLD_RESET (17 R481): PERST_N asserts. -/
def execColdReset (s : State) : Host.Outcome State Fault Refusal := act s fun _ c => coldReset c

/-- POWER_GOOD_LOSS (19 R525): a rail below its power-good threshold for more than 1 us. -/
def execPowerGoodLoss (rail mv : Nat) (s : State) : Host.Outcome State Fault Refusal :=
  act s fun _ c => if ((railOf rail).map fun l => decide (mv < l.2.2)) = some true then coldReset c else c

/-- THERMAL_TRIP (19 R532): at 135 degC the device holds itself in reset. -/
def execThermalTrip (temp : Int) (s : State) : Host.Outcome State Fault Refusal :=
  act s fun _ c => if 1080 ≤ temp then coldReset c else c

end Sys2Proof.Machine
end

