-- ==== Sys2Proof/Machine/OdRead.lean ====
section
/-! DEFINITION. What the entries of the object dictionary read (18 R508-R519): absent units, the values that
the device computes, and the stored ones. -/

namespace Sys2Proof.Machine

/-- Number of an access path (18 R516): the mailbox of device function 0 or 9, CAN, the monitor. -/
def pathKey : Path → Nat
  | .mailbox fn => fn
  | .can => 100
  | .monitor => 101

/-- The entry belongs to an absent unit (00 R10). DESIGN CHOICE (log 80): entries of arbiters and hub ports that an absent
unit would use (routers of absent isles, LatencyTarget 0x2501:07 and HubPrio 0x2510:07 of the video decode engine) are
the arbiters' own and present. -/
def odAbsent (p : Part) (idx sub : Nat) : Bool :=
  (decide (0x3000 ≤ idx) && decide (idx < 0x3800) && decide (isles p ≤ (idx - 0x3000) / 0x100)) ||
    ((decide (idx = 0x2110) || decide (idx = 0x2111)) && decide (1 ≤ sub) && !hasDomain p (sub - 1)) ||
    (!hasVd p && (decide (idx = 0x2302) || (decide (idx = 0x2300) && (decide (sub = 2) || decide (sub = 6))))) ||
    ((decide (0x2902 ≤ idx ∧ idx ≤ 0x2905) || decide (idx = 0x2601)) && decide (1 ≤ sub) && !hasCw p (sub - 1))

/-! ## Computed values -/

/-- STAGE (17 R482). -/
def stageCode (c : Ctl) : Nat :=
  if c.safety.mode = .failed then 6
  else match c.boot.stage with
    | .booting => 0
    | .awaitImage => 1
    | .loading => 2
    | .starting => 3
    | .setup => 4
    | .service => 5

/-- BootStatus. -/
def bootStatus (c : Ctl) : Nat := stageCode c + 256 * c.boot.error

/-- PdStatus of a domain (17 R502). -/
def pdCode : Pd → Nat
  | .off => 0
  | .on => 1
  | .shuttingDown => 2
  | .poweringUp => 3
  | .pending => 4

/-- A stream-state entry (08 R258). -/
def streamCode (s : Stream) : Nat :=
  (match s.state with
   | .idle => 0
   | .running => 1
   | .halted => 2) + 4 * s.cause

/-- Uncleared records, saturating (15 R453). -/
def faultsOpen (c : Ctl) : Nat := satN 16 ((allLogged c).filter isUncleared).length

/-- Mask of the suspect units among `l` (14 R431). -/
def suspectMask (c : Ctl) (l : List Nat) : Nat :=
  sumN (l.zipIdx.map fun e => b2n (getSus c e.1).suspect * 2 ^ e.2)

/-- Sequences in a state that a test accepts (06 R210, 11 R338). -/
def countSeqs (c : Ctl) (f : Seq → Bool) : Nat := (c.seqs.filter fun e => f e.2).length

/-- The link is present (16 R455): link 1 in ×4 + ×4 mode alone. -/
def hasLink (c : Ctl) (l : Nat) : Bool := decide (l = 0) || (decide (l = 1) && c.boot.bifur)

/-- Selected record of the fuse log (17 R501): an index beyond it reads its last record. -/
def fuseRecord (f : Fuses) (i : Nat) : Nat := if f.log.isEmpty then 0 else f.log.getD (min i (f.log.length - 1)) 0

/-- Identity, power and time. -/
def odIdentity (v : View) (c : Ctl) (k idx sub : Nat) : Option Nat :=
  let p := v.part
  let t := c.time
  if idx = 0x1000 then some (variantCode p * 65536)
  else if idx = 0x1001 then some (errorRegister c)
  else if idx = 0x1014 then (if odVal p c 0x1014 0 = 0 then some (0x80 + odVal p c 0x2918 1) else none)
  else if idx = 0x1018 then
    some (if sub = 1 then 0xE3C else if sub = 2 then variantCode p else if sub = 3 then p.stepping % 65536 * 65536 else p.serial % 2 ^ 32)
  else if idx = 0x2000 then some (if sub = 1 then variantCode p else unitPresence p)
  else if idx = 0x2100 ∧ sub = 1 then some (b2n c.power.derated)
  else if idx = 0x2111 then some (pdCode (pdOf c (sub - 1)))
  else if idx = 0x2200 then
    (if sub = 1 then some t.value else if sub = 2 then some (look 0 k t.latched) else if sub = 5 then some t.state
     else if sub = 6 then some t.selected else if sub = 7 then some (ofInt 64 (offsetNow c))
     else if sub = 8 then some (ofInt 32 t.rate) else none)
  else if idx = 0x2201 ∨ idx = 0x2202 then
    (let x := getTr c (idx - 0x2201)
     if sub = 4 then some x.status else if sub = 5 then some x.gm else if sub = 6 then some (ofInt 64 x.offset)
     else if sub = 7 then some (cut 32 x.delay) else none)
  else none

/-- Streams, safety and faults. -/
def odSafety (v : View) (c : Ctl) (k idx sub : Nat) : Option Nat :=
  let p := v.part
  let f := c.faults
  if idx = 0x2301 then some (streamCode (getS c 3 (sub - 1)))
  else if idx = 0x2302 then some (streamCode (getS c 2 (sub - 1)))
  else if idx = 0x2303 then some (streamCode (getS c 4 (sub - 1)))
  else if idx = 0x2500 ∧ sub = 3 then some (usableBytes p c)
  else if idx = 0x2500 ∧ 9 ≤ sub ∧ sub ≤ 0xB then
    some (if sub = 9 then c.traffic.rfm else if sub = 0xA then c.traffic.misses else c.traffic.urgent)
  else if idx = 0x2600 ∧ sub = 4 then some c.boot.build
  else if idx = 0x2700 then
    (if sub = 1 then some (modeCode c.safety.mode) else if sub = 8 then some v.fuses.splitMode
     else if sub = 9 then some (b2n c.safety.splitActive) else if sub = 0xA then some (coreStateByte c)
     else if sub = 0x14 then some (suspectMask c (List.range 32)) else if sub = 0x15 then some (suspectMask c [0x28, 0x29, 0x2D])
     else if sub = 0x19 then some (satN 32 (oldestTestAge p c)) else none)
  else if idx = 0x2800 then
    (if sub = 1 then some f.next else if sub = 2 then some (faultsOpen c) else if sub = 0xB then some f.fencedBlocks
     else if sub = 0xC then some f.fencedOther else if sub = 0xD then some (fltState c) else none)
  else if idx = 0x2801 ∧ sub = 1 then some (look 0 k f.readIndex)
  else if idx = 0x2880 ∧ sub = 6 then some f.injLeft
  else none

/-- Links, boot, fuses and sequences. -/
def odLinks (v : View) (c : Ctl) (k idx sub : Nat) : Option Nat :=
  let p := v.part
  if idx = 0x2900 then
    (if sub = 3 then some (b2n c.boot.harbourSel) else if sub = 4 then some c.links.harbour
     else if sub = 6 then some (archMembers p c) else none)
  else if idx = 0x2902 then some (getCw c (sub - 1)).state
  else if idx = 0x2908 then
    (if sub = 3 then some (twinRole p c) else if sub = 8 then some ((c.links.twin.peer.map Heartbeat.safety).getD 0)
     else if sub = 9 then some ((c.links.twin.peer.map Heartbeat.role).getD 0)
     else if sub = 0xA then some (b2n (cwUp c 0 && decide (c.links.twin.misses = 0))) else if sub = 0xB then some (twinPeerId c)
     else none)
  else if idx = 0x2914 then some (b2n (macIsUp p c (sub - 1)))
  else if idx = 0x2960 then
    (if sub = 1 then some (b2n c.boot.bifur)
     else if sub = 2 ∨ sub = 3 then some (if hasLink c (sub - 2) then look 0 (sub - 2) c.links.pcie else 0) else none)
  else if idx = 0x2A00 then
    (if sub = 1 then some (bootStatus c) else if sub = 7 then some (b2n c.boot.sealed) else if sub = 9 then some (b2n c.boot.testActive)
     else if sub = 0xA then some c.boot.svn else if sub = 0xB then some c.boot.keySlot else if sub = 0xD then some v.fuses.rollback
     else if sub = 0xE then some v.fuses.keyRevoked else none)
  else if idx = 0x2A10 ∧ sub = 2 then some p.serial
  else if idx = 0x2A20 then
    some (if sub = 1 then v.fuses.log.length else if sub = 2 then look 0 k c.boot.fuseIndex
      else fuseRecord v.fuses (look 0 k c.boot.fuseIndex))
  else if idx = 0x2A21 then some (if sub = 1 then v.fuses.splitLeft else if sub = 2 then v.fuses.rollbackLeft else v.fuses.revokeLeft)
  else if idx = 0x2B00 then
    (if sub = 1 then some p.arithLevel else if sub = 5 then some (countSeqs c fun e => decide (e.state = .live))
     else if sub = 6 then some (countSeqs c fun e => decide (e.state = .exhausted) || decide (e.state = .faulted)) else none)
  else if 0x4000 ≤ idx ∧ idx < 0x4100 ∧ sub = 0x10 then
    some (countSeqs c fun e => decide (e.state = .live) && decide (e.client = idx - 0x4000))
  else none

/-- The first value given. -/
def orValue (a b : Option Nat) : Option Nat :=
  match a with
  | some x => some x
  | none => b

/-- Value of a numeric entry of the map; `k` is the access path. -/
def odNumber (v : View) (c : Ctl) (k idx sub : Nat) : Nat :=
  (orValue (odIdentity v c k idx sub) (orValue (odSafety v c k idx sub) (odLinks v c k idx sub))).getD (odVal v.part c idx sub)

/-! ## Strings and DOMAINs -/

/-- "Sevon CX960" and the like, in ASCII. -/
def deviceName (p : Part) : List Byte :=
  ([0x53, 0x65, 0x76, 0x6F, 0x6E, 0x20, 0x43, 0x58, 0x39] : List Byte) ++
    (match p.variant with
     | .cx960 => [0x36, 0x30]
     | .cx940 => [0x34, 0x30]
     | .cx920 => [0x32, 0x30])

/-- The 64-byte record of an index of the fault log; 0 where the log does not hold it (15 R434, R438). -/
def faultRecord (p : Part) (c : Ctl) (i : Nat) : List Byte :=
  match (heldRecs c).find? fun l => decide (l.index = i) with
  | some l => recBytes (effVal p c 0x2900 1) l
  | none => List.replicate 64 0

/-- Value of a string or DOMAIN. -/
def odDomain (v : View) (c : Ctl) (k idx sub : Nat) : List Byte :=
  if idx = 0x1008 then deviceName v.part
  else if idx = 0x2801 then faultRecord v.part c (look 0 k c.faults.readIndex)
  else if idx = 0x2A00 then (if c.boot.digest.isEmpty then List.replicate 64 0 else c.boot.digest)
  else if idx = 0x2A10 then v.part.identityPub
  else if idx = 0x2A11 then v.part.keyHash.getD (sub - 1) []
  else []

/-! ## The value of an entry -/

/-- The entry is in the map (18 R510 checks 2 and 3): listed, or :00 of an index whose entries start at
:01. -/
def odDefined (idx sub : Nat) : Bool := (odRow idx sub).isSome || (odHasIndex idx && decide (sub = 0))

/-- Access code and size of an entry of the map; :00 is UNSIGNED8, RO (18 R509). -/
def odAccess (idx sub : Nat) : Acc × Nat :=
  match odRow idx sub with
  | some r => (r.acc, r.size)
  | none => (.ro, 1)

/-- The bytes that a read of an entry of the map returns: absent, write-only and test entries read 0 (18 R510
checks 4 and 8). -/
def odValue (v : View) (c : Ctl) (path : Path) (idx sub : Nat) : List Byte :=
  let a := odAccess idx sub
  if odAbsent v.part idx sub ∨ a.1 = .wo ∨ (a.1 = .tst ∧ c.boot.testActive = false) then List.replicate (max 1 a.2) 0
  else match odRow idx sub with
    | none => leBytes 1 (odTopSub idx)
    | some r => if r.size = 0 then odDomain v c (pathKey path) idx sub else leBytes r.size (odNumber v c (pathKey path) idx sub)

/-- A numeric entry as the device itself reads it: 0 where its unit is absent (00 R10). -/
def odPeek (v : View) (c : Ctl) (idx sub : Nat) : Nat :=
  if odAbsent v.part idx sub then 0 else odNumber v c 0 idx sub

/-! ## Determinism keys (13 R373-R376) -/

/-- The first eight bytes of a SHA-512 digest, read little-endian. -/
def keyOf (bs : List Byte) : Nat := ofLE ((sha512 bs).take 8)

/-- One entry of the clock plan, at the width of its type. -/
def planEntry (v : View) (c : Ctl) (idx sub : Nat) : List Byte := leBytes (odAccess idx sub).2 (odPeek v c idx sub)

/-- Subindices `lo` to `hi` of an index. -/
def planRange (v : View) (c : Ctl) (idx lo hi : Nat) : List Byte :=
  (List.range (hi + 1 - lo)).flatMap fun i => planEntry v c idx (lo + i)

/-- The clock plan in digest order (13 R373). -/
def clockPlan (v : View) (c : Ctl) : List Byte :=
  planEntry v c 0x2B00 4 ++
    ((List.range 8).flatMap fun i => planRange v c (0x3020 + 0x100 * i) 1 0x40) ++
    ((List.range 8).flatMap fun i => planRange v c (0x3021 + 0x100 * i) 1 0xB) ++
    ((List.range 8).flatMap fun i => planRange v c (0x2540 + i) 1 0x40) ++
    ((List.range 8).flatMap fun i => planRange v c (0x2548 + i) 1 5) ++
    planRange v c 0x2510 1 0x10 ++ planRange v c 0x2501 1 4 ++ planRange v c 0x2501 7 0x10 ++ planRange v c 0x2500 4 6

/-- The 16 bytes under ArithKey (13 R374). -/
def arithInput (v : View) (c : Ctl) : List Byte :=
  planEntry v c 0x2B00 1 ++ planEntry v c 0x2600 4 ++ planEntry v c 0x2600 5 ++ planEntry v c 0x2B00 3 ++ List.replicate 8 0

/-- The fields under TimingKey after ArithKey (13 R375). -/
def timingInput (v : View) (c : Ctl) : List Byte :=
  planRange v c 0x2000 1 2 ++ ((List.range 8).flatMap fun i => planRange v c (0x3010 + 0x100 * i) 1 4) ++
    ((List.range 8).flatMap fun i => planEntry v c (0x3010 + 0x100 * i) 5) ++ planRange v c 0x2500 1 2 ++ clockPlan v c

/-- ArithKey and TimingKey. -/
def keysOf (v : View) (c : Ctl) : Nat × Nat :=
  let a := keyOf (arithInput v c)
  (a, keyOf (leBytes 8 a ++ timingInput v c))

/-- Set both keys. -/
def setKeys (p : Part) (k : Nat × Nat) (c : Ctl) : Ctl := odSet p 0x2600 2 k.2 (odSet p 0x2600 1 k.1 c)

/-- Recompute both keys: each one that changes counts in KeyChanges (13 R376). -/
def recomputeKeys (v : View) (c : Ctl) : Ctl :=
  let k := keysOf v c
  let p := v.part
  let n := b2n (decide (k.1 ≠ odVal p c 0x2600 1)) + b2n (decide (k.2 ≠ odVal p c 0x2600 2))
  setKeys p k (bump p 0x2600 3 32 n c)

/-- KEY_RECOMPUTE (13 R376): the keys exist from the first exit from setup. -/
def execKeyRecompute (s : State) : Host.Outcome State Fault Refusal :=
  act s fun v c => if c.boot.everService then recomputeKeys v c else c

end Sys2Proof.Machine
end

