-- ==== Sys2Proof/Machine/Setup.lean ====
section
/-! DEFINITION. Leaving and entering the setup state (17 R495-R497, 06 R180, 10 R294, 11 R335). -/

namespace Sys2Proof.Machine

/-! ## Pools (06 R180) -/

/-- The free stack of a set is rewritten so that pops yield 0, 1, 2, …; PoolFree is PoolSets. -/
def rebuildPool (p : Part) (set : Nat) (c : Ctl) : Ctl :=
  let n := effVal p c (0x2B40 + set) 3
  let a := 64 * effVal p c (0x2B40 + set) 4
  let c1 := if n ≠ 0 ∧ inDevice p c a (4 * n) then post (.dev a ((List.range n).flatMap fun j => leBytes 4 (n - 1 - j))) c else c
  odSet p (0x2B40 + set) 5 n c1

/-- Every pool is rebuilt and the active-sequence table freed, with what caches it held. -/
def rebuildPools (p : Part) (c : Ctl) : Ctl :=
  let c1 := (List.range 64).foldl (fun c s => rebuildPool p s c) c
  { c1 with
    seqs := []
    appends := []
    walks := []
    listCache := []
    blocks := c1.blocks.foldl (fun m e => stow {} e.1 { e.2 with lab := [], readers := [] } m) [] }

/-! ## The checks of ExitSetup -/

/-- Two ranges of one kind meet. -/
def rangesMeet (a n b m : Nat) : Bool := decide (0 < n) && decide (0 < m) && decide (a < b + m) && decide (b < a + n)

/-- A range of virtual function `n` that overlaps the same kind of range of a lower-numbered one has its count
set to 0 (10 R294). -/
def cutRange (p : Part) (n : Nat) (k : Kind) (c : Ctl) : Ctl :=
  let s := kindSub k
  let at_ : Nat → Nat × Nat := fun m => (odVal p c (0x2410 + m) s, odVal p c (0x2410 + m) (s + 1))
  if (List.range n).any fun m => decide (1 ≤ m) && rangesMeet (at_ n).1 (at_ n).2 (at_ m).1 (at_ m).2 then
    odSet p (0x2410 + n) (s + 1) 0 c
  else c

/-- Every range, in ascending function. -/
def cutRanges (p : Part) (c : Ctl) : Ctl :=
  (List.range 16).foldl (fun c i => [Kind.queue, .sync, .fifo, .client].foldl (fun c k => cutRange p (i + 1) k c) c) c

/-- TaskEnable stays 0 for a task with a tier queue whose CLIENT differs from TaskClient (11 R335). -/
def checkTask (v : View) (n : Nat) (c : Ctl) : Ctl :=
  let p := v.part
  let i := 0x2440 + n
  let bad := (List.range (effVal p c i 7)).any fun t =>
    decide ((readCtx v c (bitsN (effVal p c i 6) (16 * t) 16)).1.client ≠ effVal p c i 1)
  if odVal p c i 2 = 1 ∧ bad then odSet p i 2 0 (modTask n (fun _ => {}) c) else c

/-! ## EXIT_SETUP -/

/-- Trackers as DomainNumber, DomainMac and DomainEnable now say (09 R270, R271): one that is switched off is
DISABLED, one that is switched on or follows another domain is SEARCHING. -/
def startTracker (p : Part) (moved : Bool) (t : Nat) (c : Ctl) : Ctl :=
  if !trOn p c t then modTr t (fun x => { x with status := 0, good := 0, waiting := none, delays := [] }) c
  else if moved ∨ (getTr c t).status = 0 then modTr t (fun _ => { status := 1 }) c
  else c

/-- The entries of tracker `t` that say which domain it follows differ from those in force. -/
def trackerMoved (p : Part) (c : Ctl) (t : Nat) : Bool :=
  decide (odVal p c (0x2201 + t) 1 ≠ effVal p c (0x2201 + t) 1) || decide (odVal p c (0x2201 + t) 2 ≠ effVal p c (0x2201 + t) 2)

/-- Frame boundaries restart from the first one after the exit (09 R267). -/
def restartFrames (p : Part) (c : Ctl) : Ctl :=
  modTime (fun t =>
    { t with
      period := effVal p c 0x2200 3 * us
      phase := effVal p c 0x2200 4 * us
      boundary := boundaryAfter (effVal p c 0x2200 3 * us) (effVal p c 0x2200 4 * us) (fullTime t) }) c

/-- A boot-up message: the node is pre-operational (16 R476). -/
def bootUp (p : Part) (c : Ctl) : Ctl :=
  emit (.can (0x700 + effVal p c 0x2918 1) [0]) (modLinks (fun l => { l with can := { l.can with nmt := 127 } }) c)

/-- SERVICE_READY (17 R497); the time since PERST_N is a free value (log 6). -/
def serviceReady (p : Part) (cause : Nat) (c : Ctl) : Ctl :=
  let ms := Config.cycles c.free % 2 ^ 32
  sendMsg p 0 0x13 (leBytes 2 (bootStatus c) ++ leBytes 1 cause ++ leBytes 1 0 ++ leBytes 4 ms ++
    leBytes 8 (odVal p c 0x2600 1) ++ leBytes 8 (odVal p c 0x2600 2)) { c with free := c.free + 1 }

/-- Every RWS value goes into effect (17 R495 step 2), with what follows from each. -/
def applyRws (v : View) (c : Ctl) : Ctl :=
  let p := v.part
  let c1 := { c with eff := c.od }
  let c2 := (List.range 64).foldl (fun c n => checkTask v n c) c1
  let c3 := startTracker p (trackerMoved p c 1) 1 (startTracker p (trackerMoved p c 0) 0 (restartFrames p c2))
  let c4 := if effVal p c3 0x2908 1 = 1 then c3 else modLinks (fun l => { l with twin := {} }) c3
  rebuildPools p (modBoot (fun b => { b with testActive := decide (effVal p c3 0x2A00 8 = 1) }) c4)

/-- The CAN node-ID or rates change (17 R495 step 4). -/
def canMoved (p : Part) (c : Ctl) : Bool :=
  [1, 2, 3].any fun s => decide (odVal p c 0x2918 s ≠ effVal p c 0x2918 s)

/-- The domains that PdEnable keeps off follow it from the first exit onwards (17 R502). -/
def followEnables (p : Part) (c : Ctl) : Ctl :=
  (List.range 48).foldl (fun c d => if hasDomain p d ∧ pdEnable p c d = 0 then requestOff d c else c) c

/-- The setup state ends and service begins (17 R495). -/
def exitSetup (v : View) (c : Ctl) : Ctl :=
  let p := v.part
  let first := !c.boot.everService
  let c1 := applyRws v (cutRanges p c)
  let c2 := if first then setKeys p (keysOf v c1) c1 else recomputeKeys v c1
  let c3 := modBoot (fun b => { b with stage := .service, exiting := false, everService := true }) c2
  let c4 := if canMoved p c then bootUp p (trainPorts p c3) else trainPorts p c3
  let c5 := modSafety (fun s => { s with mode := if s.halted then .debugHold else .inService }) c4
  let c6 := electHarbour p (if first then followEnables p c5 else c5)
  settle p (serviceReady p (b2n (!first)) (timeSettle p (searchAgain p c6)))

/-- A switched domain is between on and off. -/
def transitioning (c : Ctl) : Bool :=
  (List.range 48).any fun d => decide (pdOf c d = .poweringUp) || decide (pdOf c d = .shuttingDown) || decide (pdOf c d = .pending)

/-- A write of 1 to ExitSetup in the setup state (17 R495): a power transition in progress completes first (17 R506). -/
def leaveSetup (v : View) (c : Ctl) : Ctl :=
  if transitioning c then modBoot (fun b => { b with exiting := true }) c else exitSetup v c

/-- A power transition has completed: an exit from setup that waited for the last one acts. -/
def afterMove (v : View) (c : Ctl) : Ctl := if c.boot.exiting ∧ !transitioning c ∧ c.safety.mode = .notReady then exitSetup v c else c

/-- SHUT_DOWN_COMPLETE (17 R503). -/
def execShutDownComplete (d : Nat) (s : State) : Host.Outcome State Fault Refusal :=
  act s fun v c => afterMove v (completeOff d v c)

/-- POWER_UP_COMPLETE (17 R503). -/
def execPowerUpComplete (d : Nat) (s : State) : Host.Outcome State Fault Refusal :=
  act s fun v c => afterMove v (completeOn d v c)

/-- RWS entries are writable: the setup state, until ExitSetup is written (17 R495, 18 R514). -/
def inSetup (c : Ctl) : Bool := decide (c.boot.stage = .setup) && !c.boot.exiting

/-! ## ENTER_SETUP -/

/-- The conditions of 17 R496: in service, the seal clear, every queue DISABLED, no stream armed. -/
def mayEnter (c : Ctl) : Bool :=
  serving c && !c.boot.sealed && c.queues.all (fun e => decide (e.2.state = .disabled)) && !streamArmed c

/-- A write of 1 to EnterSetup that is accepted: the MACs, CSI-2 ports and causeways stop. -/
def enterSetup (p : Part) (c : Ctl) : Ctl :=
  let c1 := modSafety (fun s => { s with mode := .notReady }) (modBoot (fun b => { b with stage := .setup }) c)
  idlePorts p (twinStandby p (timeSettle p (searchAgain p c1)))

end Sys2Proof.Machine
end

