-- ==== Sys2Proof/Machine/Boot.lean ====
section
/-! DEFINITION. The cold start (17 R481-R488): power-up, training and fill of DRAM, the arrays' boot self-test,
configuration-ready, the firmware image and its checks, and the setup state. -/

namespace Sys2Proof.Machine

/-! ## COLD_START -/

/-- The device after PERST_N deasserts (17 R481): straps and SplitMode latched, every present domain powered,
fusion time and frame boundaries from 0 (09 R261, R267), tracker 0 searching (09 R270). -/
def coldStart (bifur harbour : Bool) (v : View) (c : Ctl) : Ctl :=
  let p := v.part
  { ({} : Ctl) with
    free := c.free
    posted := c.posted
    boot := { started := true, bifur := bifur, harbourSel := harbour, splitLatched := decide (v.fuses.splitMode = 1) }
    power := { pd := ((List.range 48).filter (hasDomain p)).map fun d => (d, Pd.on) }
    time := { period := 20000 * us, boundary := 20000 * us, track0 := { status := 1 } } }

/-- COLD_START (17 R481): under the conditions of 19 R528; otherwise the device stays in reset (19 R529). -/
def execColdStart (bifur harbour lawful : Bool) (s : State) : Host.Outcome State Fault Refusal :=
  act s fun v c => if lawful ∧ c.boot.started = false then coldStart bifur harbour v c else c

/-- ERROR_PINS_ACTIVATE (17 R483). -/
def execErrorPinsActivate (s : State) : Host.Outcome State Fault Refusal :=
  act s fun _ c => if c.boot.started then modBoot (fun b => { b with pinsOn := true }) c else c

/-- What the error pins show (15 R444): nothing before their activation, else the code of FltState. -/
def errorPins (c : Ctl) : Option Nat := if c.boot.pinsOn then some (fltState c) else none

/-! ## DRAM (12 R359, R537) -/

/-- Channels in each half that count, from the channels that respond (12 R359). -/
def population (p : Part) (chA chB : Nat) : Nat :=
  let both := chA &&& chB
  if both % 256 ≠ 255 then 0 else if p.variant = .cx960 ∧ bitsN both 8 4 = 15 then 12 else 8

/-- DRAM_TRAINING_DONE (12 R359, 17 R488): the population becomes known; one that is not supported makes the
device FAILED. -/
def execDramTrainingDone (chA chB density : Nat) (uniform : Bool) (s : State) : Host.Outcome State Fault Refusal :=
  act s fun v c =>
    let p := v.part
    let n := population p chA chB
    if c.boot.started = false ∨ c.boot.trained ∨ c.boot.stage ≠ .booting then c
    else if n = 0 ∨ !uniform ∨ (density ≠ 16 ∧ density ≠ 24 ∧ density ≠ 32) then failDevice p 9 c
    else odSet p 0x2500 1 n (odSet p 0x2500 2 density (modBoot (fun b => { b with trained := true }) c))

/-- DRAM_FILL_RESERVE_DONE (12 R537): the device reserve holds zeros. -/
def execDramFillReserveDone (s : State) : Host.Outcome State Fault Refusal :=
  act s fun v c =>
    if c.boot.trained ∧ !c.boot.reserveFilled then
      post (.zero (dramLimit v.part c) (2 ^ 28)) (modBoot (fun b => { b with reserveFilled := true }) c)
    else c

/-- DRAM_FILL_DONE (12 R537): the rest of DRAM holds zeros. -/
def execDramFillDone (s : State) : Host.Outcome State Fault Refusal :=
  act s fun v c =>
    if c.boot.reserveFilled ∧ !c.boot.filled then
      post (.zero 0 (dramLimit v.part c)) (modBoot (fun b => { b with filled := true }) c)
    else c

/-! ## Arrays (03 R108, R110, R118) -/

/-- One byte of BlockSpareMap: a number of a row or column that is not in use reads 0. -/
def spareByte (x : Nat) : Nat :=
  (if x.testBit 3 then bitsN x 0 3 + 8 else 0) + (if x.testBit 7 then bitsN x 4 3 * 16 + 128 else 0)

/-- BlockSpareMap as it is stored. -/
def spareMap (x : Nat) : Nat := sumN (tab 4 fun q => spareByte (bitsN x (8 * q) 8) * 2 ^ (8 * q))

/-- A block whose array is unrepairable is fenced and recorded with MECH 26 (03 R110). -/
def badArray (p : Part) (b : Nat) (c : Ctl) : Ctl :=
  let i := 0x3010 + 0x100 * (b / 4)
  let c1 := odSet p i 5 (odVal p c i 5 ||| 2 ^ (b % 4)) c
  raise p { mech := 26, unit := b } (fence p b none c1)

/-- ARRAY_BOOT_SELF_TEST_DONE (03 R108, R110): spare maps, and the blocks that cannot be repaired. -/
def execArrayBootSelfTestDone (maps : List Nat) (unrepairable : Nat) (s : State) : Host.Outcome State Fault Refusal :=
  act s fun v c =>
    let p := v.part
    if c.boot.started = false ∨ c.boot.arrays then c
    else
      let present := (List.range 32).filter (hasBlock p)
      let c1 := present.foldl (fun c b =>
        odSet p (0x3010 + 0x100 * (b / 4)) (1 + b % 4) (spareMap (maps.getD b 0)) c) (modBoot (fun b => { b with arrays := true }) c)
      present.foldl (fun c b => if unrepairable.testBit b then badArray p b c else c) c1

/-- CONFIGURATION_READY (16 R457, 17 R483): configuration requests and the mailbox are served; STAGE reads
AWAIT_IMAGE. -/
def execConfigurationReady (s : State) : Host.Outcome State Fault Refusal :=
  act s fun _ c =>
    if c.boot.started ∧ !c.boot.cfgReady ∧ ((c.boot.trained ∧ c.boot.arrays) ∨ c.safety.mode = .failed) then
      modBoot (fun b => { b with cfgReady := true, stage := if b.stage = .booting then .awaitImage else b.stage }) c
    else c

/-! ## The image (17 R485-R487) -/

/-- Bits `[lo + w - 1 : lo]` of an image, both whole bytes but for single fields inside one. -/
def imgBits (img : List Byte) (lo w : Nat) : Nat := bitsN (ofLE ((img.drop (lo / 8)).take ((lo % 8 + w + 7) / 8))) (lo % 8) w

/-- PUBLIC_KEY and SIGNATURE of an image header (17 R486). -/
def imgKey (img : List Byte) : List Byte := (img.drop 40).take 133
/-- See `imgKey`. -/
def imgSig (img : List Byte) : List Byte := (img.drop 192).take 132

/-- What the signature covers: the image with its SIGNATURE read as 0. -/
def imgSigned (img : List Byte) : List Byte := img.take 192 ++ List.replicate 132 0 ++ img.drop 324

/-- Bit of VARIANT_MASK of the part. -/
def variantBit (p : Part) : Nat :=
  match p.variant with
  | .cx960 => 0
  | .cx940 => 1
  | .cx920 => 2

/-- Checks 5 and 6 of 17 R487: the key slot is not revoked, and it accepts the image's key. -/
def checkKey (v : View) (img : List Byte) : Option Nat :=
  let slot := imgBits img 104 2
  if v.fuses.keyRevoked.testBit slot then some 5
  else if sha512 (imgKey img) ≠ v.part.keyHash.getD slot [] then some 6
  else none

/-- Checks 2 to 6. -/
def checkHeader (v : View) (bytes : Nat) (img : List Byte) : Option Nat :=
  if imgBits img 0 32 ≠ 0xE3C96000 ∨ imgBits img 32 16 ≠ 1 then some 2
  else if imgBits img 64 32 ≠ bytes then some 3
  else if (imgBits img 112 3).testBit (variantBit v.part) = false then some 4
  else checkKey v img

/-- Checks 7 and 8: the signature, then the rollback level. -/
def checkSignature (v : View) (img : List Byte) : Option Nat :=
  if !ecdsaOk (imgKey img) (sha512 (imgSigned img)) (imgSig img) then some 7
  else if imgBits img 96 8 < v.fuses.rollback then some 8
  else none

/-- A check fails: ERROR is set and STAGE returns to AWAIT_IMAGE. -/
def imageFails (e : Nat) (c : Ctl) : Ctl := modBoot (fun b => { b with error := e, stage := .awaitImage, fetched := false }) c

/-- Byte address of the image area, at the start of the device reserve. -/
def imageArea (p : Part) (c : Ctl) : Nat := dramLimit p c

/-- IMAGE_FETCH_DONE (17 R485, R487): the image stands in the device reserve, and checks 1 to 6 apply. -/
def fetchDone (ok : Bool) (v : View) (c : Ctl) : Ctl :=
  let p := v.part
  let n := odVal p c 0x2A00 3
  let a := imageArea p c
  if c.boot.stage ≠ .loading ∨ c.boot.fetched ∨ !c.boot.reserveFilled ∨ c.safety.mode = .failed then c
  else if !ok then imageFails 1 (postUndef a n c)
  else
    let img := hostBytes v.mems (64 * odVal p c 0x2A00 2) n
    let c1 := post (.dev a img) c
    match checkHeader v n img with
    | some e => imageFails e c1
    | none => modBoot (fun b => { b with fetched := true }) c1

/-- IMAGE_FETCH_DONE (17 R487). -/
def execImageFetchDone (ok : Bool) (s : State) : Host.Outcome State Fault Refusal := act s (fetchDone ok)

/-- The image in the device reserve; its length stands in its header. -/
def imageHeld (v : View) (c : Ctl) : List Byte :=
  devBytes v.mems (imageArea v.part c) (devNat v.mems (imageArea v.part c + 8) 4)

/-- IMAGE_VERIFY_DONE (17 R487): checks 7 and 8; on success the image's digest, SVN and key slot are recorded
and STAGE becomes STARTING. -/
def verifyDone (v : View) (c : Ctl) : Ctl :=
  if c.boot.stage ≠ .loading ∨ !c.boot.fetched ∨ c.safety.mode = .failed then c
  else
    let img := imageHeld v c
    match checkSignature v img with
    | some e => imageFails e c
    | none =>
      modBoot (fun b =>
        { b with
          stage := .starting
          digest := sha512 img
          svn := imgBits img 96 8
          keySlot := imgBits img 104 2
          build := imgBits img 128 32
          hasPartition := decide (imgBits img 256 32 ≠ 0) }) c

/-- IMAGE_VERIFY_DONE (17 R487). -/
def execImageVerifyDone (s : State) : Host.Outcome State Fault Refusal := act s verifyDone

/-! ## SETUP_STATE_REACHED (17 R483, R488, 14 R400, R401) -/

/-- Every checker group of the part has been tested (14 R419). -/
def testAll (p : Part) (c : Ctl) : Ctl :=
  modSafety (fun s =>
    { s with
      tested := (allCheckers.filter (checkerPresent p c)).foldl (fun m x => stow 0 (checkerKey x) (now c) m) s.tested
      warned := [] }) c

/-- The cores after the cold-start tests: one that fails is fenced; in split mode core C is the replay
spare. -/
def startCores (cores : Nat) (split : Bool) : List CoreSt :=
  (List.range 3).map fun k => if !cores.testBit k then .fenced else if split ∧ k = 2 then .spare else .inService

/-- SETUP_STATE_REACHED (17 R483): not before the DRAM fill is complete. -/
def setupReached (cores : Nat) (v : View) (c : Ctl) : Ctl :=
  let p := v.part
  if c.boot.stage ≠ .starting ∨ !c.boot.filled ∨ c.safety.mode = .failed then c
  else if ((List.range 3).filter cores.testBit).length < 2 then failDevice p 10 c
  else
    let split := c.boot.splitLatched && c.boot.hasPartition && (List.range 3).all cores.testBit
    bootUp p (testAll p (modSafety (fun s => { s with cores := startCores cores split, splitActive := split })
      (modBoot (fun b => { b with stage := .setup }) c)))

/-- SETUP_STATE_REACHED (17 R483). -/
def execSetupStateReached (cores : Nat) (s : State) : Host.Outcome State Fault Refusal := act s (setupReached cores)

end Sys2Proof.Machine
end

