-- ==== Sys2Proof/Machine/Conv.lean ====
section
/-! DEFINITION. MX.CONV and MX.POOL (05 R143-R165). -/

namespace Sys2Proof.Machine

/-- An input tensor in scratch, and how a tap reaches it (05 R144-R147, R150, R164). -/
structure Input where
  f : Nat
  ci : Bool
  zbt : Bool
  /-- Byte address of the block's scratch; base and strides in bytes. -/
  scr : Nat
  a : Nat
  cstr : Nat
  ystr : Nat
  xstr : Nat
  h : Nat
  w : Nat
  y0 : Nat
  rows : Nat
  outW : Nat
  pos0 : Nat
  sy : Nat
  sx : Nat
  dy : Nat
  dx : Nat
  padT : Nat
  padL : Nat
  /-- 0 zero, 1 constant, 2 replicate. -/
  pad : Nat
  padVal : Nat
  trans : Bool
  phY : Nat
  phX : Nat
  deriving DecidableEq, Repr

/-- Input coordinates of tap (ky, kx) at tile row `t` (05 R145, R147). -/
def Input.coords (x : Input) (t ky kx : Nat) : Int × Int :=
  let p := x.pos0 + t
  let oy : Int := (p / x.outW : Nat)
  let ox : Int := (p % x.outW : Nat)
  if x.trans then
    (oy + ((x.phY + x.padT : Nat) - (ky * x.dy : Nat) : Int) / x.sy, ox + ((x.phX + x.padL : Nat) - (kx * x.dx : Nat) : Int) / x.sx)
  else (oy * x.sy + (ky * x.dy : Nat) - x.padT, ox * x.sx + (kx * x.dx : Nat) - x.padL)

/-- The pair lies in the image. -/
def Input.inImage (x : Input) (yx : Int × Int) : Bool :=
  decide (0 ≤ yx.1) && decide (yx.1 < x.h) && decide (0 ≤ yx.2) && decide (yx.2 < x.w)

/-- The element that is read: in the image, or clamped to it under replicate padding; none otherwise. -/
def Input.reads (x : Input) (t ky kx : Nat) : Option (Nat × Nat) :=
  let yx := x.coords t ky kx
  if x.inImage yx then some (yx.1.toNat, yx.2.toNat)
  else if x.pad = 2 ∧ !x.trans then
    some ((max 0 (min yx.1 ((x.h : Int) - 1))).toNat, (max 0 (min yx.2 ((x.w : Int) - 1))).toNat)
  else none

/-- Directory entry of row (ch, iy) of a ZBT input (05 R150). -/
def Input.dir (m : Mems) (x : Input) (ch iy : Nat) : Groups :=
  ⟨x.scr, devNat m (x.a + x.ystr * (iy - x.y0) + x.cstr * (ch / 8) + 8 * (ch % 8)) 8⟩

/-- Byte address of the line or record that holds element (ch, iy, ix), and its index there (05 R147). -/
def Input.place (x : Input) (ch iy ix : Nat) : Nat × Nat :=
  if x.ci then (x.a + x.cstr * (ch / 64) + x.ystr * (iy - x.y0) + x.xstr * ix, ch % 64)
  else (x.a + x.cstr * ch + x.ystr * (iy - x.y0), ix)

/-- Bits of element (ch, iy, ix). -/
def Input.bits (m : Mems) (x : Input) (ch iy ix : Nat) : Nat :=
  if x.zbt then (x.dir m ch iy).bits m x.f ix
  else elemAt m x.f (x.place ch iy ix).1 (x.place ch iy ix).2

/-- Bits of the A element of channel `ch`, tap (ky, kx), at tile row `t` (05 R145). -/
def Input.tap (m : Mems) (x : Input) (ch t ky kx : Nat) : Nat :=
  match x.reads t ky kx with
  | some (iy, ix) => x.bits m ch iy ix
  | none => if x.pad = 1 ∧ !x.trans then bitsN x.padVal 0 (4 * nibbles x.f) else 0

/-- Presence of that element: by the bitmap walk of a zero-bitmap input (05 R151); every element of a dense input counts
(04 R121). -/
def Input.present (m : Mems) (x : Input) (ch t ky kx : Nat) : Bool :=
  !x.zbt || match x.reads t ky kx with
  | some (iy, ix) => (x.dir m ch iy).present m ix
  | none => decide (x.pad = 1) && !x.trans && !(elemNum x.f (bitsN x.padVal 0 (4 * nibbles x.f))).isZero

/-- Every tile row of a tap lies outside the image, under zero padding or in transposed mode (05 R153). -/
def Input.void (x : Input) (m ky kx : Nat) : Bool :=
  (decide (x.pad = 0) || x.trans) && (List.range m).all fun t => (x.reads t ky kx).isNone

/-- The groups that a tap's walk over a zero-bitmap input meets are all marked zero (04 R131, 05 R151, R152). -/
def Input.allZero (mm : Mems) (x : Input) (m ch ky kx : Nat) : Bool :=
  x.zbt && (List.range m).all fun t => match x.reads t ky kx with
    | some (iy, _) => (List.range (cdiv x.w 64)).all fun g => ((x.dir mm ch iy).addr g).isNone
    | none => !x.present mm ch t ky kx

/-- A tap misses the phase of a transposed tile (05 R144). -/
def Input.misses (x : Input) (ky kx : Nat) : Bool :=
  x.trans && (decide (((x.phY + x.padT : Nat) - (ky * x.dy : Nat) : Int) % x.sy ≠ 0) ||
    decide (((x.phX + x.padL : Nat) - (kx * x.dx : Nat) : Int) % x.sx ≠ 0))

/-- The lowered order (05 R144). -/
def Input.taps (x : Input) (cin kh kw : Nat) : List (Nat × Nat × Nat) :=
  (List.range (cdiv cin 64)).flatMap fun cb =>
    (List.range kh).flatMap fun ky =>
      (List.range kw).flatMap fun kx =>
        if x.misses ky kx then []
        else (List.range (min 64 (cin - 64 * cb))).map fun ci => (64 * cb + ci, ky, kx)

/-- Some tap needs an image row that is not resident (05 R158). -/
def Input.rowMissing (x : Input) (m kh kw : Nat) : Bool :=
  (List.range m).any fun t => (List.range kh).any fun ky => (List.range kw).any fun kx =>
    !x.misses ky kx &&
      match x.reads t ky kx with
      | some (iy, _) => decide (iy < x.y0) || decide (x.y0 + x.rows ≤ iy)
      | none => false

/-- Bytes of a record of 64 channels: w units (05 R147). -/
def recordBytes (f : Nat) : Nat := 64 * cdiv (nibbles f) 2

/-- Extents of the resident rows of channels `c0` to `c1` (05 R158): the last line of each bounds them. -/
def Input.extents (x : Input) (c0 c1 : Nat) : List (Nat × Nat) :=
  [c0, c1].flatMap fun ch => [0, x.rows - 1].map fun j =>
    if x.zbt then (x.a + x.ystr * j + x.cstr * (ch / 8), 64)
    else if x.ci then (x.a + x.cstr * (ch / 64) + x.ystr * j, x.xstr * (x.w - 1) + recordBytes x.f)
    else (x.a + x.cstr * ch + x.ystr * j, elemBytes x.f x.w)

/-- Spans of the elements and groups that the taps of `ch`s read. -/
def Input.spans (mm : Mems) (x : Input) (m : Nat) (l : List (Nat × Nat × Nat)) : List (Nat × Nat) :=
  l.flatMap fun (ch, ky, kx) => (List.range m).flatMap fun t =>
    match x.reads t ky kx with
    | some (iy, ix) =>
      if x.zbt then (x.a + x.ystr * (iy - x.y0) + x.cstr * (ch / 8) + 8 * (ch % 8), 8) :: (x.dir mm ch iy).spans mm x.f x.w
      else [((x.place ch iy ix).1 + nibbles x.f * (x.place ch iy ix).2 / 2, max 1 (nibbles x.f / 2))]
    | none => []

/-! ## MX.CONV -/

/-- Numeric fields of MX.CONV that its form uses (log 49): DW_MULT of a depthwise tile, the phases of a transposed one,
ACC_STRIDE of LOAD, IN_XSTRIDE of channels-innermost input. -/
def convFields (d : Desc) : List NumField :=
  let outW := numF d (192, 16, 1, 8192)
  let w := cdiv (nibbles (fld d 64 4)) 2
  [(80, 9, 1, 256), (96, 9, 1, 256), (112, 16, 1, 65535), (128, 16, 1, 8192), (144, 16, 1, 8192), (160, 16, 0, 8191),
   (176, 16, 1, 8192), (192, 16, 1, 8192), (208, 16, 0, 8191), (224, 16, 0, outW - 1), (240, 8, 1, 16), (248, 8, 1, 16),
   (256, 8, 1, 16), (264, 8, 1, 16), (272, 8, 1, 64), (280, 8, 1, 64), (288, 16, 0, 1023), (304, 16, 0, 1023)] ++
  (if fld d 75 1 = 1 then [(352, 4, 1, 4)] else []) ++
  (if fld d 89 1 = 1 then [(356, 4, 0, numF d (256, 8, 1, 16) - 1), (360, 4, 0, numF d (264, 8, 1, 16) - 1)] else []) ++
  [(384, 16, 1, 32767), (400, 16, 1, 32767), (432, 16, 1, 32767)] ++
  (if fld d 76 2 = 2 then [(464, 16, 1, 32767)] else []) ++
  (if fld d 72 1 = 1 then [(480, 16, w, 32767)] else [])

/-- The input of an MX.CONV. -/
def convInput (b : Nat) (d : Desc) : Input :=
  let outW := numF d (192, 16, 1, 8192)
  { f := fld d 64 4
    ci := decide (fld d 72 1 = 1)
    zbt := decide (fld d 73 1 = 1)
    scr := scratchBase b
    a := scratchBase b + 64 * fld d 368 15
    cstr := 64 * numF d (384, 16, 1, 32767)
    ystr := 64 * numF d (400, 16, 1, 32767)
    xstr := 64 * numF d (480, 16, cdiv (nibbles (fld d 64 4)) 2, 32767)
    h := numF d (128, 16, 1, 8192)
    w := numF d (144, 16, 1, 8192)
    y0 := numF d (160, 16, 0, 8191)
    rows := numF d (176, 16, 1, 8192)
    outW := outW
    pos0 := numF d (208, 16, 0, 8191) * outW + numF d (224, 16, 0, outW - 1)
    sy := numF d (256, 8, 1, 16)
    sx := numF d (264, 8, 1, 16)
    dy := numF d (272, 8, 1, 64)
    dx := numF d (280, 8, 1, 64)
    padT := numF d (288, 16, 0, 1023)
    padL := numF d (304, 16, 0, 1023)
    pad := fld d 78 2
    padVal := fld d 320 16
    trans := decide (fld d 89 1 = 1)
    phY := numF d (356, 4, 0, numF d (256, 8, 1, 16) - 1)
    phX := numF d (360, 4, 0, numF d (264, 8, 1, 16) - 1) }

/-- The weights of an MX.CONV as a B operand (05 R143, R155). -/
def convWeights (b : Nat) (d : Desc) (k : Nat) : Opnd :=
  { f := fld d 68 4, trans := false, zbt := decide (fld d 74 1 = 1), a := scratchBase b + 64 * fld d 416 15,
    stride := 64 * numF d (432, 16, 1, 32767), lanes := numF d (96, 9, 1, 256), k := k, sc := 0, scStride := 0 }

/-- The kernel of an MX.CONV: A lowered from the input, depthwise columns reading their own channel. -/
def convKern (mm : Mems) (b kind m : Nat) (x : Input) (y : Opnd) (l : List (Nat × Nat × Nat)) (ch0 mult : Nat)
    (dw : Bool) : Kern :=
  let tap : Nat → Nat × Nat × Nat := fun k => l.getD k (0, 0, 0)
  let ch : Nat → Nat → Nat := fun u k => ch0 + (tap k).1 + if dw then u / mult else 0
  let bits : Nat → Nat → Nat → Nat := fun t u k => x.tap mm (ch u k) t (tap k).2.1 (tap k).2.2
  { m := m, n := y.lanes, k := l.length, kind := kind
    a := fun t u k => elemNum x.f (bits t u k)
    b := fun k u => y.num mm b u k
    ai := fun t u k => elemInt x.f (bits t u k)
    bi := fun k u => y.int mm b u k
    sa := fun _ _ => 127
    sb := fun _ _ => 127
    pa := fun t k => x.present mm (ch 0 k) t (tap k).2.1 (tap k).2.2
    pb := fun k u => y.present mm b u k }

/-- K-step `k` of an MX.CONV (05 R152, R153): of a void one nothing is read; otherwise the directory line of the weights
that no step before it has read, the input's directory entries and groups or elements, and the weights' line or groups,
unless the weights' entry or what the walk meets is directory-empty. `chs` gives the input channels of a tap. -/
def convStep (mm : Mems) (b m : Nat) (x : Input) (y : Opnd) (l : List (Nat × Nat × Nat)) (chs : Nat → List Nat) (k : Nat) : KStep :=
  let voidAt : Nat → Bool := fun j => let t := l.getD j (0, 0, 0); x.void m t.2.1 t.2.2
  let tap := l.getD k (0, 0, 0)
  if voidAt k then { void := true }
  else
    let head := if y.zbt && (List.range (k % 8)).all (fun j => voidAt (k - k % 8 + j)) then [(y.a + y.stride * (k / 8), 64)] else []
    let ins := if y.allZero mm b k then [] else x.spans mm m ((chs tap.1).map fun ch => (ch, tap.2))
    let ws := if y.allZero mm b k || (chs tap.1).all (fun ch => x.allZero mm m ch tap.2.1 tap.2.2) then [] else y.data mm b k
    { reads := head ++ ins ++ ws
      beyond := !(((if x.zbt then ins.filter fun s => decide (s.2 ≠ 8) else []) ++ if y.zbt then ws else []).all
        (within (scratchBase b) scratchSize)) }

/-- A channel block of the lowered order lies within one record (05 R154). -/
def recordsOk (cin ch0 : Nat) : Bool :=
  (List.range (cdiv cin 64)).all fun cb =>
    let a := ch0 + 64 * cb
    decide (a / 64 = (a + min 64 (cin - 64 * cb) - 1) / 64)

/-- MX.CONV (05 R157-R159). -/
def conv (r : Ref) (u : Upset) (v : View) (c : Ctl) : Ctl :=
  match ready c r 0 2 with
  | none => c
  | some cmd =>
    let p := v.part
    let d := cmd.desc
    let b := dTarget d
    let c0 := dropKept b (noteClamp p (anyClamped d (convFields d)) c)
    let inScratch := within (scratchBase b) scratchSize
    let x := convInput b d
    let wf := fld d 68 4
    let mode := fld d 76 2
    let m := numF d (80, 9, 1, 256)
    let n := numF d (96, 9, 1, 256)
    let cin := numF d (112, 16, 1, 65535)
    let kh := numF d (240, 8, 1, 16)
    let kw := numF d (248, 8, 1, 16)
    let dw := decide (fld d 75 1 = 1)
    let mult := numF d (352, 4, 1, 4)
    let ch0 := fld d 336 16 * cin
    let l := x.taps cin kh kw
    let y := convWeights b d l.length
    let chLast := ch0 + cin - 1 + if dw then (n - 1) / mult else 0
    if 6 ≤ x.f ∨ 6 ≤ wf ∨ mode = 3 ∨ x.pad = 3 then invalid p r 1 c0
    else match pairKind x.f wf with
      | none => invalid p r 4 c0
      | some kind =>
        let fp := decide (kind ≠ 0)
        let acc := loadAcc v b (fld d 448 15) (numF d (464, 16, 1, 32767)) m n fp
        if !((x.extents ch0 chLast ++ y.extents ++ (if mode = 2 then acc.2 else [])).all inScratch) then invalid p r 5 c0
        else match chooseBank c b mode m n fp false with
          | none => invalid p r 6 c0
          | some (i, keep) =>
            if (x.zbt && (x.ci || decide (256 < x.w))) || (dw && (decide (cin ≠ 1) || x.trans || x.zbt || y.zbt)) ||
                (x.trans && decide (x.pad ≠ 0)) || (x.ci && !recordsOk cin ch0) || x.rowMissing m kh kw then
              invalid p r 10 c0
            else
              let chs : Nat → List Nat := fun ch => if dw then tab (chLast + 1 - ch0) fun j => ch0 + ch + j else [ch0 + ch]
              runKern v r b u i keep (convKern v.mems b kind m x y l ch0 mult dw) (x.zbt || y.zbt) (!dw)
                (if mode = 2 then some acc else none) ((List.range l.length).map (convStep v.mems b m x y l chs)) c0

/-- MX_CONV (05 R157). -/
def execMxConv (r : Ref) (u : Upset) (s : State) : Host.Outcome State Fault Refusal := act s (conv r u)

/-! ## MX.POOL (05 R163-R165) -/

/-- Numeric fields of MX.POOL. -/
def poolFields (d : Desc) : List NumField :=
  let outW := numF d (192, 16, 1, 8192)
  [(80, 9, 1, 256), (96, 9, 1, 256), (112, 16, 0, 65535), (128, 16, 1, 8192), (144, 16, 1, 8192), (160, 16, 0, 8191),
   (176, 16, 1, 8192), (192, 16, 1, 8192), (208, 16, 0, 8191), (224, 16, 0, outW - 1), (240, 8, 1, 16), (248, 8, 1, 16),
   (256, 8, 1, 16), (264, 8, 1, 16), (272, 16, 0, 1023), (288, 16, 0, 1023), (320, 16, 1, 32767), (336, 16, 1, 32767)] ++
  (if fld d 72 1 = 1 then [(352, 16, cdiv (nibbles (fld d 64 4)) 2, 32767)] else []) ++ [(384, 16, 1, 32767)]

/-- The input of an MX.POOL: padding is ignored. -/
def poolInput (b : Nat) (d : Desc) : Input :=
  let outW := numF d (192, 16, 1, 8192)
  { f := fld d 64 4
    ci := decide (fld d 72 1 = 1)
    zbt := false
    scr := scratchBase b
    a := scratchBase b + 64 * fld d 304 15
    cstr := 64 * numF d (320, 16, 1, 32767)
    ystr := 64 * numF d (336, 16, 1, 32767)
    xstr := 64 * numF d (352, 16, cdiv (nibbles (fld d 64 4)) 2, 32767)
    h := numF d (128, 16, 1, 8192)
    w := numF d (144, 16, 1, 8192)
    y0 := numF d (160, 16, 0, 8191)
    rows := numF d (176, 16, 1, 8192)
    outW := outW
    pos0 := numF d (208, 16, 0, 8191) * outW + numF d (224, 16, 0, outW - 1)
    sy := numF d (256, 8, 1, 16)
    sx := numF d (264, 8, 1, 16)
    dy := 1
    dx := 1
    padT := numF d (272, 16, 0, 1023)
    padL := numF d (288, 16, 0, 1023)
    pad := 0
    padVal := 0
    trans := false
    phY := 0
    phX := 0 }

/-- The elements of a window in the image, in ascending (ky, kx), as FP32 encodings. -/
def window (mm : Mems) (x : Input) (ch t kh kw : Nat) : List Nat :=
  (List.range kh).flatMap fun ky => (List.range kw).filterMap fun kx =>
    (x.reads t ky kx).map fun yx => enc32 (elemNum x.f (x.bits mm ch yx.1 yx.2))

/-- The FP32 value nearest 1/n, for `1 ≤ n ≤ 256`. -/
def recipN (n : Nat) : Nat :=
  let k := 28 + Nat.log2 n
  let q := 2 ^ k / n
  let r := 2 ^ k % n
  enc32 (.fin false (2 * q + if r = 0 then 0 else 1) (-((k : Int) + 1)))

/-- Pooling of one window (05 R163): a maximum of −0 is +0, as in every reduction (02 R76). -/
def poolOf (op size : Nat) (l : List Nat) : Fl Nat :=
  if op = 0 then
    (if l.any nan32 then ⟨fFP32.nanBits, 0⟩
     else match l with
       | [] => ⟨0, 0⟩
       | a :: t => ⟨plus0 (t.foldl accMax a), 0⟩)
  else
    let n := if op = 1 then size else l.length
    if n = 0 then ⟨0, 0⟩
    else
      let s := l.foldl (fun (a : Fl Nat) x => let y := fAcc a.val x; ⟨y.val, a.flags ||| y.flags⟩) (⟨0, 0⟩ : Fl Nat)
      let y := fMul s.val (recipN n)
      ⟨y.val, s.flags ||| y.flags⟩

/-- MX.POOL (05 R163-R165). -/
def pool (r : Ref) (u : Upset) (v : View) (c : Ctl) : Ctl :=
  match ready c r 0 3 with
  | none => c
  | some cmd =>
    let p := v.part
    let d := cmd.desc
    let b := dTarget d
    let c0 := dropKept b (noteClamp p (anyClamped d (poolFields d)) c)
    let x := poolInput b d
    let f := fld d 68 4
    let op := fld d 74 2
    let m := numF d (80, 9, 1, 256)
    let n := numF d (96, 9, 1, 256)
    let ch0 := numF d (112, 16, 0, 65535)
    let kh := numF d (240, 8, 1, 16)
    let kw := numF d (248, 8, 1, 16)
    let out := scratchBase b + 64 * fld d 368 15
    let ostr := 64 * numF d (384, 16, 1, 32767)
    let lines := if x.ci then m else n
    let len := if x.ci then n else m
    if 6 ≤ x.f ∨ (6 ≤ f ∧ f ≠ 10) ∨ op = 3 ∨ fld d 76 2 = 3 then invalid p r 1 c0
    else if !((x.extents ch0 (ch0 + n - 1) ++ [(out + ostr * (lines - 1), elemBytes f len)]).all
        (within (scratchBase b) scratchSize)) then invalid p r 5 c0
    else if x.rowMissing m kh kw then invalid p r 10 c0
    else
      let cell : Nat → Nat → Fl Nat := fun t ch =>
        let y := poolOf op (kh * kw) (window v.mems x ch t kh kw)
        let z := convElem f (ieeeMode p c (fld d 76 2)) (dec32 y.val)
        ⟨z.val, y.flags ||| z.flags⟩
      let vals := (List.range lines).map fun l => (List.range len).map fun i =>
        if x.ci then cell l (ch0 + i) else cell i (ch0 + l)
      let ws := (List.range lines).map fun l => (out + ostr * l, packElems f ((vals.getD l []).map Fl.val))
      let taps := (List.range n).flatMap fun i => (List.range kh).flatMap fun ky => (List.range kw).map fun kx => (ch0 + i, ky, kx)
      blockRun v r b u (x.spans v.mems m taps) (poisonWrites ws) (fun c =>
        executed p r 0 (raiseFlags p ((vals.map flagsOf).foldl (· ||| ·) 0) (postWrites ws c))) c0

/-- MX_POOL (05 R164). -/
def execMxPool (r : Ref) (u : Upset) (s : State) : Host.Outcome State Fault Refusal := act s (pool r u)

end Sys2Proof.Machine
end

