-- ==== Sys2Proof/Machine/Ethernet.lean ====
section
/-! DEFINITION. The receive path of the MACs (16 R462, R463) and the flow table (08 R251). -/

namespace Sys2Proof.Machine

/-- Ones'-complement sum of big-endian 16-bit words, an odd last byte padded (the checksum of IPv4 and UDP). -/
def onesSum : List Byte → Nat
  | a :: b :: l => let s := a.toNat * 256 + b.toNat + onesSum l; s % 65536 + s / 65536
  | [a] => a.toNat * 256
  | [] => 0

/-- A checksummed span is good: its sum is all ones. -/
def sumGood (l : List Byte) : Bool := decide (onesSum l = 65535)

/-- Offset of the EtherType behind one or two VLAN tags (16 R462, log 27). -/
def typeAt (f : List Byte) : Nat :=
  let tag := fun (i : Nat) => decide (fieldBE f i 2 = 0x8100) || decide (fieldBE f i 2 = 0x88A8)
  if tag 12 then (if tag 16 then 20 else 16) else 12

/-- A UDP datagram as the flow table sees it: source address, destination port, payload. -/
structure Udp where
  src : Nat
  port : Nat
  bytes : List Byte
  deriving DecidableEq, Repr

/-- The IPv4 UDP datagram of a frame whose checksums are good (16 R463); fragments are not supported
(08 R244). -/
def udpOf (f : List Byte) : Option Udp :=
  let at_ := typeAt f + 2
  let ip := f.drop at_
  let ihl := 4 * (fieldBE ip 0 1 % 16)
  let total := fieldBE ip 2 2
  let u := (ip.take total).drop ihl
  let len := fieldBE u 4 2
  let pseudo := (ip.drop 12).take 8 ++ beBytes 2 17 ++ beBytes 2 len
  if fieldBE f (typeAt f) 2 ≠ 0x0800 ∨ fieldBE ip 0 1 / 16 ≠ 4 ∨ ihl < 20 ∨ ip.length < total ∨ total < ihl + 8 ∨
      fieldBE ip 9 1 ≠ 17 ∨ fieldBE ip 6 2 % 16384 ≠ 0 ∨ !sumGood (ip.take ihl) ∨ len < 8 ∨ u.length < len ∨
      (fieldBE u 6 2 ≠ 0 ∧ !sumGood (pseudo ++ u.take len)) then none
  else some ⟨fieldBE ip 12 4, fieldBE u 2 2, (u.take len).drop 8⟩

/-- Flow entry `f` is valid and matches (08 R251). -/
def flowMatches (p : Part) (c : Ctl) (f mac : Nat) (u : Udp) : Bool :=
  let e := flowEntry p c f
  e.testBit 3 && decide (bitsN e 0 3 = mac) && decide (bitsN e 16 16 = u.port) &&
    (decide (bitsN e 32 32 = 0) || decide (bitsN e 32 32 = u.src))

/-- Flows that a running stream of one kind, live or journal, takes: its own; while an access unit of an old arming is in
progress, and while windows of one last, the old one (08 R232). -/
def flowsOf (cls : Nat) (journal : Bool) (s : Stream) : List Nat :=
  let arms := if cls = 4 then s.eras.map Era.arm else s.arm :: (s.cur.map Sample.arm).toList
  ((arms.filter fun a => decide (fromJournal a = journal)).map armFlow).dedup

/-- The offset by which a network time received now converts (09 R279, 13 R385). -/
def offsetFor (c : Ctl) (journal : Bool) : Option Int :=
  if journal then c.journal.offset else if c.time.selected < 2 then some (offsetNow c) else none

/-- Deliver a datagram to the running streams of one kind, live or journal, whose flow it matches. -/
def deliver (p : Part) (journal : Bool) (mac : Nat) (u : Udp) (stamp draw rec_ : Nat) (c : Ctl) : Ctl :=
  [2, 4].foldl (fun c cls =>
    (streamsOf c cls).foldl (fun c e =>
      match (flowsOf cls journal e.2).find? fun f => flowMatches p c f mac u with
      | some f =>
        if e.2.state = .running then
          modS cls e.1 (fun s => { s with inbox := s.inbox ++ [⟨u.bytes, f, stamp, journal, draw, rec_, offsetFor c journal⟩] }) c
        else c
      | none => c) c) c

/-- The MAC accepts a destination (16 R463). -/
def macAccepts (p : Part) (c : Ctl) (mac dst : Nat) : Bool :=
  decide (dst = effVal p c 0x2910 (mac + 1)) || decide (dst = 0xFFFFFFFFFFFF) ||
    ((List.range 16).any fun i =>
      decide (bitsN (effVal p c 0x2913 (i + 1)) 0 48 = dst) && (effVal p c 0x2913 (i + 1)).testBit (48 + mac)) ||
    (decide (dst = 0x0180C200000E) && [0, 1].any fun t => trOn p c t && decide (effVal p c (0x2201 + t) 2 = mac))

/-- Full time of a receive stamp: the captured value less PhyRxLatency (09 R276). -/
def rxStamp (p : Part) (c : Ctl) (mac : Nat) (rx : Word64) : Nat :=
  ((fullTime c.time : Int) + diff rx.toNat (now c) - effVal p c 0x2203 (mac + 1)).toNat

/-- ETHERNET_FRAME_RECEIVED (16 R463): dropped and counted, left to the time unit, or delivered to the flow
table, where a frame of a valid flow is journalled (08 R257). -/
def frameReceived (mac : Nat) (frame : List Byte) (fcsOk : Bool) (rx : Word64) (v : View) (c : Ctl) : Ctl :=
  let p := v.part
  let drop := bump p 0x2912 (mac + 1) 64 1 c
  if !macRuns p c mac then c
  else if !fcsOk ∨ frame.length < 60 ∨ 9212 < frame.length then drop
  else if !macAccepts p c mac (fieldBE frame 0 6) then c
  else if fieldBE frame (typeAt frame) 2 = 0x88F7 then c
  else match udpOf frame with
    | none => drop
    | some u =>
      let st := rxStamp p c mac rx
      let c1 := if (List.range 256).any fun f => flowMatches p c f mac u then
          record p 1 mac (st % 2 ^ 64) (st / 2 ^ 64) frame c
        else c
      deliver p false mac u st 0 0 c1

/-- ETHERNET_FRAME_RECEIVED (16 R463). -/
def execEthernetFrameReceived (mac : Nat) (frame : List Byte) (fcsOk : Bool) (rx : Word64) (s : State) :
    Host.Outcome State Fault Refusal := act s (frameReceived mac frame fcsOk rx)

end Sys2Proof.Machine
end

