-- ==== Sys2Proof/Machine/Frame.lean ====
section
/-! DEFINITION. FRAME_BOUNDARY (09 R265-R267): the next frame boundary. -/

namespace Sys2Proof.Machine

/-- The next boundary is reached (09 R267), and time transitions that are then due are taken. -/
def frameBoundary (v : View) (c : Ctl) : Ctl :=
  if !c.boot.started ∨ c.time.period = 0 then c
  else timeSettle v.part (emitBoundary v.part (modTime (reach (c.time.boundary % 2 ^ 64)) c))

/-- FRAME_BOUNDARY (09 R267). -/
def execFrameBoundary (s : State) : Host.Outcome State Fault Refusal := act s frameBoundary

/-- One step on an empty queue: a TCLK cycle passes (log 24). -/
def idleTick (s : State) : Host.Outcome State Fault Refusal :=
  act s fun v c => if c.boot.started then timeSettle v.part (modTime (fun t => advance (increment t) t) c) else c

end Sys2Proof.Machine
end

