-- ==== Sys2Proof/Machine/Text.lean ====
section
/-! DEFINITION. The lines of the Cloux monitor (16 R477): ASCII words, upper-case hexadecimal, CR LF. -/

namespace Sys2Proof.Machine

/-- A hexadecimal digit in upper case. -/
def hexChar (d : Nat) : Byte := BitVec.ofNat 8 (if d < 10 then 48 + d else 55 + d)

/-- A number below 2^128 without leading zeros; 0 is written 0. -/
def hexNat (n : Nat) : List Byte :=
  if n = 0 then [48] else ((List.range 32).reverse.map fun i => hexChar (n / 16 ^ i % 16)).dropWhile fun b => decide (b = 48)

/-- A byte string: two digits for each byte, lowest address first. -/
def hexBytes (bs : List Byte) : List Byte := bs.flatMap fun b => [hexChar (b.toNat / 16), hexChar (b.toNat % 16)]

/-- A reply line: its first word and its fields, each preceded by one space. -/
def replyLine (word : List Byte) (fields : List (List Byte)) : List Byte :=
  word ++ (fields.flatMap fun f => (32 : Byte) :: f) ++ [13, 10]

/-- OK and its fields. -/
def okLine (fields : List (List Byte)) : List Byte := replyLine [0x4F, 0x4B] fields
/-- ERR and its field. -/
def errLine (field : List Byte) : List Byte := replyLine [0x45, 0x52, 0x52] [field]

/-- SYNTAX. -/
def wordSyntax : List Byte := [0x53, 0x59, 0x4E, 0x54, 0x41, 0x58]
/-- RANGE. -/
def wordRange : List Byte := [0x52, 0x41, 0x4E, 0x47, 0x45]
/-- SEALED. -/
def wordSealed : List Byte := [0x53, 0x45, 0x41, 0x4C, 0x45, 0x44]
/-- NOT_READY. -/
def wordNotReady : List Byte := [0x4E, 0x4F, 0x54, 0x5F, 0x52, 0x45, 0x41, 0x44, 0x59]

/-- Answer a line. -/
def say (line : List Byte) (c : Ctl) : Ctl := emit (.monitor line) c

end Sys2Proof.Machine
end

