-- ==== Sys2Proof/Machine/OdWrite.lean ====
section
/-! DEFINITION. Accesses to the object dictionary (18 R508-R517): the links by which they arrive, the checks,
and what a write does at each entry that is more than a stored number. -/

namespace Sys2Proof.Machine

/-! ## Links (16 R461, R476, R477, 17 R484) -/

/-- The device answers on a path: the mailbox from configuration-ready, CAN from the boot-up message and not
while stopped, the monitor from configuration-ready. -/
def reachable (c : Ctl) : Path → Bool
  | .mailbox fn => c.boot.cfgReady && (decide (fn = 0) || (decide (fn = 9) && c.boot.bifur && !c.links.perst1))
  | .can => decide (c.links.can.nmt = 127) || decide (c.links.can.nmt = 5)
  | .monitor => c.boot.cfgReady

/-- The setup state has been reached since the cold start. -/
def pastBoot (c : Ctl) : Bool := decide (c.boot.stage = .setup) || decide (c.boot.stage = .service)

/-- STATUS of a mailbox as it reads (16 R461): NOT_READY until configuration-ready. -/
def mailboxStatus (c : Ctl) (fn : Nat) : Nat := if c.boot.cfgReady then (getFn c fn).mailStatus else 4

/-- Reply of the monitor to a dictionary access (16 R477). -/
def monitorReply (number : Bool) : OdAns → List Byte
  | .value bs => okLine [if number then hexNat (ofLE bs) else hexBytes bs]
  | .done => okLine []
  | .abort code => errLine (hexNat code)
  | .sealed => errLine wordSealed
  | .notReady => errLine wordNotReady

/-- Complete an access on its link (18 R508): the mailbox's STATUS and DATA, the USDO response, or the line. A
mailbox returns the 64-byte block `blk` of a longer value (18 R513); a value too long for an expedited CAN
response is a segmented transfer (log 30). -/
def answer (path : Path) (idx sub blk : Nat) (a : OdAns) (c : Ctl) : Ctl :=
  match path with
  | .mailbox fn =>
    match a with
    | .value bs =>
      let d := if bs.length ≤ 64 then bs else (bs.drop (64 * blk)).take 64
      emit (.od path (.value d)) (modFn fn (fun f => { f with mailStatus := 2 + 256 * d.length, mailData := d }) c)
    | .abort code => emit (.od path a) (modFn fn (fun f => { f with mailStatus := 3 + 2 ^ 32 * code }) c)
    | _ => emit (.od path a) (modFn fn (fun f => { f with mailStatus := 2 }) c)
  | .can =>
    let long := match a with
      | .value bs => decide (56 < bs.length)
      | _ => false
    emit (.od path a) (modLinks (fun l => { l with can := { l.can with segmented := if long then some (idx, sub) else none } }) c)
  | .monitor => say (monitorReply (decide ((odAccess idx sub).2 ≠ 0)) a) c

/-! ## Checks (18 R510, R514, R515) -/

/-- The entries that the mailbox serves before the setup state (17 R484). -/
def bootSet (idx sub : Nat) : Bool :=
  decide (idx = 0x2000) || (decide (idx = 0x2500) && decide (1 ≤ sub) && decide (sub ≤ 3)) ||
    (decide (idx = 0x2700) && decide (sub = 1)) || (decide (0x2A00 ≤ idx) && decide (idx ≤ 0x2A21))

/-- Checks 1 to 3: a request that is no USDO request (log 30), an index or subindex not in the map. -/
def checkEntry (path : Path) (idx sub : Nat) (empty : Bool) : Option OdAns :=
  if path = .can ∧ (65536 ≤ idx ∨ 256 ≤ sub ∨ empty) then some (.abort 0x05040001)
  else if !odHasIndex idx then some (.abort 0x06020000)
  else if !odDefined idx sub then some (.abort 0x06090011)
  else none

/-- Check 5: before the setup state the boot set alone. -/
def outOfState (c : Ctl) (idx sub : Nat) : Bool :=
  decide (c.safety.mode ≠ .failed) && !pastBoot c && !bootSet idx sub

/-- What a read answers. -/
def readAnswer (v : View) (c : Ctl) (path : Path) (idx sub : Nat) : OdAns :=
  if path = .monitor ∧ !pastBoot c then .notReady
  else match checkEntry path idx sub false with
    | some a => a
    | none =>
      if !odAbsent v.part idx sub && outOfState c idx sub then .abort 0x08000022
      else .value (odValue v c path idx sub)

/-- FaultReadIndex and FuseLogIndex: writable in every state (18 R514). -/
def indexEntry (idx sub : Nat) : Bool :=
  (decide (idx = 0x2801) && decide (sub = 1)) || (decide (idx = 0x2A20) && decide (sub = 2))

/-- Check 7: the state, or the entry's own rule, refuses the write (18 R514, 17 R485, R495, R496, R498). DESIGN CHOICE
(log 80): in the safe state and in FAILED this comes before the test-mode check, so a TST entry too is refused there
outside test mode, where 00 R13 has such a write ignored and 18 R514 names no TST entries. -/
def refused (c : Ctl) (idx sub val : Nat) (acc : Acc) : Bool :=
  match c.safety.mode with
  | .failed => !indexEntry idx sub
  | .safeState => !indexEntry idx sub && !(decide (idx = 0x2700) && decide (sub = 2))
  | _ =>
    (decide (acc = .rws) && !inSetup c) ||
      (decide (idx = 0x2A00) && decide (val ≠ 0) &&
        ((decide (sub = 4) && decide (c.boot.stage ≠ .awaitImage)) || (decide (sub = 5) && !inSetup c) ||
          (decide (sub = 6) && !mayEnter c) || (decide (sub = 7) && c.boot.testActive)))

/-- Steps of change of an OTL entry and the value after each (00 R13, 17 R489-R491, R501). -/
def otlSteps (f : Fuses) (svn idx sub val : Nat) : List Nat :=
  if idx = 0x2700 then (if min 1 val = f.splitMode then [] else [min 1 val])
  else if sub = 0xD then (List.range (max f.rollback (min val svn) - f.rollback)).map fun i => f.rollback + i + 1
  else ((List.range 4).foldl (fun (x : Nat × List Nat) b =>
    if val.testBit b ∧ x.1.testBit b = false then (x.1 + 2 ^ b, x.2 ++ [x.1 + 2 ^ b]) else x) (f.keyRevoked, [])).2

/-- Counts that an OTL entry has left. -/
def otlLeft (f : Fuses) (idx sub : Nat) : Nat :=
  if idx = 0x2700 then f.splitLeft else if sub = 0xD then f.rollbackLeft else f.revokeLeft

/-- Check 10: values that an entry's own rule refuses (15 R440, 17 R490), and OTL writes beyond the counts
left. -/
def badValue (v : View) (c : Ctl) (idx sub val : Nat) (acc : Acc) : Bool :=
  (decide (idx = 0x2800) && decide (sub = 4) && decide (0x2C < val)) ||
    (decide (idx = 0x2A00) && decide (sub = 0xE) && (val % 16).testBit c.boot.keySlot) ||
    (decide (acc = .otl) && decide (otlLeft v.fuses idx sub < (otlSteps v.fuses c.boot.svn idx sub val).length))

/-- The outcome of the checks of a write, or none when it is stored; `.done` where it is ignored. -/
def writeCheck (v : View) (c : Ctl) (path : Path) (idx sub val size : Nat) : Option OdAns :=
  match checkEntry path idx sub (decide (size = 0)) with
  | some a => some a
  | none =>
    let a := odAccess idx sub
    let x := cut (8 * a.2) val
    if path = .monitor ∧ c.boot.sealed then some .sealed
    else if odAbsent v.part idx sub then some .done
    else if outOfState c idx sub then some (.abort 0x08000022)
    else if a.1 = .ro ∨ path = .mailbox 9 then some (.abort 0x06010002)
    else if refused c idx sub x a.1 then some (.abort 0x08000022)
    else if a.1 = .tst ∧ !c.boot.testActive then some .done
    else if size ≠ a.2 then some (.abort 0x06070010)
    else if badValue v c idx sub x a.1 then some (.abort 0x06090030)
    else none

/-! ## What a write does -/

/-- Values that bound others (18 R511): those stored, and PcieMode, which is read from the strap (10 R317, 16 R455). -/
def boundOf (p : Part) (c : Ctl) (idx sub : Nat) : Nat :=
  if idx = 0x2960 ∧ sub = 1 then b2n c.boot.bifur else odVal p c idx sub

/-- Store a number, clamped (18 R511). -/
def storeOd (p : Part) (idx sub val : Nat) (c : Ctl) : Ctl := odSet p idx sub (odClamp (boundOf p c) idx sub val) c

/-- Write 1 to clear (02 R83, 07 R230). -/
def clearFlags (p : Part) (idx sub val : Nat) (c : Ctl) : Ctl :=
  odSet p idx sub (odVal p c idx sub - (odVal p c idx sub &&& val)) c

/-- MsgRingDepth of function `n` (10 R317): MsgHead, MsgTail, SERIAL and PHASE restart. -/
def writeDepth (p : Part) (n val : Nat) (c : Ctl) : Ctl :=
  storeOd p (0x2410 + n) 0xA val (odSet p (0x2410 + n) 0xC 0 (odSet p (0x2410 + n) 0xD 0
    (modFn n (fun f => { f with serial := 0 }) c)))

/-- MsgHead of function `n` (10 R317): an advance up to MsgTail; a value behind it changes nothing. -/
def writeHead (p : Part) (n val : Nat) (c : Ctl) : Ctl :=
  let i := 0x2410 + n
  let head := odVal p c i 0xC
  let tail := odVal p c i 0xD
  let d := (val + 2 ^ 32 - head) % 2 ^ 32
  if d ≤ (tail + 2 ^ 32 - head) % 2 ^ 32 then odSet p i 0xC val c
  else if d < 2 ^ 31 then odSet p i 0xC tail c
  else c

/-- JournalEnable (08 R257, R258): from 0 to 1 the indices and the payload ring restart. -/
def writeJournal (p : Part) (val : Nat) (c : Ctl) : Ctl :=
  let c1 := storeOd p 0x2310 1 val c
  if odVal p c 0x2310 1 = 0 ∧ val ≠ 0 then
    odSet p 0x2310 6 0 (odSet p 0x2310 7 0 (modJournal (fun j => { j with gap := 0, payWrite := 0, sizes := [] }) c1))
  else c1

/-- JournalReadIndex (08 R257): clamps to JournalWriteIndex; the payloads of the records passed are freed. -/
def writeReadIndex (p : Part) (val : Nat) (c : Ctl) : Ctl :=
  let w := odVal p c 0x2310 6
  let r := min val w
  odSet p 0x2310 7 r (modJournal (fun j => { j with sizes := j.sizes.drop (r - (w - j.sizes.length)) }) c)

/-- TaskEnable of task `n` (11 R333): from 0 to 1 monitoring starts. -/
def writeTaskEnable (p : Part) (n val : Nat) (c : Ctl) : Ctl :=
  let c1 := storeOd p (0x2440 + n) 2 val c
  if val = 0 then modTask n (fun _ => {}) c1
  else if odVal p c (0x2440 + n) 2 = 0 then startTask p n c1
  else c1

/-- TaskTier of task `n` (11 R334): a change is announced with cause 2. -/
def writeTaskTier (p : Part) (n val : Nat) (c : Ctl) : Ctl :=
  let old := odVal p c (0x2440 + n) 0xA
  let new := odClamp (boundOf p c) (0x2440 + n) 0xA val
  if new = old then c else if odVal p c (0x2440 + n) 2 = 1 then tierChange p n old new 2 c else odSet p (0x2440 + n) 0xA new c

/-- PpsOutMode (09 R280): in mode 0 PPS_OUT is held low; in mode 1 its next edge is at the first whole second from now. -/
def writePpsMode (p : Part) (val : Nat) (c : Ctl) : Ctl :=
  let c1 := modTime (fun t => { t with second := secondAfter (fullTime t) }) (storeOd p 0x2206 1 val c)
  if val = 0 ∧ c.time.pps then emit (.pps false) (modTime (fun t => { t with pps := false, ppsFall := none }) c1) else c1

/-- FenceRequest (15 R440): nothing for a unit that is absent or already fenced. -/
def requestFence (p : Part) (u : Nat) (c : Ctl) : Ctl :=
  if hasUnit p u ∧ !fencedUnit c u then fenceNow p u c else c

/-- SafeStateRequest (14 R431, 17 R495): values other than 1, and requests before service, are ignored. -/
def requestSafe (p : Part) (val : Nat) (c : Ctl) : Ctl :=
  if val = 1 ∧ c.safety.mode ≠ .notReady then enterSafe p 0 0xFFFFFFFF c else c

/-- FleetGo (15 R449): FleetStatus says why nothing starts, or reads BUSY; ignored while BUSY. The safe state
accepts none (18 R514). -/
def fleetGo (p : Part) (c : Ctl) : Ctl :=
  let a := 64 * odVal p c 0x2890 1
  let n := odVal p c 0x2890 2
  if odVal p c 0x2890 8 = 1 then c
  else if n < 256 + 80 * odVal p c 0x2890 4 then odSet p 0x2890 8 3 c
  else if !inDevice p c a n then odSet p 0x2890 8 4 c
  else if !pdOn c 45 then odSet p 0x2890 8 5 c
  else odSet p 0x2890 8 1 { c with fleet := [a, n] ++ [3, 4, 5, 6].map (fun s => odVal p c 0x2890 s) }

/-- The mechanism checks the unit, which is present (15 R448). -/
def injectable (p : Part) (m u : Nat) : Bool :=
  hasUnit p u &&
    (if 1 ≤ m ∧ m ≤ 4 then decide (u < 0x20)
     else if m = 5 ∨ m = 6 ∨ m = 11 then decide (0x20 ≤ u) && decide (u < 0x28)
     else if m = 7 ∨ m = 8 then decide (u = 0x32) || decide (u = 0x33)
     else if m = 10 then decide (0x28 ≤ u) && decide (u ≤ 0x2C)
     else if m = 12 then (decide (0x2D ≤ u) && decide (u ≤ 0x31))
     else if m = 13 then decide (0x34 ≤ u) && decide (u ≤ 0x36)
     else false)

/-- InjectArm (15 R448). -/
def armInjection (p : Part) (c : Ctl) : Ctl :=
  let m := odVal p c 0x2880 1
  let u := odVal p c 0x2880 2
  modFaults (fun f =>
    if injectable p m u then
      { f with injMech := m, injUnit := u, injSub := odVal p c 0x2880 3, injKind := odVal p c 0x2880 4, injLeft := odVal p c 0x2880 5 }
    else { f with injLeft := 0 }) c

/-- BarrierArm (13 R389). -/
def writeBarrierArm (p : Part) (val : Nat) (c : Ctl) : Ctl :=
  let c1 := storeOd p 0x2600 0xC val c
  if val = 0 then c1 else armBarrier p c1

/-- PdEnable of domain `d` (17 R502). -/
def writePd (p : Part) (d val : Nat) (c : Ctl) : Ctl := if val = 0 then disableDomain p d c else enableDomain p d c

/-- Trigger entries (18 R512), any value but 0. -/
def trigger (v : View) (idx sub : Nat) (c : Ctl) : Ctl :=
  let p := v.part
  if idx = 0x2600 then (if sub = 0xD then goBarrier p c else calibrate p c)
  else if idx = 0x2880 then armInjection p c
  else if idx = 0x2890 then fleetGo p c
  else if idx = 0x2908 then
    modTwin (fun t => if sub = 4 then { t with takeover := true } else { t with release := true, yield := true }) c
  else if sub = 4 then modBoot (fun b => { b with stage := .loading, fetched := false }) c
  else if sub = 5 then leaveSetup v c
  else enterSetup p c

/-- The entry is a trigger entry. -/
def isTrigger (idx sub : Nat) : Bool :=
  (decide (idx = 0x2600) && (decide (sub = 0xD) || decide (sub = 0x10))) || (decide (idx = 0x2880) && decide (sub = 6)) ||
    (decide (idx = 0x2890) && decide (sub = 7)) || (decide (idx = 0x2908) && (decide (sub = 4) || decide (sub = 5))) ||
    (decide (idx = 0x2A00) && (decide (sub = 4) || decide (sub = 5) || decide (sub = 6)))

/-- Indices that each path selects for itself (18 R516): FaultReadIndex, and FuseLogIndex, which clamps to the
last record (17 R501). -/
def writeIndex (v : View) (path : Path) (idx val : Nat) (c : Ctl) : Ctl :=
  if idx = 0x2801 then modFaults (fun f => { f with readIndex := stow 0 (pathKey path) val f.readIndex }) c
  else modBoot (fun b => { b with fuseIndex := stow 0 (pathKey path) (min val (v.fuses.log.length - 1)) b.fuseIndex }) c

/-- What a write that passes the checks does at its entry, but for OTL entries. -/
def applyOd (v : View) (path : Path) (idx sub val : Nat) (c : Ctl) : Ctl :=
  let p := v.part
  if isTrigger idx sub then (if val = 0 then c else trigger v idx sub c)
  else if indexEntry idx sub then writeIndex v path idx val c
  else if (idx = 0x2B00 ∧ sub = 2) ∨ (idx = 0x2B80 ∧ sub = 1) then clearFlags p idx sub val c
  else if 0x2410 ≤ idx ∧ idx ≤ 0x2420 ∧ sub = 0xA then writeDepth p (idx - 0x2410) val c
  else if 0x2410 ≤ idx ∧ idx ≤ 0x2420 ∧ sub = 0xC then writeHead p (idx - 0x2410) val c
  else if idx = 0x2310 ∧ sub = 1 then writeJournal p val c
  else if idx = 0x2310 ∧ sub = 7 then writeReadIndex p val c
  else if idx = 0x2200 ∧ sub = 0xA then timeSettle p (storeOd p idx sub val c)
  else if idx = 0x2206 ∧ sub = 1 then writePpsMode p val c
  else if 0x2440 ≤ idx ∧ idx < 0x2480 ∧ sub = 2 then writeTaskEnable p (idx - 0x2440) val c
  else if 0x2440 ≤ idx ∧ idx < 0x2480 ∧ sub = 0xA then writeTaskTier p (idx - 0x2440) val c
  else if 0x4000 ≤ idx ∧ idx < 0x4100 ∧ sub = 1 then storeOd p idx sub val (keepShare p (idx - 0x4000) c)
  else if idx = 0x2110 then writePd p (sub - 1) val c
  else if idx = 0x2800 ∧ sub = 3 then settle p (clearFault val c)
  else if idx = 0x2800 ∧ sub = 4 then requestFence p val c
  else if idx = 0x2700 ∧ sub = 2 then requestSafe p val c
  else if idx = 0x2600 ∧ sub = 0xC then writeBarrierArm p val c
  else if idx = 0x2A00 ∧ sub = 7 then (if val = 0 then c else modBoot (fun b => { b with sealed := true }) c)
  else storeOd p idx sub val c

/-- An OTL write (17 R489-R491, R501): one count and one fuse-log record for each step; when the read-back
fails, what the fuses hold is a free value within what they allow (log 29). -/
def burn (v : View) (idx sub val : Nat) (ok : Bool) (c : Ctl) : Ctl × Fuses × OdAns :=
  let f := v.fuses
  let steps := otlSteps f c.boot.svn idx sub val
  match steps.getLast? with
  | none => (c, f, .done)
  | some last =>
    let n := steps.length
    let f1 := { f with log := f.log ++ steps.map fun x => idx + sub * 2 ^ 16 + x % 65536 * 2 ^ 32 + c.boot.svn * 2 ^ 48 }
    let h := Config.fuseHeld c.free
    let f2 :=
      if idx = 0x2700 then { f1 with splitLeft := f.splitLeft - n, splitMode := if ok then last else h % 2 }
      else if sub = 0xD then { f1 with rollbackLeft := f.rollbackLeft - n, rollback := if ok then last else f.rollback + h % (n + 1) }
      else { f1 with revokeLeft := f.revokeLeft - n, keyRevoked := if ok then last else f.keyRevoked ||| (last &&& h) }
    if ok then (c, f2, .done) else ({ c with free := c.free + 1 }, f2, .abort 0x06060000)

/-- A write of an entry of the dictionary, checks and effect. -/
def writeOd (v : View) (path : Path) (idx sub val size : Nat) (ok : Bool) (c : Ctl) : Ctl × Fuses × OdAns :=
  match writeCheck v c path idx sub val size with
  | some a => (c, v.fuses, a)
  | none =>
    let x := cut (8 * (odAccess idx sub).2) val
    if (odAccess idx sub).1 = .otl then burn v idx sub x ok c else (applyOd v path idx sub x c, v.fuses, .done)

/-! ## Rows -/

/-- SOURCE of an OD_WRITE record (08 R257). -/
def pathSource : Path → Nat
  | .can => 0
  | .mailbox _ => 1
  | .monitor => 2

/-- Journal payload of a dictionary write (13 R382). -/
def writePayload (idx sub val size : Nat) : List Byte :=
  leBytes 2 idx ++ leBytes 1 sub ++ leBytes 1 0 ++ leBytes 4 size ++ leBytes size val

/-- A write that arrives on a link (08 R257, 18 R508): recorded, checked, served and answered. -/
def linkWrite (idx sub : Nat) (w : OdW) (ok : Bool) (v : View) (c : Ctl) : Ctl × Fuses :=
  if !reachable c w.path then (c, v.fuses)
  else if w.path = .monitor ∧ !pastBoot c then (answer w.path idx sub 0 .notReady c, v.fuses)
  else
    let r := writeOd v w.path idx sub w.val w.size ok
      (recordNow v.part 3 (pathSource w.path) (writePayload idx sub w.val w.size) c)
    (answer w.path idx sub 0 r.2.2 r.1, r.2.1)

/-- A write of the entry that a row names, for a number in the entry's range. -/
def rowWrite (valid : Bool) (idx sub : Nat) (w : OdW) (ok : Bool) (s : State) : Host.Outcome State Fault Refusal :=
  actFuse s (if valid then linkWrite idx sub w ok else fun v c => (c, v.fuses))

/-- An access that answers a value. -/
def isValue : OdAns → Bool
  | .value _ => true
  | _ => false

/-- A read that arrives on a link (18 R508, R513): a read of FusionTimeNow latches the epoch (09 R264). -/
def linkRead (path : Path) (idx sub blk : Nat) (v : View) (c : Ctl) : Ctl :=
  if !reachable c path then c
  else
    let a := readAnswer v c path idx sub
    let c1 := if idx = 0x2200 ∧ sub = 1 ∧ isValue a then
        modTime (fun t => { t with latched := stow 0 (pathKey path) t.epoch t.latched }) c
      else c
    answer path idx sub blk a c1

/-- OD_READ (18 R508). -/
def execOdRead (path : Path) (idx sub blk : Nat) (s : State) : Host.Outcome State Fault Refusal :=
  act s (linkRead path idx sub blk)

/-- OD_WRITE (18 R511). -/
def execOdWrite (idx sub : Nat) (w : OdW) (s : State) : Host.Outcome State Fault Refusal := rowWrite true idx sub w true s

/-- FUSION_TIME_NOW_READ (09 R264). -/
def execFusionTimeNowRead (path : Path) (s : State) : Host.Outcome State Fault Refusal := act s (linkRead path 0x2200 1 0)

/-- ARITH_EVENT_FLAGS_WRITE (02 R83). -/
def execArithEventFlagsWrite (w : OdW) (s : State) : Host.Outcome State Fault Refusal := rowWrite true 0x2B00 2 w true s

/-- SG_EVENT_FLAGS_WRITE (07 R230). -/
def execSgEventFlagsWrite (w : OdW) (s : State) : Host.Outcome State Fault Refusal := rowWrite true 0x2B80 1 w true s

/-- MSG_RING_DEPTH_WRITE (10 R317). -/
def execMsgRingDepthWrite (n : Nat) (w : OdW) (s : State) : Host.Outcome State Fault Refusal :=
  rowWrite (decide (n ≤ 16)) (0x2410 + n) 0xA w true s

/-- MSG_HEAD_WRITE (10 R317). -/
def execMsgHeadWrite (n : Nat) (w : OdW) (s : State) : Host.Outcome State Fault Refusal :=
  rowWrite (decide (n ≤ 16)) (0x2410 + n) 0xC w true s

/-- JOURNAL_READ_INDEX_WRITE (08 R257). -/
def execJournalReadIndexWrite (w : OdW) (s : State) : Host.Outcome State Fault Refusal := rowWrite true 0x2310 7 w true s

/-- TIME_STEP_PERMIT_WRITE (09 R272). -/
def execTimeStepPermitWrite (w : OdW) (s : State) : Host.Outcome State Fault Refusal := rowWrite true 0x2200 0xA w true s

/-- TASK_ENABLE_WRITE (11 R333). -/
def execTaskEnableWrite (n : Nat) (w : OdW) (s : State) : Host.Outcome State Fault Refusal :=
  rowWrite (decide (n < 64)) (0x2440 + n) 2 w true s

/-- TASK_TIER_WRITE (11 R334). -/
def execTaskTierWrite (n : Nat) (w : OdW) (s : State) : Host.Outcome State Fault Refusal :=
  rowWrite (decide (n < 64)) (0x2440 + n) 0xA w true s

/-- PD_ENABLE_ON (17 R502). -/
def execPdEnableOn (path : Path) (d : Nat) (s : State) : Host.Outcome State Fault Refusal :=
  rowWrite (decide (d < 48)) 0x2110 (d + 1) { path := path, val := 1, size := 1 } true s

/-- PD_ENABLE_OFF (17 R504). -/
def execPdEnableOff (path : Path) (d : Nat) (s : State) : Host.Outcome State Fault Refusal :=
  rowWrite (decide (d < 48)) 0x2110 (d + 1) { path := path, val := 0, size := 1 } true s

/-- FAULT_CLEAR (15 R440). -/
def execFaultClear (w : OdW) (s : State) : Host.Outcome State Fault Refusal := rowWrite true 0x2800 3 w true s

/-- FENCE_REQUEST (15 R440). -/
def execFenceRequest (w : OdW) (s : State) : Host.Outcome State Fault Refusal := rowWrite true 0x2800 4 w true s

/-- SAFE_STATE_REQUEST (14 R431). -/
def execSafeStateRequest (w : OdW) (s : State) : Host.Outcome State Fault Refusal := rowWrite true 0x2700 2 w true s

/-- FLEET_GO (15 R449). -/
def execFleetGo (w : OdW) (s : State) : Host.Outcome State Fault Refusal := rowWrite true 0x2890 7 w true s

/-- FW_LOAD (17 R485). -/
def execFwLoad (w : OdW) (s : State) : Host.Outcome State Fault Refusal := rowWrite true 0x2A00 4 w true s

/-- EXIT_SETUP (17 R495). -/
def execExitSetup (w : OdW) (s : State) : Host.Outcome State Fault Refusal := rowWrite true 0x2A00 5 w true s

/-- ENTER_SETUP (17 R496). -/
def execEnterSetup (w : OdW) (s : State) : Host.Outcome State Fault Refusal := rowWrite true 0x2A00 6 w true s

/-- SAFETY_SEAL_WRITE (17 R498). -/
def execSafetySealWrite (w : OdW) (s : State) : Host.Outcome State Fault Refusal := rowWrite true 0x2A00 7 w true s

/-- ROLLBACK_LEVEL_WRITE (17 R489). -/
def execRollbackLevelWrite (w : OdW) (ok : Bool) (s : State) : Host.Outcome State Fault Refusal := rowWrite true 0x2A00 0xD w ok s

/-- KEY_REVOKED_WRITE (17 R490). -/
def execKeyRevokedWrite (w : OdW) (ok : Bool) (s : State) : Host.Outcome State Fault Refusal := rowWrite true 0x2A00 0xE w ok s

/-- SPLIT_MODE_WRITE (14 R400). -/
def execSplitModeWrite (w : OdW) (ok : Bool) (s : State) : Host.Outcome State Fault Refusal := rowWrite true 0x2700 8 w ok s

/-- INJECT_ARM (15 R448). -/
def execInjectArm (w : OdW) (s : State) : Host.Outcome State Fault Refusal := rowWrite true 0x2880 6 w true s

/-- TWIN_TAKEOVER (16 R473). -/
def execTwinTakeover (w : OdW) (s : State) : Host.Outcome State Fault Refusal := rowWrite true 0x2908 4 w true s

/-- TWIN_RELEASE (16 R473). -/
def execTwinRelease (w : OdW) (s : State) : Host.Outcome State Fault Refusal := rowWrite true 0x2908 5 w true s

/-- BARRIER_ARM (13 R389). -/
def execBarrierArm (w : OdW) (s : State) : Host.Outcome State Fault Refusal := rowWrite true 0x2600 0xC w true s

/-- BARRIER_GO (13 R389). -/
def execBarrierGo (w : OdW) (s : State) : Host.Outcome State Fault Refusal := rowWrite true 0x2600 0xD w true s

/-- BARRIER_CALIBRATE (13 R388). -/
def execBarrierCalibrate (w : OdW) (s : State) : Host.Outcome State Fault Refusal := rowWrite true 0x2600 0x10 w true s

/-- USDO_SEGMENT_TIMEOUT (18 R510): no frame of a segmented transfer for 1,000 ms. -/
def execUsdoSegmentTimeout (s : State) : Host.Outcome State Fault Refusal :=
  act s fun _ c => match c.links.can.segmented with
    | some _ => emit (.od .can (.abort 0x05040000)) (modLinks (fun l => { l with can := { l.can with segmented := none } }) c)
    | none => c

end Sys2Proof.Machine
end

