-- ==== Sys2Proof/Machine/Links.lean ====
section
/-! DEFINITION. The host links (16 R455-R461, 19 R531): configuration requests, resets of functions and links,
BAR2 and BAR misses; the CAN node (16 R476), the Cloux monitor (16 R477) and the JTAG port (16 R478). -/

namespace Sys2Proof.Machine

/-! ## PCIe functions -/

/-- Link that carries device function `fn` (16 R455). -/
def linkOf (c : Ctl) (fn : Nat) : Nat := if c.boot.bifur ∧ 9 ≤ fn then 1 else 0

/-- Functions that link `l` presents (16 R455). -/
def linkFns (c : Ctl) (l : Nat) : List Nat := (List.range 17).filter fun n => decide (linkOf c n = l) && hasLink c l

/-- Device function `fn` is a physical function. -/
def isPf (c : Ctl) (fn : Nat) : Bool := decide (fn = 0) || (decide (fn = 9) && c.boot.bifur)

/-- The function can be reached: its link is not held in reset (19 R531). -/
def fnReached (c : Ctl) (fn : Nat) : Bool :=
  decide (fn ≤ 16) && c.boot.started && !(c.links.perst1 && decide (linkOf c fn = 1))

/-- Send the pending vectors that are no longer masked (10 R314). -/
def sendPending (fn : Nat) (c : Ctl) : Ctl :=
  (List.range 16).foldl (fun c n =>
    if (getFn c fn).msix.pending.testBit n then
      sendMsix fn n (modFn fn (fun f => { f with msix := { f.msix with pending := f.msix.pending - 2 ^ n } }) c)
    else c) c

/-- An MSI-X write of a function (10 R314, 16 R456). -/
def writeMsix (fn : Nat) (x : MsixWrite) (c : Ctl) : Ctl :=
  match x with
  | .none => c
  | .control enable mask => sendPending fn (modFn fn (fun f => { f with msix := { f.msix with enable := enable, mask := mask } }) c)
  | .entry n addr data masked =>
    sendPending fn (modFn fn (fun f => { f with msix := { f.msix with table := stow {} n ⟨addr, data, masked⟩ f.msix.table } }) c)

/-- CONFIGURATION_REQUEST (16 R457): Configuration Request Retry Status until configuration-ready, then served in
every SafetyState. With it host software sets up the function's MSI-X, for which the table of commands has no row
(log 104). -/
def execConfigurationRequest (fn : Nat) (x : MsixWrite) (s : State) : Host.Outcome State Fault Refusal :=
  act s fun _ c =>
    if !fnReached c fn then c
    else emit (.config fn c.boot.cfgReady) (if c.boot.cfgReady then writeMsix fn x c else c)

/-! ## Resets of functions (16 R458) -/

/-- Owning function of a queue; the re-executions of an abandoned layer belong with their client. -/
def queueFn (p : Part) (c : Ctl) (q : Nat) : Nat :=
  if q < 65536 then owner p c .queue q else owner p c .client (getQ c q).ctx.client

/-- A command that a function-level reset stops: no record, no message, what it wrote is undefined, the sequences
that it reads are released (06 R194), and its side of a pair is withdrawn (14 R536). -/
def dropCmd (p : Part) (r : Ref) (c : Ctl) : Ctl :=
  match findCmd c r with
  | none => c
  | some m =>
    let c1 := releaseHalted (unitOfDesc m.desc) r (releaseWork r (spoil m c))
    let c2 := modQ r.q (fun q => { q with cmds := q.cmds.filter fun x => decide (x.idx ≠ r.i) }) (forget r c1)
    let c3 := if c2.journal.replay.any fun x => decide (x.ref = r) then modJournal (fun j => { j with replay := none, ready := [] }) c2
      else c2
    match sigTag m.desc with
    | some t => if m.sig ≠ .none ∧ !m.committed then withdraw p (t % 32768) (t / 32768) c3 else c3
    | none => c3

/-- Commands speculative on a command that ends without committing are DISCARDED (14 R410). -/
def discardChildren (r : Ref) (c : Ctl) : Ctl :=
  (allCmds c).foldl (fun c e =>
    if (e.2.parents ++ e.2.exportOn).contains r ∧ (findCmd c r).any (fun m => !m.committed) then
      modQ e.1 (fun q => { q with stopped := true }) (resolve ⟨e.1, e.2.idx⟩ 3 0 true (spoil e.2 c))
    else c) c

/-- Queue `q` stops: its commands end and it reads DISABLED. -/
def resetQueue (p : Part) (q : Nat) (c : Ctl) : Ctl :=
  let rs : List Ref := (getQ c q).cmds.map fun m => ⟨q, m.idx⟩
  let c1 := rs.foldl (fun c r => dropCmd p r (discardChildren r c)) c
  clearLayer q (getQ c q).layer (modQ q (fun _ => {}) c1)

/-- A function-level reset of every function of `l` (16 R458). SafetyState, sync objects, ranges and transmissions
that have retired OK stay as they are. -/
def resetFns (p : Part) (l : List Nat) (c : Ctl) : Ctl :=
  let qs := (c.queues.map Prod.fst).filter fun q => l.contains (queueFn p c q)
  let c1 := qs.foldl (fun c q => resetQueue p q c) c
  settle p (l.foldl (fun c n => modFn n (fun f => { f with msix := {} }) (odSet p (0x2410 + n) 0xA 0 c)) c1)

/-- Functions that a reset of function `fn` resets: a physical function takes every function of its link. -/
def resetSet (c : Ctl) (fn : Nat) : List Nat := if isPf c fn then linkFns c (linkOf c fn) else [fn]

/-- FUNCTION_LEVEL_RESET (16 R458). -/
def execFunctionLevelReset (fn : Nat) (s : State) : Host.Outcome State Fault Refusal :=
  act s fun v c => if fnReached c fn then resetFns v.part (resetSet c fn) c else c

/-- A link goes down: PcieLink reads 0 and every function on it is reset. -/
def linkDown (p : Part) (l : Nat) (c : Ctl) : Ctl :=
  resetFns p (linkFns c l) (modLinks (fun k => { k with pcie := stow 0 l 0 k.pcie }) c)

/-- DL_DOWN (16 R458). -/
def execDlDown (link : Nat) (s : State) : Host.Outcome State Fault Refusal :=
  act s fun v c => if c.boot.started ∧ hasLink c link then linkDown v.part link c else c

/-- DL_UP (16 R458): PcieLink shows rate and width. -/
def execDlUp (link speed width : Nat) (s : State) : Host.Outcome State Fault Refusal :=
  act s fun _ c =>
    if c.boot.started ∧ hasLink c link ∧ !(c.links.perst1 && decide (link = 1)) then
      modLinks (fun k => { k with pcie := stow 0 link (speed % 16 + 16 * (width % 16)) k.pcie }) c
    else c

/-- PERST1_N_ASSERT (19 R531): in ×4 + ×4 mode as a DL_Down of link 1; in ×8 mode ignored. -/
def execPerst1NAssert (s : State) : Host.Outcome State Fault Refusal :=
  act s fun v c =>
    if c.boot.started ∧ c.boot.bifur then modLinks (fun k => { k with perst1 := true }) (linkDown v.part 1 c) else c

/-- PERST1_N_DEASSERT (19 R531). -/
def execPerst1NDeassert (s : State) : Host.Outcome State Fault Refusal :=
  act s fun _ c => if c.boot.started ∧ c.boot.bifur then modLinks (fun k => { k with perst1 := false }) c else c

/-! ## BAR2 and misses (16 R456, R460) -/

/-- BAR2 bytes from offset `off` are DRAM data that the host may reach. -/
def bar2Open (p : Part) (c : Ctl) (off n : Nat) : Bool := c.boot.filled && decide (off + n ≤ dramLimit p c)

/-- BAR2_WRITE (16 R460): stored, or dropped and counted. -/
def execBar2Write (fn off : Nat) (bytes : List Byte) (s : State) : Host.Outcome State Fault Refusal :=
  act s fun v c =>
    if !fnReached c fn ∨ !isPf c fn ∨ !c.boot.cfgReady then c
    else if bar2Open v.part c off bytes.length then post (.dev off bytes) c
    else barMissed v.part c

/-- BAR_MISS (16 R456, R460): a read of BAR0 answers 0 and of BAR2 all ones, a write is dropped; it counts. -/
def execBarMiss (fn : Nat) (bar2 : Bool) (off : Nat) (write : Bool) (s : State) : Host.Outcome State Fault Refusal :=
  act s fun v c =>
    if !fnReached c fn ∨ !c.boot.cfgReady ∨ (bar2 ∧ (!isPf c fn ∨ bar2Open v.part c off 1)) then c
    else if write then barMissed v.part c
    else emit (.barRead fn bar2) (barMissed v.part c)

/-! ## CAN (16 R476, 18 R518) -/

/-- An NMT command addresses this node, which has sent its boot-up message. -/
def nmtForUs (p : Part) (c : Ctl) (node : Nat) : Bool :=
  decide (c.links.can.nmt ≠ 0) && (decide (node = 0) || decide (node = effVal p c 0x2918 1))

/-- The node enters an NMT state. -/
def nmtTo (x : Nat) (c : Ctl) : Ctl := modLinks (fun l => { l with can := { l.can with nmt := x } }) c

/-- NMT_START_REMOTE_NODE (16 R476). -/
def execNmtStartRemoteNode (node : Nat) (s : State) : Host.Outcome State Fault Refusal :=
  act s fun v c => if nmtForUs v.part c node then nmtTo 5 c else c

/-- NMT_STOP (16 R476): USDO requests are ignored. -/
def execNmtStop (node : Nat) (s : State) : Host.Outcome State Fault Refusal :=
  act s fun v c => if nmtForUs v.part c node then nmtTo 4 c else c

/-- NMT_ENTER_PRE_OPERATIONAL (16 R476). -/
def execNmtEnterPreOperational (node : Nat) (s : State) : Host.Outcome State Fault Refusal :=
  act s fun v c => if nmtForUs v.part c node then nmtTo 127 c else c

/-- The CAN node restarts and sends its boot-up message. -/
def restartNode (p : Part) (c : Ctl) : Ctl := bootUp p (modLinks (fun l => { l with can := {} }) c)

/-- NMT_RESET_COMMUNICATION (16 R476). -/
def execNmtResetCommunication (node : Nat) (s : State) : Host.Outcome State Fault Refusal :=
  act s fun v c => if nmtForUs v.part c node then restartNode v.part c else c

/-- NMT_RESET_NODE (16 R476): acts as reset communication. -/
def execNmtResetNode (node : Nat) (s : State) : Host.Outcome State Fault Refusal :=
  act s fun v c => if nmtForUs v.part c node then restartNode v.part c else c

/-- CAN_HEARTBEAT (18 R518): the NMT state, on both controllers. -/
def execCanHeartbeat (s : State) : Host.Outcome State Fault Refusal :=
  act s fun v c =>
    if c.links.can.nmt ≠ 0 ∧ odVal v.part c 0x1017 0 ≠ 0 then
      emit (.can (0x700 + effVal v.part c 0x2918 1) [BitVec.ofNat 8 c.links.can.nmt]) c
    else c

/-! ## The Cloux monitor (16 R477, 17 R484) -/

/-- Answer a line: nothing before configuration-ready; NOT_READY before the setup state but for `ver` and
`state`. -/
def monitor (early : Bool) (line : View → Ctl → List Byte) (v : View) (c : Ctl) : Ctl :=
  if !c.boot.cfgReady then c
  else if !early ∧ !pastBoot c then say (errLine wordNotReady) c
  else say (line v c) c

/-- Numbers of a reply. -/
def numbers (l : List Nat) : List Byte := okLine (l.map hexNat)

/-- CLOUX_VER. -/
def execClouxVer (s : State) : Host.Outcome State Fault Refusal :=
  act s (monitor true fun v c => numbers [variantCode v.part, v.part.arithLevel, c.boot.build])

/-- CLOUX_STATE. -/
def execClouxState (s : State) : Host.Outcome State Fault Refusal :=
  act s (monitor true fun v c =>
    numbers [modeCode c.safety.mode, c.time.state, twinRole v.part c, c.links.harbour, fltState c])

/-- CLOUX_KEYS. -/
def execClouxKeys (s : State) : Host.Outcome State Fault Refusal :=
  act s (monitor false fun v c => numbers [odVal v.part c 0x2600 1, odVal v.part c 0x2600 2])

/-- CLOUX_LINKS. -/
def execClouxLinks (s : State) : Host.Outcome State Fault Refusal :=
  act s (monitor false fun v c =>
    numbers (((List.range 2).filter (hasLink c)).map (fun l => look 0 l c.links.pcie) ++
      (List.range 4).map (fun k => (getCw c k).state) ++ (List.range 6).map fun m => b2n (macIsUp v.part c m)))

/-- CLOUX_LOG. -/
def execClouxLog (n : Nat) (s : State) : Host.Outcome State Fault Refusal :=
  act s (monitor false fun v c => okLine [hexBytes (faultRecord v.part c n)])

/-- CLOUX_MEM_R: an N outside 1-256 or a read that leaves DRAM data answers ERR RANGE. -/
def execClouxMemR (addr n : Nat) (s : State) : Host.Outcome State Fault Refusal :=
  act s (monitor false fun v c =>
    if 1 ≤ n ∧ n ≤ 256 ∧ addr + n ≤ dramLimit v.part c then okLine [hexBytes (devBytes v.mems addr n)]
    else errLine wordRange)

/-- CLOUX_SYNTAX_ERROR. -/
def execClouxSyntaxError (s : State) : Host.Outcome State Fault Refusal :=
  act s (monitor true fun _ _ => errLine wordSyntax)

/-! ## JTAG (16 R478) -/

/-- Codes of the instruction that `Jtag.inst` holds: 0 BYPASS, 1 IDCODE, 2 SAMPLE/PRELOAD, 3 EXTEST,
4 EXTEST_PULSE, 5 EXTEST_TRAIN, 6 CLAMP, 7 HIGHZ. Select one: while the seal is set those from 3 on select
BYPASS. The EXTEST instructions and CLAMP let the boundary register drive the pins. -/
def selectJtag (k : Nat) (c : Ctl) : Ctl :=
  let i := if c.boot.sealed ∧ 3 ≤ k then 0 else k
  modLinks (fun l => { l with jtag := { inst := i, drive := decide (3 ≤ i) && decide (i ≤ 6) } }) c

/-- BYPASS: one bit between TDI and TDO, which captures 0. -/
def execBypass (s : State) : Host.Outcome State Fault Refusal := act s fun _ c => emit (.jtag 1 0) (selectJtag 0 c)

/-- The 32 bits of IDCODE. -/
def idcode (p : Part) : Nat :=
  p.stepping % 16 * 2 ^ 28 + variantCode p * 2 ^ 12 + Config.jedecId.toNat * 2 + 1

/-- IDCODE. -/
def execIdcode (s : State) : Host.Outcome State Fault Refusal :=
  act s fun v c => emit (.jtag 32 (idcode v.part)) (selectJtag 1 c)

/-- SAMPLE_PRELOAD. -/
def execSamplePreload (s : State) : Host.Outcome State Fault Refusal := act s fun _ c => selectJtag 2 c
/-- EXTEST. -/
def execExtest (s : State) : Host.Outcome State Fault Refusal := act s fun _ c => selectJtag 3 c
/-- EXTEST_PULSE. -/
def execExtestPulse (s : State) : Host.Outcome State Fault Refusal := act s fun _ c => selectJtag 4 c
/-- EXTEST_TRAIN. -/
def execExtestTrain (s : State) : Host.Outcome State Fault Refusal := act s fun _ c => selectJtag 5 c
/-- CLAMP. -/
def execClamp (s : State) : Host.Outcome State Fault Refusal := act s fun _ c => selectJtag 6 c
/-- HIGHZ. -/
def execHighz (s : State) : Host.Outcome State Fault Refusal := act s fun _ c => selectJtag 7 c

end Sys2Proof.Machine
end

