-- ==== Sys2Proof/Machine/Replay.lean ====
section
/-! DEFINITION. DM.REPLAY (08 R253-R257) and the delivery of journal records (13 R382-R386). -/

namespace Sys2Proof.Machine

/-! ## The descriptor (08 R256) -/

/-- Byte address of the table entry that position `i` draws. -/
def repEntry (d : Desc) (i : Nat) : Nat := repTable d + 16 * repPerm d i

/-- Some numeric field of the descriptor clamps. -/
def repClamped (d : Desc) : Bool :=
  decide (repBatch d ≠ fld d 80 13) || decide (repN d ≠ fld d 128 32) || decide (repStart d ≠ fld d 160 32) ||
    decide (repCount d ≠ fld d 192 32)

/-- Position of the first draw from `i` that is not excluded, among `k` positions; an entry that cannot be read
is none to skip. -/
def skipTo (m : Mems) (d : Desc) : Nat → Nat → Nat
  | 0, i => i
  | k + 1, i =>
    if !poisonedIn m (repEntry d i) 16 && (devNat m (repEntry d i + 8) 4).testBit 0 then skipTo m d k (i + 1) else i

/-! ## Journal records as replay reads them (08 R257) -/

/-- Byte address of record `j` of the record ring. -/
def recAddr (p : Part) (c : Ctl) (j : Nat) : Nat := 64 * effVal p c 0x2310 2 + 32 * (j % effVal p c 0x2310 3)

/-- Fields of a record. -/
structure JRec where
  kind : Nat
  source : Nat
  len : Nat
  arrival : Nat
  epoch : Nat
  check : Nat
  addr : Nat
  deriving DecidableEq, Repr

/-- Record `j`. -/
def readRec (v : View) (c : Ctl) (j : Nat) : JRec :=
  let w := devNat v.mems (recAddr v.part c j) 32
  ⟨bitsN w 0 4, bitsN w 4 12, bitsN w 32 32, bitsN w 64 64, bitsN w 128 32, bitsN w 160 32, 64 * bitsN w 192 48⟩

/-- Spans of a payload: one that passes the end of the payload ring goes on at its start (log 26). -/
def paySpans (p : Part) (c : Ctl) (r : JRec) : List (Nat × Nat) :=
  let base := 64 * effVal p c 0x2310 4
  let top := base + effVal p c 0x2310 5
  if base ≤ r.addr ∧ r.addr < top ∧ top < r.addr + r.len then [(r.addr, top - r.addr), (base, r.len - (top - r.addr))]
  else [(r.addr, r.len)]

/-- The payload of a record; a GAP has none. -/
def payload (v : View) (c : Ctl) (r : JRec) : List Byte :=
  if r.kind = 6 then [] else (paySpans v.part c r).flatMap fun s => devBytes v.mems s.1 s.2

/-! ## DM_REPLAY -/

/-- The replay ends: OK when its last batch has been emitted. -/
def endReplay (p : Part) (r : Ref) (c : Ctl) : Ctl :=
  executed p r 0 (modJournal (fun j => { j with replay := none, ready := [] }) c)

/-- The replay goes on at the first position from `i` that is not excluded, or ends when none is left. -/
def nextBatch (v : View) (d : Desc) (r : Replay) (i : Nat) (c : Ctl) : Ctl :=
  let at_ := skipTo v.mems d (r.stop - i) i
  if r.stop ≤ at_ then endReplay v.part r.ref c
  else modJournal (fun j => { j with replay := some { r with pos := at_, base := at_, drawn := 0, cur := none } }) c

/-- DM.REPLAY begins (08 R255); one replay is in execution at a time. -/
def replayStart (r : Ref) (u : Upset) (v : View) (c : Ctl) : Ctl :=
  match ready c r 5 3 with
  | none => c
  | some m =>
    let d := m.desc
    let c0 := noteClamp v.part (repClamped d) c
    if m.phase ≠ 0 ∨ c.journal.replay.isSome then c
    else if !inFerry v.part c (repTable d) (16 * repN d) then invalid v.part r 5 c0
    else if spanOff m.off (repTable d, 16 * repN d) then invalid v.part r 6 c0
    else
      engineRun v r 0x2D 12 u [] id (fun c =>
        nextBatch v d { ref := r, pos := repStart d, stop := repStart d + repCount d, base := repStart d } (repStart d)
          (modCmd r (fun m => { m with phase := 1 }) (modJournal (fun j => { j with ready := [], offset := none }) c))) c0

/-- DM_REPLAY (08 R255). -/
def execDmReplay (r : Ref) (u : Upset) (s : State) : Host.Outcome State Fault Refusal := act s (replayStart r u)

/-! ## The replay in execution -/

/-- Journal streams of the engines that are running. -/
def journalStreams (c : Ctl) (cls : Nat) : SMap Stream :=
  (streamsOf c cls).filter fun e => decide (e.2.state = .running) && decide (armSource e.2.arm = 2)

/-- The engines have taken every recorded datagram delivered. -/
def inboxesEmpty (c : Ctl) : Bool := [2, 4].all fun cls => (streamsOf c cls).all fun e => e.2.inbox.all fun g => !g.journal

/-- Every sample delivered has been processed. -/
def allProcessed (c : Ctl) : Bool :=
  inboxesEmpty c && [2, 3, 4].all fun cls => (streamsOf c cls).all fun e => (e.2.units ++ e.2.done).all fun x => !fromJournal x.arm

/-- The replay in execution and its descriptor; none once its command has ended otherwise. -/
def replaying (c : Ctl) : Option (Replay × Desc) :=
  match c.journal.replay with
  | none => none
  | some r => match findCmd c r.ref with
    | some m => if m.status = 0 ∧ m.stage = .dispatched then some (r, m.desc) else none
    | none => none

/-- The ferry reads for the replay in execution: an uncorrected or poisoned word ends it (12 R535). -/
def replayReads (v : View) (r : Ref) (reads : List (Nat × Nat)) (good : Ctl → Ctl) (c : Ctl) : Ctl :=
  reading v (some r) 0x2D .none reads (fun x c => stopEngine v.part r (consumes 0x2D x)
    (report v.part none x (modJournal (fun j => { j with replay := none, ready := [] }) c))) good c

/-! ## Batches (08 R255) -/

/-- Positions of the batch that begins at `i`: the next `k` that are not excluded, before `stop`. -/
def batchPositions (m : Mems) (d : Desc) (stop : Nat) : Nat → Nat → List Nat
  | 0, _ => []
  | k + 1, i =>
    let j := skipTo m d (stop - i) i
    if stop ≤ j then [] else j :: batchPositions m d stop k (j + 1)

/-- Records of the sample that a position draws. -/
def sampleRecs (v : View) (c : Ctl) (d : Desc) (i : Nat) : List JRec :=
  (List.range (devNat v.mems (repEntry d i + 4) 4)).map fun k => readRec v c (devNat v.mems (repEntry d i) 4 + k)

/-- Frames, access units (by their RTP timestamps) or windows (by ARRIVAL) that a sample gives a stream. -/
def outputsOf (v : View) (c : Ctl) (cls : Nat) (s : Stream) (recs : List JRec) : Nat :=
  if cls = 3 then (recs.filter fun r => decide (r.kind = 0) && decide (r.source = imgSrc s.arm.desc)).length
  else
    let got := recs.filterMap fun r =>
      if r.kind ≠ 1 then none
      else match udpOf (payload v c r) with
        | some u => if (flowsOf cls true s).any fun f => flowMatches v.part c f r.source u then
            some (if cls = 2 then fieldBE u.bytes 4 4 else windowStart c (r.epoch * 2 ^ 64 + r.arrival)) else none
        | none => none
    got.dedup.length

/-- The batch needs more slots in some stream than the stream has. -/
def batchTooBig (v : View) (c : Ctl) (d : Desc) (r : Replay) : Bool :=
  let samples := (batchPositions v.mems d r.stop (repBatch d) r.base).map (sampleRecs v c d)
  [2, 3, 4].any fun cls => (journalStreams c cls).any fun e =>
    decide (armSlots e.2.arm < sumN (samples.map (outputsOf v c cls e.2)))

/-! ## Records (13 R384-R386) -/

/-- A CSI-2 frame goes to the journal stream of its channel; one longer or shorter than the stream's frame halts
the pipeline (08 R247, R238). -/
def replayFrame (v : View) (pos j : Nat) (r : JRec) (pay : List Byte) (c : Ctl) : Ctl :=
  match (journalStreams c 3).find? fun e => decide (imgSrc e.2.arm.desc = r.source) with
  | none => c
  | some e =>
    let s := e.2
    let d := s.arm.desc
    let n := lineBytes (fld d 80 4) (inW d)
    if pay.length ≠ n * inH d then haltJournal v.part 3 pos j c
    else
      let x : Sample := { arm := s.arm, seq := s.seq, stamp := r.arrival, epoch := r.epoch, info0 := freeWord c, lines := tab (inH d) (fun y => (pay.drop (n * y)).take n), draw := pos, record := j }
      postUndef (64 * fld d 368 48) (stageBytes d)
        (modS 3 e.1 (fun s => { s with seq := s.seq + 1, done := s.done ++ [x] }) { c with free := c.free + 1 })

/-- The frame that a record claims exceeds its stream's (08 R247). -/
def frameTooLong (c : Ctl) (r : JRec) : Bool :=
  decide (r.kind = 0) && (journalStreams c 3).any fun e =>
    decide (imgSrc e.2.arm.desc = r.source) && decide (lineBytes (fld e.2.arm.desc 80 4) (inW e.2.arm.desc) * inH e.2.arm.desc < r.len)

/-- The commands of a doorbell go into the ring of the named queue at their recorded indices; then the write is
applied as one of the recorded function (13 R384). -/
def replayDoorbell (v : View) (pay : List Byte) (c : Ctl) : Ctl :=
  let q := fieldAt pay 0 2
  let fn := fieldAt pay 2 1
  let w := fieldAt pay 8 8
  let n := (pay.length - 16) / 64
  let u := getQ c q
  if 16 < fn ∨ !holds v.part c fn .queue q then c
  else
    let c1 := if u.state ≠ .enabled then c
      else upto (fun k c =>
        let i := (bitsN w 0 16 + 65536 - n + k) % 65536
        postAt u.ctx.ringHost (64 * u.ctx.ringAddr + 64 * (i % 2 ^ u.ctx.depthLog2)) ((pay.drop (16 + 64 * k)).take 64) c) n c
    if serving c then ringDoorbell v fn q (bitsN w 16 2) (bitsN w 0 16) c1 else c1

/-- The link of an OD_WRITE record. -/
def recPath (source : Nat) : Path := if source = 0 then .can else if source = 2 then .monitor else .mailbox 0

/-- A recorded dictionary write is applied, or skipped and counted in ReplaySkipped (13 R384). -/
def replayWrite (v : View) (source : Nat) (pay : List Byte) (c : Ctl) : Ctl :=
  let idx := fieldAt pay 0 2
  let sub := fieldAt pay 2 1
  let acc := (odAccess idx sub).1
  if idx = 0x2310 ∨ idx = 0x2600 ∨ idx = 0x2A00 ∨ acc = .otl ∨ acc = .tst then bump v.part 0x2600 8 64 1 c
  else (writeOd v (recPath source) idx sub (ofLE (pay.drop 8)) (fieldAt pay 4 4) true c).1

/-- The recorded OffsetNow becomes the replay offset (13 R384). -/
def replayOffset (x : Nat) (c : Ctl) : Ctl := modJournal (fun j => { j with offset := some (sgn 64 x) }) c

/-- One record, by its kind (13 R384). -/
def deliverRec (v : View) (pos j : Nat) (r : JRec) (pay : List Byte) (c : Ctl) : Ctl :=
  if r.kind = 0 then replayFrame v pos j r pay c
  else if r.kind = 1 then
    (match udpOf pay with
     | some u => deliver v.part true r.source u (r.epoch * 2 ^ 64 + r.arrival) pos j c
     | none => c)
  else if r.kind = 2 then replayDoorbell v pay c
  else if r.kind = 3 then replayWrite v r.source pay c
  else if r.kind = 4 then replayOffset (fieldAt pay (pay.length - 16) 8) c
  else if r.kind = 7 then replayOffset (fieldAt pay 8 8) c
  else bump v.part 0x2600 8 64 1 c

/-- Pacing (13 R386): the first record fixes A and ARRIVAL_0. -/
def pace (d : Desc) (r : Replay) (a : Nat) (c : Ctl) : Ctl :=
  let s := r.start.getD (now c, a)
  let c1 := modJournal (fun j => { j with replay := j.replay.map fun x => { x with start := some s } }) c
  if fld d 65 1 = 1 then modTime (reach ((s.1 + (a + 2 ^ 64 - s.2)) % 2 ^ 64)) c1 else c1

/-- A recorded frame claims more lidar records than its stream's datagrams hold (08 R247). -/
def tooManyRecs (p : Part) (c : Ctl) (r : JRec) (pay : List Byte) : Bool :=
  decide (r.kind = 1) && (match udpOf pay with
    | some u => (journalStreams c 4).any fun e =>
        ((flowsOf 4 true e.2).any fun f => flowMatches p c f r.source u) && recsClaim (ptsParam e.2.arm.params) u.bytes.length
    | none => false)

/-- Read and deliver journal record `j` for the sample at position `pos` (08 R257, 13 R384, R385). A claim beyond its stream
has precedence over a failed check (08 R247). -/
def deliverRecord (v : View) (d : Desc) (x : Replay) (pos j : Nat) (c : Ctl) : Ctl :=
  let r := readRec v c j
  replayReads v x.ref ((recAddr v.part c j, 32) :: if r.kind = 6 then [] else paySpans v.part c r) (fun c =>
    let c1 := modJournal (fun j => { j with clock := r.epoch * 2 ^ 64 + r.arrival }) (pace d x r.arrival c)
    if 8 ≤ r.kind then haltJournal v.part 7 pos j c1
    else if frameTooLong c1 r ∨ tooManyRecs v.part c1 r (payload v c r) then haltJournal v.part 4 pos j c1
    else if r.kind = 6 ∨ crc32c (payload v c r) ≠ r.check then haltJournal v.part 9 pos j c1
    else deliverRec v pos j r (payload v c r) c1) c

/-- The windows that a sample opened close at its end, stream by stream (13 R385); `k` bounds their number. -/
def closeOpened (n : Nat) (v : View) : Nat → Ctl → Ctl
  | 0, c => c
  | k + 1, c =>
    let s := getS c 4 n
    match (if s.state = .running then recordedWindow s else none) with
    | some x => closeOpened n v k (closeWindow n x.1 x.2 (drawNow c) v c)
    | none => c

/-- Recorded windows that a stream holds, at most. -/
def windowsHeld (s : Stream) : Nat := sumN (s.eras.map fun e => e.pts.length + e.overs.length)

/-- The end of a sample: the next one's windows begin afresh. -/
def endSample (v : View) (c : Ctl) : Ctl :=
  let l := c.pts.filter fun e => decide (e.2.state = .running) && e.2.eras.any fun k => fromJournal k.arm
  let c1 := l.foldl (fun c e => closeOpened e.1 v (windowsHeld e.2) c) c
  let c2 := (journalStreams c1 4).foldl (fun c e => modS 4 e.1 (fun s => { s with win := 0 }) c) c1
  modJournal (fun j => { j with replay := j.replay.map fun x => { x with cur := none } }) c2

/-- Draw the next sample of the batch, when one is left to draw: its entry in the sample table. -/
def drawSample (v : View) (d : Desc) (r : Replay) (c : Ctl) : Ctl :=
  let i := skipTo v.mems d (r.stop - r.pos) r.pos
  if repBatch d ≤ r.drawn ∨ r.stop ≤ i then c
  else replayReads v r.ref [(repEntry d i, 16)] (fun c =>
    let first := devNat v.mems (repEntry d i) 4
    if r.drawn = 0 ∧ batchTooBig v c d r then
      invalid v.part r.ref 7 (modJournal (fun j => { j with replay := none, ready := [] }) c)
    else modJournal (fun j =>
      { j with replay := some { r with pos := i + 1, drawn := r.drawn + 1, cur := some (i, repPerm d i, first, first + devNat v.mems (repEntry d i + 4) 4) } }) c) c

/-- One delivery: end the sample that has no record left, else draw one, else deliver its next record. -/
def delivery (v : View) (c : Ctl) : Ctl :=
  match replaying c with
  | none => modJournal (fun j => { j with replay := none, ready := [] }) c
  | some (r, d) =>
    if !enginesRun c ∨ !inboxesEmpty c then c
    else match r.cur with
      | none => drawSample v d r c
      | some (pos, idx, next, last) =>
        if last ≤ next then endSample v c
        else deliverRecord v d r pos next
          (modJournal (fun j => { j with replay := some { r with cur := some (pos, idx, next + 1, last) } }) c)

/-- REPLAY_RECORD_DELIVERY (13 R384-R386). -/
def execReplayRecordDelivery (s : State) : Host.Outcome State Fault Refusal := act s delivery

/-- Insert a status entry in draw order, behind those of the same draw. -/
def insReady (x : Ready) : List Ready → List Ready
  | [] => [x]
  | y :: l => if x.sample.draw < y.sample.draw then x :: y :: l else y :: insReady x l

/-- BATCH_EMITTED (08 R255): every sample of the batch has been drawn and processed; the status entries are
written in draw order. -/
def emitBatch (v : View) (c : Ctl) : Ctl :=
  match replaying c with
  | none => c
  | some (r, d) =>
    let left := decide (skipTo v.mems d (r.stop - r.pos) r.pos < r.stop)
    if !enginesRun c ∨ r.cur.isSome ∨ r.drawn = 0 ∨ (r.drawn < repBatch d ∧ left) ∨ !allProcessed c then c
    else
      let l := c.journal.ready.foldl (fun l x => insReady x l) []
      nextBatch v d r r.pos (l.foldl (fun c x => writePresent v.part x.cls x.stream x.sample c)
        (modJournal (fun j => { j with ready := [] }) c))

/-- BATCH_EMITTED (08 R255). -/
def execBatchEmitted (s : State) : Host.Outcome State Fault Refusal := act s emitBatch

end Sys2Proof.Machine
end

