-- ==== Sys2Proof/Machine/SetGraph.lean ====
section
/-! DEFINITION. The set and graph engine (07 R212-R230). -/

namespace Sys2Proof.Machine

/-! ## Arrays -/

/-- The UNSIGNED32 entry `i` of an array at byte `a`. -/
def u32At (m : Mems) (a i : Nat) : Nat := devNat m (a + 4 * i) 4

/-- Bits of element `j` of row `i`. -/
def Rows.elem (m : Mems) (f : Nat) (x : Rows) (i j : Nat) : Nat := devNat m (x.base + x.stride * i + sgSize f * j) (sgSize f)

/-! ## Arithmetic (07 R214) -/

/-- A NaN is canonical, a zero is +0. -/
def canon (x : Nat) : Nat := if nan32 x then 0x7FC00000 else if eq32 x 0 then 0 else x

/-- Larger of two elements. -/
def sgMax (f a b : Nat) : Nat := if f = 10 then canon (max32 a b) else if sgn 32 a < sgn 32 b then b else a
/-- Smaller of two elements. -/
def sgMin (f a b : Nat) : Nat := if f = 10 then canon (min32 a b) else if sgn 32 b < sgn 32 a then b else a

/-- INT32 sum modulo 2^32, in order, with INT_WRAP. -/
def intSum (l : List Nat) (init : Nat) : Fl Nat :=
  l.foldl (fun (a : Fl Nat) x => let y := stepInt a.val (sgn 32 x); ⟨y.val, a.flags ||| y.flags⟩) ⟨init, 0⟩

/-- The place, among `k` waiting ones, of what arrives next: left open by 07 R226 (log 9). -/
def arrives (n k : Nat) : Nat := Config.arrivalPick n k % max 1 k

/-- Partial sums of the terms as they arrive, combined as they arrive: two of those waiting are added, until one is left;
`n` numbers the free choices. -/
def mergeSums : Nat → Nat → List Nat → Nat
  | 0, _, l => l.getD 0 0
  | k + 1, n, l =>
    match l with
    | [] => 0
    | [a] => a
    | l =>
      let i := arrives n l.length
      let rest := l.eraseIdx i
      let j := arrives (n + 1) rest.length
      mergeSums k (n + 2) (acc32 (l.getD i 0) (rest.getD j 0) :: rest.eraseIdx j)

/-- Contributions added to a value one by one, as they arrive. -/
def addArrivals : Nat → Nat → Nat → List Nat → Nat
  | 0, _, old, _ => old
  | k + 1, n, old, l =>
    let i := arrives n l.length
    addArrivals k (n + 1) (canon (acc32 old (l.getD i 0))) (l.eraseIdx i)

/-- FP32 sum of a segment (07 R226): the pairwise tree when ordered; unordered, partial sums in arrival order. -/
def fpSum (ordered : Bool) (n : Nat) (l : List Nat) : Nat :=
  canon (if ordered then tree acc32 0 l else mergeSums l.length n l)

/-- A reduction of 07 R221: 0 SUM, 1 MAX, 2 MIN, 3 MEAN; empty gives zero. -/
def sgReduce (f op : Nat) (ordered : Bool) (n : Nat) (l : List Nat) : Fl Nat :=
  match l with
  | [] => ⟨0, 0⟩
  | a :: t =>
    if op = 1 then ⟨t.foldl (sgMax f) (if f = 10 then canon a else a), 0⟩
    else if op = 2 then ⟨t.foldl (sgMin f) (if f = 10 then canon a else a), 0⟩
    else if f = 9 then intSum l 0
    else if op = 0 then ⟨fpSum ordered n l, 0⟩
    else ⟨canon (mul32 (fpSum ordered n l) (recipN l.length)), 0⟩

/-- Cycles that an ordered descriptor spends waiting on the reorder buffer are a free value (07 R226, log 6). -/
def noteOrderedWait (p : Part) (ordered : Bool) (c : Ctl) : Ctl :=
  if ordered then bump p 0x2B80 4 64 (Config.cycles c.free % 2 ^ 32) { c with free := c.free + 1 } else c

/-! ## Indices (07 R219, R220) -/

/-- An index as it is used: a row below `n`, or null; and whether it counts as an error. -/
def useIndex (n j : Nat) : Option Nat × Bool := if j < n then (some j, false) else (none, decide (j ≠ 0xFFFFFFFF))

/-- Count index errors (07 R219). -/
def noteIndexErrors (p : Part) (k : Nat) (c : Ctl) : Ctl :=
  if k = 0 then c else orFlags p 0x2B80 1 1 (bump p 0x2B80 2 64 k c)

/-- Segment `j` of an offset array at `a`, offsets clamped to `n`: start and end; empty where it decreases. -/
def segment (m : Mems) (a n j : Nat) : Nat × Nat :=
  let s := min n (u32At m a j)
  (s, max s (min n (u32At m a (j + 1))))

/-- Some segment's end is below its start (07 R220). -/
def segDecreases (m : Mems) (a n k : Nat) : Bool :=
  (List.range k).any fun j => decide (min n (u32At m a (j + 1)) < min n (u32At m a j))

/-! ## One descriptor -/

/-- What a descriptor does, once its fields are read: its checks, ranges and results. -/
structure SgJob where
  reserved : Bool := false
  fmtOk : Bool
  sizeOk : Bool := true
  clamps : List NumField
  /-- Ranges read, whole, and destination ranges (07 R218). -/
  srcs : List (Nat × Nat)
  dsts : List (Nat × Nat)
  /-- Work range, left with free values. -/
  work : List (Nat × Nat) := []
  exempt : Bool := false
  /-- Spans that are in fact read. -/
  reads : List (Nat × Nat)
  /-- Writes: DST, then IDX results, then AUX results (14 R403). -/
  out : List (List (Nat × List Byte))
  /-- Counters and flags; free values drawn. -/
  after : Ctl → Ctl

/-- Ordered behaviour (07 R226): ORDER, or ordered mode. -/
def sgOrdered (p : Part) (c : Ctl) (d : Desc) : Bool := decide (fld d 68 1 = 1) || decide (effVal p c 0x2600 5 = 1)

/-- Run a descriptor of opcode `op` (07 R217, R218, R228). -/
def sgRun (op : Nat) (r : Ref) (u : Upset) (job : View → Ctl → Desc → SgJob) (v : View) (c : Ctl) : Ctl :=
  match ready c r 1 op with
  | none => c
  | some m =>
    let p := v.part
    let d := m.desc
    let j := job v c d
    let unit := 0x28 + dTarget d
    let c0 := noteClamp p (anyClamped d j.clamps) c
    let hit : List (Nat × Nat) → List (Nat × Nat) → Bool := fun a b =>
      a.any fun x => b.any fun y => decide (x.1 < y.1 + y.2) && decide (y.1 < x.1 + x.2)
    if !sgFmt (fld d 64 4) ∨ j.reserved then invalid p r 1 c0
    else if !j.fmtOk then invalid p r 4 c0
    else if (j.srcs ++ j.dsts ++ j.work).any (fun s => !inDevice p c s.1 s.2) then invalid p r 5 c0
    else if (j.srcs ++ j.dsts ++ j.work).any (spanOff m.off) then invalid p r 6 c0
    else if !j.exempt && hit j.dsts (j.srcs ++ j.work) then invalid p r 9 c0
    else if !j.sizeOk then invalid p r 10 c0
    else engineRun v r unit 10 u j.reads (undefSpans j.dsts)
      (fun c => executed p r (signatureOf j.out)
        (modCmd r (fun m => { m with dst := j.dsts })
          (noteOrderedWait p (sgOrdered p c d) (j.after (postWrites j.out.flatten (undefSpans j.work c)))))) c0

/-- Fields W, strides and counts that clamp. -/
def sgFields (wb : Nat) (w n2 : Bool) (dst : Bool) : List NumField :=
  [(96, 32, 1, 16777216), (176, 16, wb, 65535)] ++ (if w then [(80, 13, 1, 4096)] else []) ++
    (if n2 then [(384, 32, 1, 16777216)] else []) ++ (if dst then [(240, 16, wb, 65535)] else [])

/-! ## GATHER and SCATTER -/

/-- SG.GATHER (07 R215, R219). -/
def gatherJob (v : View) (_c : Ctl) (d : Desc) : SgJob :=
  let m := v.mems
  let wb := sgW d * sgSize (fld d 64 4)
  let n := sgN d
  let src := sgSrc d wb
  let dst := sgDst d wb
  let idx := (List.range n).map fun i => useIndex (sgN2 d) (u32At m (sgIdx d) i)
  { fmtOk := true, clamps := sgFields wb true true true
    srcs := (sgIdx d, 4 * n) :: src.all (sgN2 d), dsts := sgDests d
    reads := (sgIdx d, 4 * n) :: idx.filterMap fun x => x.1.map src.row
    out := [(List.range n).map fun i => ((dst.row i).1, match (idx.getD i (none, false)).1 with
      | some j => devBytes m (src.row j).1 wb
      | none => List.replicate wb 0)]
    after := noteIndexErrors v.part (idx.filter Prod.snd).length }

/-- SG_GATHER (07 R215). -/
def execSgGather (r : Ref) (u : Upset) (s : State) : Host.Outcome State Fault Refusal := act s (sgRun 0 r u gatherJob)

/-- One element of a destination of SCATTER from its old value and its contributions in ascending source row
(07 R226). -/
def scatterElem (f comb : Nat) (ordered : Bool) (n old : Nat) (xs : List Nat) : Fl Nat :=
  match comb with
  | 1 =>
    if f = 9 then intSum xs old
    else ⟨if ordered then xs.foldl (fun a x => canon (acc32 a x)) old else addArrivals xs.length n old xs, 0⟩
  | 2 => ⟨xs.foldl (sgMax f) old, 0⟩
  | _ => ⟨xs.foldl (sgMin f) old, 0⟩

/-- SG.SCATTER (07 R219, R226). -/
def scatterJob (v : View) (c : Ctl) (d : Desc) : SgJob :=
  let m := v.mems
  let f := fld d 64 4
  let w := sgW d
  let wb := w * sgSize f
  let n := sgN d
  let src := sgSrc d wb
  let dst := sgDst d wb
  let comb := fld d 416 2
  let ordered := sgOrdered v.part c d
  let most := sgN d + 1
  let idx := (List.range n).map fun i => useIndex (sgN2 d) (u32At m (sgIdx d) i)
  let hits : Nat → List Nat := fun j => (List.range n).filter fun i => decide ((idx.getD i (none, false)).1 = some j)
  let touched := (idx.filterMap Prod.fst).dedup
  let row : Nat → Nat → Fl (List Byte) := fun j k =>
    let l := hits j
    if comb = 0 then
      let i := if ordered then l.getLastD 0 else l.getD (arrives (c.free + k) l.length) 0
      ⟨devBytes m (src.row i).1 wb, 0⟩
    else
      let es := (List.range w).map fun e =>
        scatterElem f comb ordered (c.free + (k * w + e) * most) (dst.elem m f j e) (l.map fun i => src.elem m f i e)
      ⟨es.flatMap fun x => leBytes 4 x.val, flagsOf es⟩
  let rows := (List.range touched.length).map fun k => let j := touched.getD k 0; (j, row j k)
  { fmtOk := decide (comb = 0) || sgWide f, clamps := sgFields wb true true true, exempt := true
    srcs := (sgIdx d, 4 * n) :: src.all n, dsts := sgDests d
    reads := (sgIdx d, 4 * n) :: src.all n ++ if comb = 0 then [] else touched.map dst.row
    out := [rows.map fun x => ((dst.row x.1).1, x.2.val)]
    after := fun c => raiseFlags v.part ((rows.map fun x => x.2.flags).foldl (· ||| ·) 0)
      (noteIndexErrors v.part (idx.filter Prod.snd).length { c with free := c.free + touched.length * w * most }) }

/-- SG_SCATTER (07 R226). -/
def execSgScatter (r : Ref) (u : Upset) (s : State) : Host.Outcome State Fault Refusal := act s (sgRun 1 r u scatterJob)

/-! ## SEGRED and MSGPASS -/

/-- SG.SEGRED (07 R220, R221, R226). -/
def segredJob (v : View) (c : Ctl) (d : Desc) : SgJob :=
  let m := v.mems
  let f := fld d 64 4
  let w := sgW d
  let wb := w * sgSize f
  let n := sgN d
  let k := sgN2 d
  let op := fld d 416 2
  let src := sgSrc d wb
  let dst := sgDst d wb
  let ordered := sgOrdered v.part c d
  let rows := (List.range k).map fun j =>
    let s := segment m (sgAux d) n j
    let es := (List.range w).map fun e =>
      sgReduce f op ordered (c.free + (j * w + e) * (2 * n)) ((List.range (s.2 - s.1)).map fun i => src.elem m f (s.1 + i) e)
    ((dst.row j).1, es)
  { fmtOk := sgWide f && (decide (op ≠ 3) || decide (f = 10)), clamps := sgFields wb true true true
    srcs := (sgAux d, 4 * (k + 1)) :: src.all n, dsts := sgDests d
    reads := (sgAux d, 4 * (k + 1)) :: (List.range k).flatMap fun j =>
      let s := segment m (sgAux d) n j
      (List.range (s.2 - s.1)).map fun i => src.row (s.1 + i)
    out := [rows.map fun x => (x.1, x.2.flatMap fun e => leBytes 4 e.val)]
    after := fun c => raiseFlags v.part ((rows.map fun x => flagsOf x.2).foldl (· ||| ·) 0)
      (let c1 := if segDecreases m (sgAux d) n k then orFlags v.part 0x2B80 1 2 c else c
       { c1 with free := c1.free + k * w * (2 * n) }) }

/-- SG_SEGRED (07 R221). -/
def execSgSegred (r : Ref) (u : Upset) (s : State) : Host.Outcome State Fault Refusal := act s (sgRun 2 r u segredJob)

/-- A neighbour's element times its edge weight (07 R216). -/
def weigh (f w x : Nat) : Nat :=
  if f = 10 then mul32 w x else (Config.intWeighted (BitVec.ofNat 32 x) (BitVec.ofNat 32 w)).toNat

/-- SG.MSGPASS (07 R219-R221, R226): a null neighbour is a row of zeros. -/
def msgpassJob (v : View) (c : Ctl) (d : Desc) : SgJob :=
  let m := v.mems
  let f := fld d 64 4
  let w := sgW d
  let wb := w * sgSize f
  let k := sgN d
  let src := sgSrc d wb
  let dst := sgDst d wb
  let op := fld d 464 2
  let weighted := decide (fld d 466 1 = 1)
  let wts := 64 * fld d 416 48
  let ordered := sgOrdered v.part c d
  let edges := u32At m (sgIdx d) k
  let nb := (List.range edges).map fun e => useIndex (sgN2 d) (u32At m (sgAux d) e)
  let elem : Nat → Nat → Nat := fun e j =>
    let x := match (nb.getD e (none, false)).1 with
      | some i => src.elem m f i j
      | none => 0
    if weighted then weigh f (u32At m wts e) x else x
  let rows := (List.range k).map fun j =>
    let s := segment m (sgIdx d) edges j
    let es := (List.range w).map fun t =>
      sgReduce f op ordered (c.free + (j * w + t) * (2 * edges)) ((List.range (s.2 - s.1)).map fun i => elem (s.1 + i) t)
    ((dst.row j).1, es)
  let arrays := [(sgIdx d, 4 * (k + 1)), (sgAux d, 4 * edges)] ++ if weighted then [(wts, 4 * edges)] else []
  { fmtOk := sgWide f && (decide (op ≠ 3) || decide (f = 10)), clamps := sgFields wb true true true
    srcs := arrays ++ src.all (sgN2 d), dsts := sgDests d
    reads := arrays ++ nb.filterMap fun x => x.1.map src.row
    out := [rows.map fun x => (x.1, x.2.flatMap fun e => leBytes 4 e.val)]
    after := fun c => raiseFlags v.part ((rows.map fun x => flagsOf x.2).foldl (· ||| ·) 0)
      (let c1 := if segDecreases m (sgIdx d) edges k then orFlags v.part 0x2B80 1 2 c else c
       noteIndexErrors v.part (nb.filter Prod.snd).length { c1 with free := c1.free + k * w * (2 * edges) }) }

/-- SG_MSGPASS (07 R216). -/
def execSgMsgpass (r : Ref) (u : Upset) (s : State) : Host.Outcome State Fault Refusal := act s (sgRun 7 r u msgpassJob)

/-! ## SORT and TOPK (07 R222) -/

/-- Place of a key in the order of 07 R222. -/
def keyOrd (f w : Nat) : Int :=
  if f = 1 then sgn 8 w
  else if f = 9 then sgn 32 w
  else if f = 11 then (w : Nat)
  else
    let b := 8 * sgSize f
    let mag : Int := (w % 2 ^ (b - 1) : Nat)
    if (elemNum f w).isNan then 2 ^ 33 else if w.testBit (b - 1) then -mag else mag

/-- Insert a key after every key that does not come later: the sort is stable. -/
def insKey (x : Int × Nat) : List (Int × Nat) → List (Int × Nat)
  | [] => [x]
  | y :: l => if x.1 < y.1 then x :: y :: l else y :: insKey x l

/-- Indices of `n` keys in order; descending order keeps equal keys in ascending index. -/
def sortedIdx (key : Nat → Int) (n : Nat) (desc : Bool) : List Nat :=
  ((List.range n).foldl (fun l i => insKey (if desc then -(key i) else key i, i) l) []).map Prod.snd

/-- SG.SORT (07 R222); the work buffer is left undefined. -/
def sortJob (v : View) (_c : Ctl) (d : Desc) : SgJob :=
  let m := v.mems
  let f := fld d 64 4
  let s := sgSize f
  let n := sgN d
  let src := sgSrc d s
  let dst := sgDst d s
  let order := sortedIdx (fun i => keyOrd f (src.elem m f i 0)) n (decide (fld d 464 1 = 1))
  { fmtOk := true, clamps := sgFields s false false true
    srcs := src.all n, dsts := sgDests d, work := [(64 * fld d 416 48, 8 * n)]
    reads := src.all n
    out := [(List.range n).map fun k => ((dst.row k).1, devBytes m (src.row (order.getD k 0)).1 s), [],
      [(sgAux d, order.flatMap fun i => leBytes 4 i)]]
    after := id }

/-- SG_SORT (07 R222). -/
def execSgSort (r : Ref) (u : Upset) (s : State) : Host.Outcome State Fault Refusal := act s (sgRun 3 r u sortJob)

/-- SG.TOPK (07 R222): the best keys first. -/
def topkJob (v : View) (_c : Ctl) (d : Desc) : SgJob :=
  let m := v.mems
  let f := fld d 64 4
  let s := sgSize f
  let n := sgN d
  let k := sgK d
  let src := sgSrc d s
  let dst := sgDst d s
  let order := (sortedIdx (fun i => keyOrd f (src.elem m f i 0)) n (decide (fld d 429 1 = 0))).take k
  { fmtOk := true, clamps := (416, 13, 1, min 4096 n) :: sgFields s false false true
    srcs := src.all n, dsts := sgDests d
    reads := src.all n
    out := [(List.range k).map fun i => ((dst.row i).1, devBytes m (src.row (order.getD i 0)).1 s), [],
      [(sgAux d, order.flatMap fun i => leBytes 4 i)]]
    after := id }

/-- SG_TOPK (07 R222). -/
def execSgTopk (r : Ref) (u : Upset) (s : State) : Host.Outcome State Fault Refusal := act s (sgRun 4 r u topkJob)

/-! ## NMS (07 R223) -/

/-- A degenerate box. -/
def degenerate (rot : Bool) (b : List Nat) : Bool :=
  let x := b.getD 0 0
  let y := b.getD 1 0
  let z := b.getD 2 0
  let w := b.getD 3 0
  b.any nan32 || (if rot then !lt32 0 z || !lt32 0 w else !lt32 x z || !lt32 y w)

/-- Area of a box. -/
def boxArea (rot : Bool) (b : List Nat) : Nat :=
  if rot then mul32 (b.getD 2 0) (b.getD 3 0) else mul32 (sub32 (b.getD 2 0) (b.getD 0 0)) (sub32 (b.getD 3 0) (b.getD 1 0))

/-- Intersection of two boxes; the rotated one is a fixed algorithm that the spec does not give (log 8). -/
def boxInter (lvl : Nat) (rot : Bool) (a b : List Nat) : Nat :=
  if rot then (Config.rotatedInter lvl (a.map (BitVec.ofNat 32)) (b.map (BitVec.ofNat 32))).toNat
  else
    let side := fun i => max32 0 (sub32 (min32 (a.getD (i + 2) 0) (b.getD (i + 2) 0)) (max32 (a.getD i 0) (b.getD i 0)))
    mul32 (side 0) (side 1)

/-- Box `a` is suppressed by a kept box `b`. -/
def suppresses (lvl : Nat) (rot : Bool) (thr : Nat) (a b : List Nat) : Bool :=
  let i := boxInter lvl rot a b
  lt32 (mul32 thr (sub32 (add32 (boxArea rot a) (boxArea rot b)) i)) i

/-- Progress of an examination: kept indices, boxes examined, degenerate boxes, stopped. -/
structure NmsSt where
  kept : List Nat := []
  seen : Nat := 0
  degen : Nat := 0
  full : Bool := false
  deriving DecidableEq, Repr

/-- Examine boxes in order. -/
def nmsRun (lvl : Nat) (rot perClass : Bool) (thr most n : Nat) (box : Nat → List Nat) (cls : Nat → Nat) : NmsSt :=
  (List.range n).foldl (fun s i =>
    if s.full then s
    else
      let s1 := { s with seen := s.seen + 1 }
      if degenerate rot (box i) then { s1 with degen := s.degen + 1 }
      else if s.kept.any fun j => (!perClass || decide (cls i = cls j)) && suppresses lvl rot thr (box i) (box j) then s1
      else { s1 with kept := s.kept ++ [i], full := decide (s.kept.length + 1 = most) }) {}

/-- SG.NMS (07 R223). -/
def nmsJob (v : View) (_c : Ctl) (d : Desc) : SgJob :=
  let m := v.mems
  let rot := decide (fld d 416 1 = 1)
  let per := decide (fld d 417 1 = 1)
  let n := sgN d
  let w := if rot then 5 else 4
  let src := sgSrc d (4 * w)
  let most := sgKeep d
  let t := fld d 448 32
  let thr := if nan32 t ∨ lt32 t 0 then 0 else t
  let box := fun i => (List.range w).map fun j => src.elem m 10 i j
  let big := decide (4096 < n)
  let s := if big then {} else nmsRun v.part.arithLevel rot per thr most n box fun i => u32At m (sgIdx d) i
  let ins := src.all n ++ if per then [(sgIdx d, 4 * n)] else []
  { fmtOk := decide (fld d 64 4 = 10), sizeOk := !big, clamps := (432, 16, 1, 4096) :: sgFields (4 * w) false false false
    srcs := ins, dsts := sgDests d, reads := ins
    out := [[(sgOut d, s.kept.flatMap fun i => leBytes 4 i)], [], [(sgAux d, leBytes 4 s.kept.length ++ leBytes 4 s.seen)]]
    after := fun c =>
      let c1 := if s.degen = 0 then c else orFlags v.part 0x2B80 1 4 (bump v.part 0x2B80 3 64 s.degen c)
      if s.full then orFlags v.part 0x2B80 1 8 c1 else c1 }

/-- SG_NMS (07 R223). -/
def execSgNms (r : Ref) (u : Upset) (s : State) : Host.Outcome State Fault Refusal := act s (sgRun 5 r u nmsJob)

/-! ## ASSIGN (07 R224) -/

/-- An assignment of the rows considered: pairs, exact total cost, column per row. -/
structure Asg where
  pairs : Nat := 0
  cost : Num := .fin false 0 0
  res : List (Option Nat) := []
  deriving DecidableEq, Repr

/-- `a` is strictly better than `b`: more pairs, then less cost. -/
def Asg.better (a b : Asg) : Bool := decide (b.pairs < a.pairs) || (decide (a.pairs = b.pairs) && a.cost.lt b.cost)

/-- The best assignment of the rows to columns not in `used`; candidates stand in the order of 07 R224, lower
column first and no column last, and the first of the best is taken. -/
def bestAsg (allowed : Nat → Bool) : List (List Nat) → List Nat → Asg
  | [], _ => {}
  | row :: rest, used =>
    let cols := (List.range row.length).filter fun j => allowed (row.getD j 0) && !used.contains j
    let with_ := cols.map fun j =>
      let a := bestAsg allowed rest (j :: used)
      ({ pairs := a.pairs + 1, cost := (dec32 (row.getD j 0)).add a.cost, res := some j :: a.res } : Asg)
    let a := bestAsg allowed rest used
    (with_ ++ [{ a with res := none :: a.res }]).foldl (fun (b : Option Asg) x =>
      match b with
      | none => some x
      | some y => if x.better y then some x else some y) none |>.getD {}

/-- SG.ASSIGN (07 R224). -/
def assignJob (v : View) (_c : Ctl) (d : Desc) : SgJob :=
  let m := v.mems
  let n := sgN d
  let k := sgN2 d
  let src := sgSrc d (4 * k)
  let gate := fld d 416 32
  let big := decide (512 < n) || decide (512 < k)
  let cost := fun i j => src.elem m 10 i j
  let allowed := fun x => !(dec32 x).isNan && !(dec32 x).isInf && (lt32 x gate || eq32 x gate)
  let a := if big then {} else bestAsg allowed ((List.range n).map fun i => (List.range k).map fun j => cost i j) []
  let total := (List.range n).foldl (fun t i => match a.res.getD i none with
    | some j => acc32 t (cost i j)
    | none => t) 0
  let rowOf : Nat → Nat := fun j => match a.res.findIdx? fun x => decide (x = some j) with
    | some i => i
    | none => 0xFFFF
  { fmtOk := decide (fld d 64 4 = 10), sizeOk := !big
    clamps := [(96, 32, 1, 16777216), (384, 32, 1, 16777216), (176, 16, min 65535 (4 * k), 65535)]
    srcs := src.all n, dsts := sgDests d, reads := src.all n
    out := [[(sgOut d, (List.range n).flatMap fun i => leBytes 2 ((a.res.getD i none).getD 0xFFFF))],
      [(sgIdx d, (List.range k).flatMap fun j => leBytes 2 (rowOf j))],
      [(sgAux d, leBytes 4 a.pairs ++ leBytes 4 total)]]
    after := id }

/-- SG_ASSIGN (07 R224). -/
def execSgAssign (r : Ref) (u : Upset) (s : State) : Host.Outcome State Fault Refusal := act s (sgRun 6 r u assignJob)

end Sys2Proof.Machine
end

