-- ==== Sys2Proof/Machine/Extents.lean ====
section
/-! DEFINITION. The extents of a command in the device address space, for which a shut-down of a lagoon or a block waits
(12 R342), and SHUT_DOWN_BEGIN (01 R40-R42). -/

namespace Sys2Proof.Machine

/-- The pages, the list and the stack of set `set` that a command on sequence `n` may touch. -/
def seqSpans (v : View) (c : Ctl) (set n : Nat) : List (Nat × Nat) :=
  let x := geom v.part c set
  let e := getSeq c n
  (64 * e.listAddr, 4 * e.listCap) ::
    (List.range e.pages).map fun k => (x.addr (listed v.mems e k) 0, x.g * x.page)

/-- A work list at byte `wl`, and what its records touch. -/
def listSpans (v : View) (c : Ctl) (set wl : Nat) : List (Nat × Nat) :=
  (wl, 64 + 8 * wlCount v.mems wl) ::
    (List.range (wlCount v.mems wl)).flatMap fun i => seqSpans v c set (wlAt v.mems wl i).seq

/-- The pages that an AT.APPEND between its phases has taken. -/
def takenSpans (v : View) (c : Ctl) (set : Nat) (r : Ref) : List (Nat × Nat) :=
  let x := geom v.part c set
  (c.appends.filter fun a => decide (a.ref = r)).flatMap fun a =>
    a.recs.flatMap fun y => y.taken.map fun n => (x.addr n 0, x.g * x.page)

/-- The job of an SG descriptor. -/
def sgJobOf (v : View) (c : Ctl) (d : Desc) : SgJob :=
  match dOp d with
  | 0 => gatherJob v c d
  | 1 => scatterJob v c d
  | 2 => segredJob v c d
  | 3 => sortJob v c d
  | 4 => topkJob v c d
  | 5 => nmsJob v c d
  | 6 => assignJob v c d
  | _ => msgpassJob v c d

/-- Extents of a block's command: its scratch, and beyond it those of the attention commands. -/
def blockExtents (v : View) (c : Ctl) (r : Ref) (d : Desc) : List (Nat × Nat) :=
  (scratchBase (dTarget d), scratchSize) ::
    (match dOp d with
     | 4 => listSpans v c (fld d 84 6) (64 * fld d 320 48)
     | 5 => (lagoonBase (dTarget d / 4), lagoonSize) ::
         (listSpans v c (fld d 68 6) (64 * fld d 176 48) ++ takenSpans v c (fld d 68 6) r)
     | 8 => listSpans v c (fld d 84 6) (64 * fld d 320 48)
     | _ => [])

/-- Extents of a sequence-unit command. -/
def seqUnitExtents (v : View) (c : Ctl) (d : Desc) : List (Nat × Nat) :=
  if dOp d = 6 then
    [(64 * fld d 80 48, 8192), (64 * fld d 128 48, 64 + 8 * (walkRecs v.mems c (fld d 64 6) (64 * fld d 80 48)).length)]
  else seqExtent d (fld d 64 3) :: seqReads (getSeq c (fld d 80 12)) d (fld d 64 3)

/-- Extents of a ferry command at device addresses. -/
def ferryExtents (v : View) (c : Ctl) (d : Desc) : List (Nat × Nat) :=
  match dOp d with
  | 0 =>
    let n := numF d (80, 24, 1, 16777215)
    (copyRows d).flatMap fun x =>
      (if fld d 64 1 = 1 then [] else [(x.1, n)]) ++ (if fld d 65 1 = 1 then [] else [(x.2, n)])
  | 1 =>
    let fmt := fld d 68 4
    let n := numF d (80, 16, 1, 65535)
    let h := numF d (96, 16, 1, 8192)
    let w := numF d (112, 16, 1, 8192)
    layoutReads d fmt n h w (layoutSrc d) ++ layoutGroups v.mems fmt n h w (layoutSrc d) ++
      layoutStores d fmt n h w (layoutDst d)
  | 2 =>
    (List.range 4).flatMap fun b =>
      if (fld d 68 4).testBit b then
        let pl := windowPlaces v.part c (fld d 80 8) (4 * fld d 72 3 + b)
        [(pl.1, pl.2.2), (pl.2.1, pl.2.2)]
      else []
  | _ => [(repTable d, 16 * repN d)]

/-- Extents of a command, of the queue and index `r`. -/
def extentsOf (v : View) (c : Ctl) (r : Ref) (d : Desc) : List (Nat × Nat) :=
  match dClass d with
  | 0 => if dOp d = 6 ∨ dOp d = 7 then seqUnitExtents v c d else blockExtents v c r d
  | 1 => (sgJobOf v c d).srcs ++ (sgJobOf v c d).dsts ++ (sgJobOf v c d).work
  | 2 => vdSpans d
  | 3 => imgSpans d
  | 4 => ptsSpans d
  | 5 => ferryExtents v c d
  | 6 => cryReads d ++ cryWrites d
  | _ => if dOp d = 4 then [(64 * fld d 64 48, 12)] else []

/-- A command in execution has an extent in switched domain `x` (12 R342). -/
def reachBusy (v : View) (c : Ctl) (x : Nat) : Bool :=
  (allCmds c).any fun e => decide (e.2.stage = .dispatched) &&
    (extentsOf v c ⟨e.1, e.2.idx⟩ e.2.desc).any (spanOff (2 ^ x))

/-! ## SHUT_DOWN_BEGIN (01 R40-R42, 12 R342, R368) -/

/-- Live windows on block `b` that are in scratch: their clients. -/
def liveClients (c : Ctl) (b : Nat) : List Nat :=
  (c.sched.windows.filter fun e => decide (e.1 % 32 = b) && !e.2.live.isEmpty && !e.2.spilled && !e.2.abandoned).map
    fun e => e.1 / 32

/-- The collector holds nothing. -/
def collEmpty (k : Coll) : Bool := k.recs.isEmpty && k.waiting.isEmpty && k.overflow.isNone

/-- The prerequisites of a shut-down hold. -/
def offReady (v : View) (c : Ctl) (d : Nat) : Bool :=
  if d < 40 ∧ d % 5 ≠ 4 then
    let b := 4 * (d / 5) + d % 5
    atBoundary c b && !moving c b && (onUnit c b).isEmpty && !reachBusy v c d && (liveClients c b).isEmpty &&
      collEmpty (look {} b c.faults.blocks) &&
      (!c.power.wantOff.contains (d - d % 5 + 4) || (List.range (d % 5)).all fun k => decide (pdOf c (d - d % 5 + k) = .off))
  else if d < 40 then
    (List.range 4).all (fun k => decide (pdOf c (d - 4 + k) = .off)) && !reachBusy v c d &&
      collEmpty (look {} (d / 5) c.faults.isles)
  else if d = 45 then c.fleet.isEmpty && (onUnit c 0x2E).isEmpty
  else if d = 43 then (onUnit c 0x28).isEmpty && (onUnit c 0x29).isEmpty
  else true

/-- A block with live windows at its boundary: the ferry is to spill them (01 R41). -/
def queueSpills (b : Nat) (c : Ctl) : Ctl :=
  (liveClients c b).foldl (fun c cl =>
    askFerry { client := cl, isle := b / 4, mask := 2 ^ (b % 4), fill := false, why := .shutDown } c) c

/-- What a domain does as its shut-down begins: ingest streams halt with cause POWER (08 R254), causeway
ports go down, a DRAM half writes back its code caches and goes to self-refresh (12 R368). -/
def goingOff (p : Part) (d : Nat) (c : Ctl) : Ctl :=
  if 40 ≤ d ∧ d ≤ 42 then haltEngine p (0x2A + (d - 40)) 10 c
  else if d = 44 then idlePorts p c
  else if 46 ≤ d then flushCodes p (d - 46) { c with dram := { c.dram with selfRefresh := setBitN c.dram.selfRefresh (d - 46) true } }
  else c

/-- SHUT_DOWN_BEGIN: the shut-down that was requested begins once its prerequisites hold. -/
def beginOff (d : Nat) (v : View) (c : Ctl) : Ctl :=
  if pdOf c d ≠ .on ∨ !c.power.wantOff.contains d then c
  else if offReady v c d then
    let again := c.power.wantOn.contains d
    goingOff v.part d (setPd d (if again then .pending else .shuttingDown) (modPower (fun w =>
      { w with wantOff := w.wantOff.filter (fun x => x ≠ d), wantOn := w.wantOn.filter (fun x => x ≠ d) }) c))
  else if d < 40 ∧ d % 5 ≠ 4 ∧ atBoundary c (4 * (d / 5) + d % 5) then queueSpills (4 * (d / 5) + d % 5) c
  else c

/-- SHUT_DOWN_BEGIN (17 R503). -/
def execShutDownBegin (d : Nat) (s : State) : Host.Outcome State Fault Refusal := act s (beginOff d)

end Sys2Proof.Machine
end

