-- ==== Sys2Proof/Machine/Warm.lean ====
section
/-! DEFINITION. The phases of the safe state and the warm restart (14 R427-R429, 17 R500). -/

namespace Sys2Proof.Machine

/-- The safe state stands in phase `k`, or the device became failed in it before the reset step (14 R429). -/
def inPhase (c : Ctl) (k : Nat) : Bool :=
  decide (c.safety.phase = k) && (decide (c.safety.mode = .safeState) || (decide (c.safety.mode = .failed) && decide (k ≤ 2)))

/-- Go to phase `k`. -/
def toPhase (k : Nat) (c : Ctl) : Ctl := modSafety (fun s => { s with phase := k }) c

/-- SAFE_STATE_DISPATCH_STOP (14 R427 at 0.010 ms): dispatch and exports stop. -/
def execSafeStateDispatchStop (s : State) : Host.Outcome State Fault Refusal :=
  act s fun v c => if inPhase c 0 then toPhase 1 (dropTx v.part (stopExport v.part c)) else c

/-- SAFE_STATE_WORK_STOP (14 R427 at 1 ms): work in flight stops; no stream is armed then,
so time may step (09 R272, R281). -/
def execSafeStateWorkStop (s : State) : Host.Outcome State Fault Refusal :=
  act s fun v c => if inPhase c 1 then toPhase 2 (timeSettle v.part (stopWork v.part c)) else c

/-- The contents of the scratch and lagoons that are powered are undefined after the warm restart (14 R428). -/
def loseOnChip (p : Part) (c : Ctl) : Ctl :=
  postAll (((List.range (isles p)).filter fun i => pdOn c (lagoonDomain i)).map (fun i => .lose (32 + i) (lagoonBase i) lagoonSize) ++
    ((List.range 32).filter fun b => hasBlock p b && pdOn c (blockDomain b)).map fun b => .lose b (scratchBase b) scratchSize) c

/-- TaskTier returns to 0 (11 R339). -/
def resetTiers (p : Part) (c : Ctl) : Ctl :=
  (List.range 64).foldl (fun c n =>
    let c1 := odSet p (0x2440 + n) 0xA 0 c
    if getTask c n = {} then c1 else modTask n (fun t => { t with tierNow := 0 }) c1) c

/-- What 14 R428 resets in the safety cluster: pair entries, speculation records, votes and output indices;
third evaluations are dropped and counted as unresolved (14 R430); suspect states are kept, without the layers that
waited for a replay. -/
def resetSafety (p : Part) (c : Ctl) : Ctl :=
  bump p 0x2700 0x16 32 c.safety.third.length (modSafety (fun s =>
    { s with
      votes := []
      pairs := []
      decided := []
      uncommitted := []
      third := []
      slice := none
      layers := []
      samples := []
      suspects := (s.suspects.map fun e => (e.1, { e.2 with layers := [] })).filter fun e => decide (e.2 ≠ {})
      columns := []
      reflex := [] }) c)

/-- The reset step (14 R427 at 5 ms, R428). -/
def resetUnits (p : Part) (c : Ctl) : Ctl :=
  let c1 := resetTiers p (resetSafety p (odSet p 0x2310 1 0 (loseOnChip p c)))
  rebuildPools p { c1 with blocks := [], queues := [], fifos := [] }

/-- A crypto domain that is off is powered for the check of the image, while PdEnable reads 0 (17 R500). -/
def cryptoOn (c : Ctl) : Ctl := if pdOn c 45 then c else requestOn 45 c

/-- SAFE_STATE_RESET (14 R427). -/
def execSafeStateReset (s : State) : Host.Outcome State Fault Refusal :=
  act s fun v c => if inPhase c 2 then toPhase 3 (cryptoOn (resetUnits v.part c)) else c

/-- The image in the device reserve is still the one that was verified, and passes checks 5 to 8 (17 R500). -/
def imageGood (v : View) (c : Ctl) : Bool :=
  let img := imageHeld v c
  decide (sha512 img = c.boot.digest) && decide (checkKey v img = none) && decide (checkSignature v img = none)

/-- The crypto domain goes off again after the check where PdEnable keeps it off. -/
def cryptoOff (p : Part) (c : Ctl) : Ctl := if pdEnable p c 45 = 0 then setPd 45 .shuttingDown c else c

/-- IMAGE_REVERIFY (17 R500), once the crypto domain is on. -/
def execImageReverify (s : State) : Host.Outcome State Fault Refusal :=
  act s fun v c =>
    if inPhase c 3 ∧ pdOn c 45 then cryptoOff v.part (if imageGood v c then toPhase 4 c else failDevice v.part 11 c) else c

/-- SAFE_STATE_CORES_RESTART (14 R427 at 25 ms): the cores restart; a dropped core is in service again, a
fenced one stays fenced. -/
def execSafeStateCoresRestart (s : State) : Host.Outcome State Fault Refusal :=
  act s fun _ c =>
    if inPhase c 4 then
      toPhase 5 (modSafety (fun s =>
        { s with
          cores := s.cores.map fun x => if x = .resync then .inService else x
          copying := [false, false, false]
          copied := [false, false, false] }) c)
    else c

/-- SAFE_STATE_CHECKER_TESTS (14 R427 at 140 ms): every checker has been tested once. -/
def execSafeStateCheckerTests (s : State) : Host.Outcome State Fault Refusal :=
  act s fun v c => if inPhase c 5 then toPhase 6 (testAll v.part c) else c

/-- SAFE_STATE_SERVICE_READY (14 R427 at 150 ms): SafetyState reads IN_SERVICE, the twin's yield clears (16
R473) and SERVICE_READY is sent with cause 2. -/
def execSafeStateServiceReady (s : State) : Host.Outcome State Fault Refusal :=
  act s fun v c =>
    if inPhase c 6 then
      serviceReady v.part 2 (electHarbour v.part (modTwin (fun t => { t with yield := false })
        (modSafety (fun s => { s with mode := .inService, phase := 0 }) c)))
    else c

end Sys2Proof.Machine
end

