-- ==== Sys2Proof/Machine/Dispatch.lean ====
section
/-! DEFINITION. The meaning of each command: one arm per constructor. -/

namespace Sys2Proof.Machine

def exec (i : Instr) (s : State) : Host.Outcome State Fault Refusal :=
  match i with
  | .mxOuter r u => Sys2Proof.Machine.execMxOuter r u s
  | .mxDrain r u => Sys2Proof.Machine.execMxDrain r u s
  | .mxConv r u => Sys2Proof.Machine.execMxConv r u s
  | .mxPool r u => Sys2Proof.Machine.execMxPool r u s
  | .atScore r u => Sys2Proof.Machine.execAtScore r u s
  | .atAppend r u => Sys2Proof.Machine.execAtAppend r u s
  | .atWalk r u => Sys2Proof.Machine.execAtWalk r u s
  | .atSeqOpen r u => Sys2Proof.Machine.execAtSeqOpen r u s
  | .atSeqClose r u => Sys2Proof.Machine.execAtSeqClose r u s
  | .atSeqPark r u => Sys2Proof.Machine.execAtSeqPark r u s
  | .atSeqResume r u => Sys2Proof.Machine.execAtSeqResume r u s
  | .atSeqRearm r u => Sys2Proof.Machine.execAtSeqRearm r u s
  | .atSeqDropOldest r u => Sys2Proof.Machine.execAtSeqDropOldest r u s
  | .atSeqSetScale r u => Sys2Proof.Machine.execAtSeqSetScale r u s
  | .atGrad r u => Sys2Proof.Machine.execAtGrad r u s
  | .sgGather r u => Sys2Proof.Machine.execSgGather r u s
  | .sgScatter r u => Sys2Proof.Machine.execSgScatter r u s
  | .sgSegred r u => Sys2Proof.Machine.execSgSegred r u s
  | .sgSort r u => Sys2Proof.Machine.execSgSort r u s
  | .sgTopk r u => Sys2Proof.Machine.execSgTopk r u s
  | .sgNms r u => Sys2Proof.Machine.execSgNms r u s
  | .sgAssign r u => Sys2Proof.Machine.execSgAssign r u s
  | .sgMsgpass r u => Sys2Proof.Machine.execSgMsgpass r u s
  | .imgProcArm r u => Sys2Proof.Machine.execImgProcArm r u s
  | .imgProcStop r => Sys2Proof.Machine.execImgProcStop r s
  | .vdDecodeArm r u => Sys2Proof.Machine.execVdDecodeArm r u s
  | .vdDecodeStop r => Sys2Proof.Machine.execVdDecodeStop r s
  | .ptsVoxelArm r u => Sys2Proof.Machine.execPtsVoxelArm r u s
  | .ptsVoxelStop r => Sys2Proof.Machine.execPtsVoxelStop r s
  | .dmCopy r u => Sys2Proof.Machine.execDmCopy r u s
  | .planarToCi r u => Sys2Proof.Machine.execPlanarToCi r u s
  | .ciToPlanar r u => Sys2Proof.Machine.execCiToPlanar r u s
  | .zbtToPlanar r u => Sys2Proof.Machine.execZbtToPlanar r u s
  | .planarToZbt r u => Sys2Proof.Machine.execPlanarToZbt r u s
  | .zbtRebase r u => Sys2Proof.Machine.execZbtRebase r u s
  | .phaseInterleave r u => Sys2Proof.Machine.execPhaseInterleave r u s
  | .dmSpill req u => Sys2Proof.Machine.execDmSpill req u s
  | .dmFill req u => Sys2Proof.Machine.execDmFill req u s
  | .dmReplay r u => Sys2Proof.Machine.execDmReplay r u s
  | .cryHash r u => Sys2Proof.Machine.execCryHash r u s
  | .cryVerify r u => Sys2Proof.Machine.execCryVerify r u s
  | .cryAttest r u => Sys2Proof.Machine.execCryAttest r u s
  | .qcNop r => Sys2Proof.Machine.execQcNop r s
  | .qcWait r => Sys2Proof.Machine.execQcWait r s
  | .qcSignal r => Sys2Proof.Machine.execQcSignal r s
  | .qcFifoPut r => Sys2Proof.Machine.execQcFifoPut r s
  | .qcTimestamp r => Sys2Proof.Machine.execQcTimestamp r s
  | .doorbellTail fn slot tail => Sys2Proof.Machine.execDoorbellTail fn slot tail s
  | .doorbellEnable fn slot tail => Sys2Proof.Machine.execDoorbellEnable fn slot tail s
  | .doorbellDisable fn slot tail op0 => Sys2Proof.Machine.execDoorbellDisable fn slot tail op0 s
  | .commandFetch q => Sys2Proof.Machine.execCommandFetch q s
  | .commandDispatch q => Sys2Proof.Machine.execCommandDispatch q s
  | .commandDone r => Sys2Proof.Machine.execCommandDone r s
  | .commandRetire q => Sys2Proof.Machine.execCommandRetire q s
  | .syncSet fn slot v => Sys2Proof.Machine.execSyncSet fn slot v s
  | .syncAdd fn slot v => Sys2Proof.Machine.execSyncAdd fn slot v s
  | .fifoWrite fn slot v => Sys2Proof.Machine.execFifoWrite fn slot v s
  | .fifoWriteEnd fn slot v => Sys2Proof.Machine.execFifoWriteEnd fn slot v s
  | .fifoRead fn slot => Sys2Proof.Machine.execFifoRead fn slot s
  | .fifoFlush fn slot => Sys2Proof.Machine.execFifoFlush fn slot s
  | .fifoClearOverrun fn slot => Sys2Proof.Machine.execFifoClearOverrun fn slot s
  | .odRead p idx sub blk => Sys2Proof.Machine.execOdRead p idx sub blk s
  | .odWrite idx sub w => Sys2Proof.Machine.execOdWrite idx sub w s
  | .fusionTimeNowRead p => Sys2Proof.Machine.execFusionTimeNowRead p s
  | .arithEventFlagsWrite w => Sys2Proof.Machine.execArithEventFlagsWrite w s
  | .sgEventFlagsWrite w => Sys2Proof.Machine.execSgEventFlagsWrite w s
  | .msgRingDepthWrite n w => Sys2Proof.Machine.execMsgRingDepthWrite n w s
  | .msgHeadWrite n w => Sys2Proof.Machine.execMsgHeadWrite n w s
  | .journalReadIndexWrite w => Sys2Proof.Machine.execJournalReadIndexWrite w s
  | .timeStepPermitWrite w => Sys2Proof.Machine.execTimeStepPermitWrite w s
  | .keyRecompute => Sys2Proof.Machine.execKeyRecompute s
  | .taskEnableWrite n w => Sys2Proof.Machine.execTaskEnableWrite n w s
  | .taskTierWrite n w => Sys2Proof.Machine.execTaskTierWrite n w s
  | .pdEnableOn p d => Sys2Proof.Machine.execPdEnableOn p d s
  | .pdEnableOff p d => Sys2Proof.Machine.execPdEnableOff p d s
  | .shutDownBegin d => Sys2Proof.Machine.execShutDownBegin d s
  | .shutDownComplete d => Sys2Proof.Machine.execShutDownComplete d s
  | .powerUpComplete d => Sys2Proof.Machine.execPowerUpComplete d s
  | .faultClear w => Sys2Proof.Machine.execFaultClear w s
  | .fenceRequest w => Sys2Proof.Machine.execFenceRequest w s
  | .safeStateRequest w => Sys2Proof.Machine.execSafeStateRequest w s
  | .fleetGo w => Sys2Proof.Machine.execFleetGo w s
  | .fleetExportDone => Sys2Proof.Machine.execFleetExportDone s
  | .fwLoad w => Sys2Proof.Machine.execFwLoad w s
  | .imageFetchDone ok => Sys2Proof.Machine.execImageFetchDone ok s
  | .imageVerifyDone => Sys2Proof.Machine.execImageVerifyDone s
  | .setupStateReached cores => Sys2Proof.Machine.execSetupStateReached cores s
  | .exitSetup w => Sys2Proof.Machine.execExitSetup w s
  | .enterSetup w => Sys2Proof.Machine.execEnterSetup w s
  | .safetySealWrite w => Sys2Proof.Machine.execSafetySealWrite w s
  | .rollbackLevelWrite w ok => Sys2Proof.Machine.execRollbackLevelWrite w ok s
  | .keyRevokedWrite w ok => Sys2Proof.Machine.execKeyRevokedWrite w ok s
  | .splitModeWrite w ok => Sys2Proof.Machine.execSplitModeWrite w ok s
  | .injectArm w => Sys2Proof.Machine.execInjectArm w s
  | .twinTakeover w => Sys2Proof.Machine.execTwinTakeover w s
  | .twinRelease w => Sys2Proof.Machine.execTwinRelease w s
  | .barrierArm w => Sys2Proof.Machine.execBarrierArm w s
  | .barrierGo w => Sys2Proof.Machine.execBarrierGo w s
  | .barrierArmReceived id => Sys2Proof.Machine.execBarrierArmReceived id s
  | .barrierTimeout => Sys2Proof.Machine.execBarrierTimeout s
  | .barrierGoReceived port => Sys2Proof.Machine.execBarrierGoReceived port s
  | .barrierRelease => Sys2Proof.Machine.execBarrierRelease s
  | .barrierCalibrate w => Sys2Proof.Machine.execBarrierCalibrate w s
  | .barrierCalibrationDone port roundTrip => Sys2Proof.Machine.execBarrierCalibrationDone port roundTrip s
  | .usdoSegmentTimeout => Sys2Proof.Machine.execUsdoSegmentTimeout s
  | .nmtResetNode node => Sys2Proof.Machine.execNmtResetNode node s
  | .nmtStop node => Sys2Proof.Machine.execNmtStop node s
  | .canHeartbeat => Sys2Proof.Machine.execCanHeartbeat s
  | .clouxVer => Sys2Proof.Machine.execClouxVer s
  | .clouxState => Sys2Proof.Machine.execClouxState s
  | .clouxKeys => Sys2Proof.Machine.execClouxKeys s
  | .clouxLinks => Sys2Proof.Machine.execClouxLinks s
  | .clouxLog n => Sys2Proof.Machine.execClouxLog n s
  | .clouxMemR addr n => Sys2Proof.Machine.execClouxMemR addr n s
  | .clouxSyntaxError => Sys2Proof.Machine.execClouxSyntaxError s
  | .bypass => Sys2Proof.Machine.execBypass s
  | .idcode => Sys2Proof.Machine.execIdcode s
  | .samplePreload => Sys2Proof.Machine.execSamplePreload s
  | .extest => Sys2Proof.Machine.execExtest s
  | .extestPulse => Sys2Proof.Machine.execExtestPulse s
  | .extestTrain => Sys2Proof.Machine.execExtestTrain s
  | .clamp => Sys2Proof.Machine.execClamp s
  | .highz => Sys2Proof.Machine.execHighz s
  | .debugHalt countA countB countC => Sys2Proof.Machine.execDebugHalt countA countB countC s
  | .debugResume => Sys2Proof.Machine.execDebugResume s
  | .debugSingleStep => Sys2Proof.Machine.execDebugSingleStep s
  | .debugRegisterWrite reg v => Sys2Proof.Machine.execDebugRegisterWrite reg v s
  | .debugMemoryWrite addr v => Sys2Proof.Machine.execDebugMemoryWrite addr v s
  | .debugBreakpointSet addr => Sys2Proof.Machine.execDebugBreakpointSet addr s
  | .debugBreakpointClear addr => Sys2Proof.Machine.execDebugBreakpointClear addr s
  | .breakpointHit addr count => Sys2Proof.Machine.execBreakpointHit addr count s
  | .configurationRequest fn x => Sys2Proof.Machine.execConfigurationRequest fn x s
  | .functionLevelReset fn => Sys2Proof.Machine.execFunctionLevelReset fn s
  | .dlDown link => Sys2Proof.Machine.execDlDown link s
  | .perst1NAssert => Sys2Proof.Machine.execPerst1NAssert s
  | .bar2Write fn off bytes => Sys2Proof.Machine.execBar2Write fn off bytes s
  | .barMiss fn bar2 off write => Sys2Proof.Machine.execBarMiss fn bar2 off write s
  | .coldStart bifur harbour lawful => Sys2Proof.Machine.execColdStart bifur harbour lawful s
  | .coldReset => Sys2Proof.Machine.execColdReset s
  | .errorPinsActivate => Sys2Proof.Machine.execErrorPinsActivate s
  | .dramTrainingDone chA chB density uniform => Sys2Proof.Machine.execDramTrainingDone chA chB density uniform s
  | .arrayBootSelfTestDone maps unrepairable => Sys2Proof.Machine.execArrayBootSelfTestDone maps unrepairable s
  | .dramFillReserveDone => Sys2Proof.Machine.execDramFillReserveDone s
  | .dramFillDone => Sys2Proof.Machine.execDramFillDone s
  | .configurationReady => Sys2Proof.Machine.execConfigurationReady s
  | .powerGoodLoss rail mv => Sys2Proof.Machine.execPowerGoodLoss rail mv s
  | .railOutOfRange rail mv => Sys2Proof.Machine.execRailOutOfRange rail mv s
  | .pllLossOfLock pll => Sys2Proof.Machine.execPllLossOfLock pll s
  | .junctionOverTemperature temp => Sys2Proof.Machine.execJunctionOverTemperature temp s
  | .thermalTrip temp => Sys2Proof.Machine.execThermalTrip temp s
  | .mclkDerate temp => Sys2Proof.Machine.execMclkDerate temp s
  | .mclkRestore temp => Sys2Proof.Machine.execMclkRestore temp s
  | .frameBoundary => Sys2Proof.Machine.execFrameBoundary s
  | .syncMessage m => Sys2Proof.Machine.execSyncMessage m s
  | .followUp m => Sys2Proof.Machine.execFollowUp m s
  | .announce mac domain gm steps => Sys2Proof.Machine.execAnnounce mac domain gm steps s
  | .pdelayReqSend mac => Sys2Proof.Machine.execPdelayReqSend mac s
  | .pdelayReqReceived mac rx => Sys2Proof.Machine.execPdelayReqReceived mac rx s
  | .pdelayRespReceived mac x => Sys2Proof.Machine.execPdelayRespReceived mac x s
  | .syncLossTimeout t => Sys2Proof.Machine.execSyncLossTimeout t s
  | .ppsInEdge raw => Sys2Proof.Machine.execPpsInEdge raw s
  | .ppsOutEdge => Sys2Proof.Machine.execPpsOutEdge s
  | .ppsOutReturnLow => Sys2Proof.Machine.execPpsOutReturnLow s
  | .csi2FrameStart port vc num h raw => Sys2Proof.Machine.execCsi2FrameStart port vc num h raw s
  | .csi2LongPacket port vc dtype payload h crcOk => Sys2Proof.Machine.execCsi2LongPacket port vc dtype payload h crcOk s
  | .csi2FrameEnd port vc num h => Sys2Proof.Machine.execCsi2FrameEnd port vc num h s
  | .imgSamplePresent stream upset => Sys2Proof.Machine.execImgSamplePresent stream upset s
  | .ethernetFrameReceived mac frame fcsOk rx => Sys2Proof.Machine.execEthernetFrameReceived mac frame fcsOk rx s
  | .rtpPacket stream => Sys2Proof.Machine.execRtpPacket stream s
  | .accessUnitEnd stream au upset => Sys2Proof.Machine.execAccessUnitEnd stream au upset s
  | .vdPictureOutput stream => Sys2Proof.Machine.execVdPictureOutput stream s
  | .imgDecodedPicture stream => Sys2Proof.Machine.execImgDecodedPicture stream s
  | .lidarDatagram stream => Sys2Proof.Machine.execLidarDatagram stream s
  | .lidarWindowClose stream upset => Sys2Proof.Machine.execLidarWindowClose stream upset s
  | .lidarSampleWritten stream => Sys2Proof.Machine.execLidarSampleWritten stream s
  | .reflexColumn => Sys2Proof.Machine.execReflexColumn s
  | .reflexVote l => Sys2Proof.Machine.execReflexVote l s
  | .replayRecordDelivery => Sys2Proof.Machine.execReplayRecordDelivery s
  | .batchEmitted => Sys2Proof.Machine.execBatchEmitted s
  | .kernelBoundary unit => Sys2Proof.Machine.execKernelBoundary unit s
  | .taskDeadline n => Sys2Proof.Machine.execTaskDeadline n s
  | .pageWalkDone block seq li => Sys2Proof.Machine.execPageWalkDone block seq li s
  | .atScoreRecordDone r => Sys2Proof.Machine.execAtScoreRecordDone r s
  | .atAppendWrite r u => Sys2Proof.Machine.execAtAppendWrite r u s
  | .atAppendPublish r => Sys2Proof.Machine.execAtAppendPublish r s
  | .faultRecordForwarded c bad => Sys2Proof.Machine.execFaultRecordForwarded c bad s
  | .faultRecordLogged bad => Sys2Proof.Machine.execFaultRecordLogged bad s
  | .collectorRoom c => Sys2Proof.Machine.execCollectorRoom c s
  | .escalationTimerExpiry index => Sys2Proof.Machine.execEscalationTimerExpiry index s
  | .signatureArrival r => Sys2Proof.Machine.execSignatureArrival r s
  | .pairTimeout pair => Sys2Proof.Machine.execPairTimeout pair s
  | .safetyTaskWindow xs => Sys2Proof.Machine.execSafetyTaskWindow xs s
  | .checkpoint a b c => Sys2Proof.Machine.execCheckpoint a b c s
  | .coreOutput core k v => Sys2Proof.Machine.execCoreOutput core k v s
  | .voteWindowExpiry k => Sys2Proof.Machine.execVoteWindowExpiry k s
  | .resyncCopyDone core => Sys2Proof.Machine.execResyncCopyDone core s
  | .splitReplayInterval core vals => Sys2Proof.Machine.execSplitReplayInterval core vals s
  | .thirdEvaluationDone pair sigs => Sys2Proof.Machine.execThirdEvaluationDone pair sigs s
  | .thirdEvaluationTimeout pair => Sys2Proof.Machine.execThirdEvaluationTimeout pair s
  | .observationReplayDone unit agree => Sys2Proof.Machine.execObservationReplayDone unit agree s
  | .sampledReplayDone block agree => Sys2Proof.Machine.execSampledReplayDone block agree s
  | .selfTestSliceStart c => Sys2Proof.Machine.execSelfTestSliceStart c s
  | .selfTestSliceEnd c pass => Sys2Proof.Machine.execSelfTestSliceEnd c pass s
  | .latentCoverageWarning c => Sys2Proof.Machine.execLatentCoverageWarning c s
  | .safeStateDispatchStop => Sys2Proof.Machine.execSafeStateDispatchStop s
  | .safeStateWorkStop => Sys2Proof.Machine.execSafeStateWorkStop s
  | .safeStateReset => Sys2Proof.Machine.execSafeStateReset s
  | .imageReverify => Sys2Proof.Machine.execImageReverify s
  | .safeStateCoresRestart => Sys2Proof.Machine.execSafeStateCoresRestart s
  | .safeStateCheckerTests => Sys2Proof.Machine.execSafeStateCheckerTests s
  | .safeStateServiceReady => Sys2Proof.Machine.execSafeStateServiceReady s
  | .scratchScrub block unit word f => Sys2Proof.Machine.execScratchScrub block unit word f s
  | .lagoonScrub isle line word f => Sys2Proof.Machine.execLagoonScrub isle line word f s
  | .dramPatrolScrub unit f => Sys2Proof.Machine.execDramPatrolScrub unit f s
  | .dramRefresh half chan bank urgent => Sys2Proof.Machine.execDramRefresh half chan bank urgent s
  | .mr4Poll half chan code => Sys2Proof.Machine.execMr4Poll half chan code s
  | .activateTableClear => Sys2Proof.Machine.execActivateTableClear s
  | .heartbeatTick => Sys2Proof.Machine.execHeartbeatTick s
  | .heartbeatReceived h => Sys2Proof.Machine.execHeartbeatReceived h s
  | .cwFlitReceived port f => Sys2Proof.Machine.execCwFlitReceived port f s
  | .cwFlitCrcFail port => Sys2Proof.Machine.execCwFlitCrcFail port s
  | .cwTrainingDone port peer => Sys2Proof.Machine.execCwTrainingDone port peer s
  | .linkStateFlit port peer members => Sys2Proof.Machine.execLinkStateFlit port peer members s
  | .macLinkChange mac up => Sys2Proof.Machine.execMacLinkChange mac up s
  | .transmissionSend chan => Sys2Proof.Machine.execTransmissionSend chan s
  | .perst1NDeassert => Sys2Proof.Machine.execPerst1NDeassert s
  | .dlUp link speed width => Sys2Proof.Machine.execDlUp link speed width s
  | .cwPortLoss port => Sys2Proof.Machine.execCwPortLoss port s
  | .nmtStartRemoteNode node => Sys2Proof.Machine.execNmtStartRemoteNode node s
  | .nmtEnterPreOperational node => Sys2Proof.Machine.execNmtEnterPreOperational node s
  | .nmtResetCommunication node => Sys2Proof.Machine.execNmtResetCommunication node s
  | .observationReplaySkip unit => Sys2Proof.Machine.execObservationReplaySkip unit s
  | .valueWrap => Sys2Proof.Machine.execValueWrap s

end Sys2Proof.Machine
end

