-- ==== Sys2Proof/Safety.lean ====
section
/-! DEFINITION. The terms in which statements speak of a run: the pieces of the control state and which of
them a command may change, the bytes that the settling of commands may make undefined, what a fuse may do,
and the invariant of every step. -/

namespace Sys2Proof.Machine

/-- The pieces of the control state. Not among them are the outputs of a step, the effects that it posts and the messages
that it collects, which every step sets anew, and what the DRAM controllers make of the accesses that they serve
(12 R362-R365), which changes with every access and decides no byte, register or pin. The sequences whose counts a block
holds are a piece of their own (06 R205). -/
inductive Piece where
  | free | od | eff | boot | power | safety | faults | time | queues | syncs | fifos | sched | blocks | readers | seqs
  | listCache | walks | appends | img | vd | pts | journal | dram | links | barrier | fleet
  deriving DecidableEq, Repr

/-- Two control states agree on a piece. -/
def same (c d : Ctl) : Piece → Prop
  | .free => d.free = c.free
  | .od => d.od = c.od
  | .eff => d.eff = c.eff
  | .boot => d.boot = c.boot
  | .power => d.power = c.power
  | .safety => d.safety = c.safety
  | .faults => d.faults = c.faults
  | .time => d.time = c.time
  | .queues => d.queues = c.queues
  | .syncs => d.syncs = c.syncs
  | .fifos => d.fifos = c.fifos
  | .sched => d.sched = c.sched
  | .blocks => ∀ b, { getB d b with readers := [] } = { getB c b with readers := [] }
  | .readers => ∀ b, (getB d b).readers = (getB c b).readers
  | .seqs => d.seqs = c.seqs
  | .listCache => d.listCache = c.listCache
  | .walks => d.walks = c.walks
  | .appends => d.appends = c.appends
  | .img => d.img = c.img
  | .vd => d.vd = c.vd
  | .pts => d.pts = c.pts
  | .journal => d.journal = c.journal
  | .dram => d.dram = c.dram
  | .links => d.links = c.links
  | .barrier => d.barrier = c.barrier
  | .fleet => d.fleet = c.fleet

/-- Nothing but the listed pieces changes. -/
def Frame (l : List Piece) (c d : Ctl) : Prop := ∀ k, k ∉ l → same c d k

/-- The dictionary entries (index, subindex) for which `may` does not hold keep their values. -/
def OdKept (may : Nat → Nat → Prop) (p : Part) (c d : Ctl) : Prop :=
  ∀ idx sub, sub < 256 → ¬ may idx sub → odVal p d idx sub = odVal p c idx sub

/-- A byte of device memory reads as before, its poison mark included. -/
def sameByte (m n : Mems) (a : Nat) : Prop :=
  devByte n a = devByte m a ∧ poisonedIn n a 1 = poisonedIn m a 1

/-- An address lies in none of the spans (address and length). -/
def outside (spans : List (Nat × Nat)) (a : Nat) : Prop := ∀ x ∈ spans, ¬ (x.1 ≤ a ∧ a < x.1 + x.2)

/-- Every byte outside the spans reads as before, of device and of host memory. -/
def MemKept (dev host : List (Nat × Nat)) (m n : Mems) : Prop :=
  (∀ a, outside dev a → sameByte m n a) ∧ ∀ a, outside host a → hostByte n a = hostByte m a

/-- What a step touches: of the control state only the listed pieces, of the dictionary only the entries for
which `may` holds, of memory only the spans; the part, the fuses and the commands that wait stay. -/
def Touches (l : List Piece) (may : Nat → Nat → Prop) (dev host : List (Nat × Nat)) (s t : State) : Prop :=
  t.part = s.part ∧ t.fuses = s.fuses ∧ t.pending = s.pending ∧ Frame l s.ctl t.ctl ∧
    OdKept may s.part s.ctl t.ctl ∧ MemKept dev host s.mems t.mems

/-- Every byte of `n` bytes from `a` lies in one of the spans. -/
def covered (spans : List (Nat × Nat)) (a n : Nat) : Prop := ∀ x, a ≤ x → x < a + n → ¬ outside spans x

/-- A memory effect stays within the spans; a loss of a region's contents reaches all of the region. -/
def inSpans (dev host : List (Nat × Nat)) : MemOp → Prop
  | .dev a bs => covered dev a bs.length
  | .poison a => covered dev (wordOf a) (wordSize (wordOf a))
  | .host a bs => covered host a bs.length
  | .undef a n _ => covered dev a n
  | .lose g a n => covered dev a n ∧ ∀ x, dramTop ≤ x → regionKey (regionOf x) = g → ¬ outside dev x
  | .zero a n => covered dev a n

/-- The message ring of a function in host memory (10 R310). -/
def ringSpan (p : Part) (c : Ctl) (fn : Nat) : Nat × Nat :=
  (64 * odVal p c (0x2410 + fn) 9, 64 * odVal p c (0x2410 + fn) 0xA)

/-- Entries that a message to a function may change: MsgTail, MsgsDropped, and EMCYs suppressed (10 R310,
R313, R315). -/
def messageEntry (fn : Nat) : Nat → Nat → Prop := fun i k =>
  (i = 0x2410 + fn ∧ (k = 0xD ∨ k = 0xE)) ∨ (i = 0x2401 ∧ k = 7)

/-- A bound on what changes leaves room for a message to a function, whose ring stands where it stood. -/
def AllowsMsg (l : List Piece) (may : Nat → Nat → Prop) (host : List (Nat × Nat)) (p : Part) (c : Ctl) (fn : Nat) : Prop :=
  Piece.od ∈ l ∧ Piece.links ∈ l ∧ (∀ i s, messageEntry fn i s → may i s) ∧ ¬ may (0x2410 + fn) 9 ∧
    ¬ may (0x2410 + fn) 0xA ∧ ringSpan p c fn ∈ host

/-- What an operation on the control state touches: of it only the listed pieces, of the dictionary only the
entries for which `may` holds, its posted effects stay within the spans, and so will the messages that it leaves for the
end of the step. -/
def Does (l : List Piece) (may : Nat → Nat → Prop) (dev host : List (Nat × Nat)) (p : Part) (c d : Ctl) : Prop :=
  Frame l c d ∧ OdKept may p c d ∧ (∃ os, d.posted = c.posted ++ os ∧ ∀ o ∈ os, inSpans dev host o) ∧
    ∀ m ∈ d.msgs, m ∈ c.msgs ∨ AllowsMsg l may host p c m.fn

/-- No entry of the dictionary. -/
def noEntry : Nat → Nat → Prop := fun _ _ => False

/-- One of the entries listed. -/
def entries (l : List (Nat × Nat)) : Nat → Nat → Prop := fun i k => (i, k) ∈ l

/-- What becomes undefined when a command is discarded: what it has written (14 R410), and the destination ranges of a
set/graph descriptor that is interrupted (07 R228). -/
def looseOf (m : Cmd) : List (Nat × Nat) :=
  m.dst ++ if dClass m.desc = 1 ∧ m.stage = .dispatched then sgDests m.desc else []

/-- Spans that the settling of commands may rewrite: those of unretired commands, undefined once they
are discarded, and the places above the free stack of a pool from which a waiting AT.APPEND has
popped page sets (06 R200). -/
def looseSpans (p : Part) (c : Ctl) : List (Nat × Nat) :=
  ((allCmds c).flatMap fun e => looseOf e.2) ++
    c.appends.map fun a =>
      (64 * effVal p c (0x2B40 + a.set) 4 + 4 * odVal p c (0x2B40 + a.set) 5,
       4 * (c.appends.flatMap fun b => b.recs.flatMap AppendRec.taken).length)

/-- Entries that the settling of commands may change: SyncSaturations (10 R295), PoolFree (06 R200), and a client's
ResidentMask, DependWait and SlotWait (11 R323, R330, R340). -/
def settleEntry : Nat → Nat → Prop := fun i k =>
  (i = 0x2401 ∧ k = 5) ∨ (0x2B40 ≤ i ∧ k = 5) ∨ (0x4000 ≤ i ∧ (k = 0xD ∨ k = 0xE ∨ k = 0xF))

/-- The buffer of the fleet export under way, whose contents a stop leaves undefined (15 R452). -/
def exportSpans (c : Ctl) : List (Nat × Nat) :=
  match c.fleet with
  | a :: n :: _ => [(a, n)]
  | _ => []

/-- Pieces that the settling of commands may change. -/
def settlePieces : List Piece := [.free, .od, .queues, .syncs, .sched, .safety, .appends, .seqs, .readers]

/-- The journal and its payload ring in device memory (08 R257), while JournalEnable is 1. -/
def journalSpans (p : Part) (c : Ctl) : List (Nat × Nat) :=
  if odVal p c 0x2310 1 = 0 then []
  else [(64 * effVal p c 0x2310 2, 32 * max 1 (effVal p c 0x2310 3)), (64 * effVal p c 0x2310 4, effVal p c 0x2310 5)]

/-- Entries that the record of an input may change: JournalWriteIndex and JournalLost (08 R257), and those of
the message to function 0 that a lost input sends. -/
def inputEntry : Nat → Nat → Prop := fun i k => (i = 0x2310 ∧ (k = 6 ∨ k = 8)) ∨ messageEntry 0 i k

/-- Pieces that the record of an input may change. -/
def inputPieces : List Piece := [.od, .journal, .links]

/-- A write of an entry arrives on a link on which the device answers, and passes every check of 18 R510, R514
and R515: it is stored or has the entry's effect. -/
def Accepted (s : State) (idx sub : Nat) (w : OdW) : Prop :=
  reachable s.ctl w.path = true ∧ (w.path = .monitor → pastBoot s.ctl = true) ∧
    writeCheck s.view s.ctl w.path idx sub w.val w.size = none

/-- The number that a write offers, cut to the entry's size. -/
def offered (idx sub : Nat) (w : OdW) : Nat := cut (8 * (odAccess idx sub).2) w.val

/-- What an accepted write touches: what its record as an input touches, and the pieces, entries and spans
given. -/
def TouchesInput (l : List Piece) (may : Nat → Nat → Prop) (dev host : List (Nat × Nat)) (s t : State) : Prop :=
  Touches (l ++ inputPieces) (fun i k => inputEntry i k ∨ may i k) (journalSpans s.part s.ctl ++ dev)
    (ringSpan s.part s.ctl 0 :: host) s t

/-- Entries of which a write does no more than store a number (18 R511). -/
def plainEntry (idx sub : Nat) : Bool :=
  !isTrigger idx sub && !indexEntry idx sub && decide ((odAccess idx sub).1 ≠ .otl) &&
    !((decide (idx = 0x2B00) && decide (sub = 2)) || (decide (idx = 0x2B80) && decide (sub = 1)) ||
      (decide (0x2410 ≤ idx) && decide (idx ≤ 0x2420) && (decide (sub = 0xA) || decide (sub = 0xC))) ||
      (decide (idx = 0x2310) && (decide (sub = 1) || decide (sub = 7))) || (decide (idx = 0x2200) && decide (sub = 0xA)) ||
      (decide (idx = 0x2206) && decide (sub = 1)) ||
      (decide (0x2440 ≤ idx) && decide (idx < 0x2480) && (decide (sub = 2) || decide (sub = 0xA))) || decide (idx = 0x2110) ||
      (decide (idx = 0x2800) && (decide (sub = 3) || decide (sub = 4))) || (decide (idx = 0x2700) && decide (sub = 2)) ||
      (decide (0x4000 ≤ idx) && decide (idx < 0x4100) && decide (sub = 1)) ||
      (decide (idx = 0x2600) && decide (sub = 0xC)) || (decide (idx = 0x2A00) && decide (sub = 7)))

/-- What programming may do to the fuses (17 R489-R491, R501, 14 R400): the rollback level rises, revoked keys
stay revoked, the counts left fall, and the log only grows. -/
def FusesGrow (f g : Fuses) : Prop :=
  f.rollback ≤ g.rollback ∧ (∀ k, f.keyRevoked.testBit k = true → g.keyRevoked.testBit k = true) ∧
    g.splitLeft ≤ f.splitLeft ∧ g.rollbackLeft ≤ f.rollbackLeft ∧ g.revokeLeft ≤ f.revokeLeft ∧
    ∃ l, g.log = f.log ++ l

/-- Commands that program fuses (17 R489-R491, 14 R400): the three writes, and a dictionary write to their
entries. -/
def programsFuses : Instr → Bool
  | .rollbackLevelWrite _ _ => true
  | .keyRevokedWrite _ _ => true
  | .splitModeWrite _ _ => true
  | .odWrite _ _ _ => true
  | _ => false

/-- The next frame boundary lies ahead (09 R267). -/
def BoundaryAhead (t : Time) : Prop := t.period ≠ 0 → fullTime t < t.boundary

/-- No done signal of an unretired command waits to be applied (10 R303). -/
def NoDeferred (s : State) : Prop := ∀ e ∈ allCmds s.ctl, e.2.doneSig ≠ .deferred

/-- It is the turn of command `r`, which is `m`, of the given class and opcode: it stands first at its unit, which may run
it now; it has no outcome yet, is no re-execution, and no other command of its queue has its index. -/
def Turn (s : State) (r : Ref) (cls op : Nat) (m : Cmd) : Prop :=
  ready s.ctl r cls op = some m ∧ m.status = 0 ∧ m.committed = false ∧ m.redo = none ∧
    ∀ k ∈ (getQ s.ctl r.q).cmds, k.idx = r.i → k = m

/-- A command that owes nothing (10 R297): it is speculative on none, and its signature, if it has one, has passed. -/
def OwesNothing (m : Cmd) : Prop := m.parents = [] ∧ m.exportOn = [] ∧ (m.sig = .none ∨ m.sig = .passed)

/-- Command `r` is done, and committed if it owed nothing as `m` (10 R297). -/
def DoneAs (t : State) (r : Ref) (m : Cmd) : Prop :=
  ∃ x, findCmd t.ctl r = some x ∧ x.stage = .done ∧ x.desc = m.desc ∧
    (OwesNothing m → x.committed = true ∧ x.status = 0)

/-- Command `r` has ended with a status and a DETAIL (10 R301). -/
def EndedWith (t : State) (r : Ref) (status detail : Nat) : Prop :=
  ∃ x, findCmd t.ctl r = some x ∧ x.stage = .done ∧ x.status = status ∧ x.detail = detail

/-- What the done signal of command `m` adds to sync object `n` (10 R303). -/
def signalsNow (m : Cmd) (n : Nat) : Nat := if signalsDone m.desc = true ∧ fld m.desc 32 15 = n then 1 else 0

/-- Nothing defers the done signal of command `m`, if it has one (10 R303, 14 R409, R410). -/
def Prompt (s : State) (m : Cmd) : Prop :=
  signalsDone m.desc = true → m.parents = [] ∧ ((recorded s.ctl (fld m.desc 32 15)).length < 4 ∨ OwesNothing m)

/-- Nothing waits to be settled: no unretired command depends on one that has failed, and every AT.APPEND between its
phases is still in execution (10 R297, 06 R200). -/
def Settled (s : State) : Prop :=
  (∀ e ∈ allCmds s.ctl, e.2.status = 0 → e.2.committed = false → anyFailed s.ctl (e.2.parents ++ e.2.exportOn) = false) ∧
    ∀ a ∈ s.ctl.appends, appendEnded s.ctl a = false

/-- Command `r`, which was `m`, has executed with status OK (10 R297): besides the account of its cycles, the
value of its signature and what it wrote, nothing of it has changed. -/
def Executed (t : State) (r : Ref) (m : Cmd) : Prop :=
  ∃ x, findCmd t.ctl r = some x ∧
    x = { m with
      stage := .executed
      cycles := x.cycles
      sigValue := x.sigValue
      dst := x.dst }

/-- Pieces that the execution of a command on a unit may change. -/
def enginePieces : List Piece := [.free, .od, .sched, .queues]

/-- Entries that it may change: the executing, waiting and lost time of clients (11 R323) and ClampedFields (10 R285). -/
def engineEntry : Nat → Nat → Prop := fun i k => (0x4000 ≤ i ∧ 6 ≤ k ∧ k ≤ 8) ∨ (i = 0x2401 ∧ k = 3)

/-- No injection is in force and no word of device memory is poisoned. -/
def Undisturbed (s : State) : Prop := s.ctl.boot.testActive = false ∧ s.mems.poison = []

/-- Entries that the execution of a command on block `b` may change besides: ArithEventFlags (02 R82),
OmittedRecords (06 R192), and the block's counters of bubbles, skips, saved passes and look-aside misses. -/
def kernelEntry (b : Nat) : Nat → Nat → Prop := fun i k =>
  engineEntry i k ∨ (i = 0x2B00 ∧ (k = 2 ∨ k = 7)) ∨
    (0x3011 + 0x100 * (b / 4) ≤ i ∧ i ≤ 0x3016 + 0x100 * (b / 4) ∧ k = b % 4 + 1)

/-- A kernel has run into bank `i` of block `b` and closed its tile (03 R98, R101). -/
def KernelRan (s t : State) (r : Ref) (m : Cmd) (b i : Nat) (x : Kern) (init : List Nat) (keep : Bool) : Prop :=
  Executed t r m ∧
    (getB t.ctl b).bank i =
      { state := .held
        m := x.m
        n := x.n
        fp := decide (x.kind ≠ 0)
        k := x.k
        acc := (kernTile x init).val
        poisoned := keep && ((getB s.ctl b).bank i).poisoned } ∧
    (getB t.ctl b).held = ((getB s.ctl b).held.filter fun j => j ≠ i) ++ [i] ∧
    odVal s.part t.ctl 0x2B00 2 = odVal s.part s.ctl 0x2B00 2 ||| (kernTile x init).flags ∧
    Touches (.blocks :: enginePieces) (kernelEntry b) [] [] s t

/-- The memory of a step that has written byte strings at device addresses, in order, and nothing else. -/
def Wrote (s t : State) (ws : List (Nat × List Byte)) : Prop :=
  t.mems = applyOps s.mems (ws.map fun w => .dev w.1 w.2)

/-- The page buffer of an attention descriptor in the scratch of block `b` (06 R195). -/
def bufferSpan (d : Desc) (b : Nat) : Nat × Nat :=
  (scratchBase b + 64 * fld d 368 15, min (64 * numF d (384, 15, 1, 32767)) (scratchSize - 64 * fld d 368 15))

/-- The memory of a step that has used the page buffer, where the records fetch pages, and then written byte strings
(06 R195, R197). -/
def WrotePast (s t : State) (d : Desc) (b : Nat) (l : List Plan) (ws : List (Nat × List Byte)) : Prop :=
  ∃ k, t.mems = applyOps s.mems
    ((if l.all (fun q => decide (q.fetched = 0)) then [] else [.undef (bufferSpan d b).1 (bufferSpan d b).2 k]) ++
      ws.map fun w => .dev w.1 w.2)

/-- The streams of an engine. -/
def streamPiece (cls : Nat) : Piece := if cls = 2 then .vd else if cls = 3 then .img else .pts

/-- The admission entries follow the armed streams (08 R258): the loads of the three engines, and what is left of
the remap-table store. -/
def Admitted (s t : State) : Prop :=
  odVal s.part t.ctl 0x2300 1 = othersLoad t.ctl 3 64 ∧ odVal s.part t.ctl 0x2300 2 = othersLoad t.ctl 2 64 ∧
    odVal s.part t.ctl 0x2300 3 = othersLoad t.ctl 4 64 ∧ odVal s.part t.ctl 0x2300 4 = remapStore - othersTables t.ctl 64

/-- The status entry of sample `x` holds a status and a cause, and its SYNC is signalled (08 R234), unless what the settling
of commands loses reaches the entry. -/
def StatusGiven (s t : State) (x : Sample) (status cause : Nat) : Prop :=
  (Memory.wf s.mems = true →
    (∀ k, k < 32 → outside (looseSpans s.part s.ctl) (armStatus x.arm + 32 * (x.seq % armSlots x.arm) + k)) →
    devBytes t.mems (armStatus x.arm + 32 * (x.seq % armSlots x.arm)) 32 =
      statusEntry x.seq status cause x.flags x.stamp x.info0 x.info1) ∧
    min (getSync s.ctl (armSync x.arm) + 1) (2 ^ 64 - 1) ≤ getSync t.ctl (armSync x.arm)

/-- A live stream has halted at sample `x` with a cause (08 R252): its status entry says ABSENT, its slot is undefined but
for a claim beyond the limits (R247), one message goes to the owner of the queue that armed it, and no other stream and no
other byte changes. -/
def StreamHalted (s t : State) (cls n cause : Nat) (x : Sample) (may : Nat → Nat → Prop) : Prop :=
  (getS t.ctl cls n).state = .halted ∧ (getS t.ctl cls n).cause = cause ∧ (getS t.ctl cls n).cur = none ∧
    (getS t.ctl cls n).inbox = [] ∧ (∀ k, k ≠ n → getS t.ctl cls k = getS s.ctl cls k) ∧ StatusGiven s t x 1 cause ∧
    Touches ([streamPiece cls, .links] ++ settlePieces)
      (fun i k => settleEntry i k ∨ messageEntry (owner s.part s.ctl .queue x.arm.queue) i k ∨ may i k)
      ((armStatus x.arm + 32 * (x.seq % armSlots x.arm), 32) :: (if cause = 4 then [] else sampleSlot cls x) ++
        looseSpans s.part s.ctl)
      [ringSpan s.part s.ctl (owner s.part s.ctl .queue x.arm.queue)] s t

/-- The invariant of every step: memory is in canonical form and no effect waits. -/
def Inv (s : State) : Prop := Memory.wf s.mems = true ∧ s.ctl.posted = []

end Sys2Proof.Machine
end

