-- ==== Sys2Proof/Certificates/Slice0/Obligations.lean ====
section
/-! DEFINITION. The statements of this model: what each command does, what it leaves alone, and what holds of
every step. -/

open Sys2Proof Sys2Proof.Machine

/-! ## Steps -/

/-- O1. A step takes the command at the front of the queue and runs it on the state with the queue's rest
(the block's counterpart of fetching: commands are taken first in, first out). -/
def Obligations.StepTakesFrontCommand : Prop :=
  ∀ (c : Instr) (s : State) (rest : List Instr), s.pending = c :: rest →
    step s = exec c { s with pending := rest }

/-- O2. No step of the device ends in a fault or a refusal: the spec gives every command an effect (95). A step
never changes what is fixed at manufacture (00 R6), and takes exactly the front command from the queue of waiting
commands. -/
def Obligations.EveryStepAnswersNext : Prop :=
  ∀ s : State, ∃ t, step s = .next t ∧ t.part = s.part ∧ t.pending = s.pending.tail

/-- O3. On an empty queue one TCLK cycle passes (09 R259, R260; the tick on an empty queue is the model's
choice, log 24): after the cold start, where no transition of the time state is due (09 R272), the full fusion time, in
2^-48 ns, grows by the increment in force modulo its range, and nothing else changes; before it nothing changes at all. -/
def Obligations.IdleStepAdvancesFusionTime : Prop :=
  ∀ s : State, s.pending = [] →
    (s.ctl.boot.started = true → timeMove s.part (modTime (fun t => advance (increment t) t) s.ctl.fresh) = none) →
    ∃ t, step s = .next t ∧
      t.mems = s.mems ∧ Touches [.time] noEntry [] [] s t ∧ t.ctl.out = [] ∧
      (s.ctl.boot.started = false → t.ctl.time = s.ctl.time) ∧
      (s.ctl.boot.started = true →
        (fullTime t.ctl.time * 2 ^ 32 + t.ctl.time.frac) % 2 ^ 128 =
          (fullTime s.ctl.time * 2 ^ 32 + s.ctl.time.frac + increment s.ctl.time) % 2 ^ 128 ∧
        t.ctl.time.frac < 2 ^ 32 ∧ t.ctl.time.value < 2 ^ 64 ∧ t.ctl.time.epoch < 2 ^ 32)

/-- O4. The state at power-up meets the invariant of O5. -/
def Obligations.ResetMeetsInvariant : Prop := Inv State.reset

/-- O5. Every step keeps memory in its canonical form (addresses strictly rising, nothing listed that an
unlisted address would read as) and leaves no memory effect waiting. -/
def Obligations.StepKeepsInvariant : Prop :=
  ∀ s t : State, Memory.wf s.mems = true → step s = .next t → Inv t

/-- O6. No step undoes what the fuses record (17 R489-R491, R501, 14 R400): the rollback level never falls, a
revoked key stays revoked, the counts left never rise, and no record of the fuse log is lost. -/
def Obligations.FusesOnlyGrow : Prop :=
  ∀ s t : State, step s = .next t → FusesGrow s.fuses t.fuses

/-- O7. Only a dictionary write to an OTL entry programs fuses (00 R13): every other command leaves them. -/
def Obligations.OnlyDictionaryWritesProgramFuses : Prop :=
  ∀ (c : Instr) (s t : State), programsFuses c = false → exec c s = .next t → t.fuses = s.fuses

/-- O8. The state at power-up as the rules give it: SafetyState NOT_READY (14 R431), STAGE BOOTING with ERROR 0
(17 R482), every queue DISABLED with its indices 0 (10 R288), every sync object 0 (10 R295), every FIFO empty
(10 R305), both banks of every block FREE (03 R98), every sequence entry FREE (06 R175), every stream IDLE
(08 R231), fusion time 0 and unsynchronised (09 R265), no fault record (15 R434), FaultCount 0. -/
def Obligations.ResetStateFollowsTheRules : Prop :=
  State.reset.ctl.safety.mode = .notReady ∧ State.reset.ctl.boot.stage = .booting ∧ State.reset.ctl.boot.error = 0 ∧
  (∀ q, (getQ State.reset.ctl q).state = .disabled ∧ (getQ State.reset.ctl q).head = 0 ∧
    (getQ State.reset.ctl q).tail = 0 ∧ (getQ State.reset.ctl q).retired = 0) ∧
  (∀ n, getSync State.reset.ctl n = 0) ∧
  (∀ n, (getFifo State.reset.ctl n).words = [] ∧ (getFifo State.reset.ctl n).overrun = false) ∧
  (∀ b, (getB State.reset.ctl b).bank0.state = .free ∧ (getB State.reset.ctl b).bank1.state = .free) ∧
  (∀ n, (getSeq State.reset.ctl n).state = .free) ∧
  (∀ n, (look {} n State.reset.ctl.img).state = .idle ∧ (look {} n State.reset.ctl.vd).state = .idle ∧
    (look {} n State.reset.ctl.pts).state = .idle) ∧
  State.reset.ctl.time.value = 0 ∧ State.reset.ctl.time.epoch = 0 ∧ State.reset.ctl.faults.log = []
/-! ## Queues (10) -/

/-- O9. Accepted doorbell writes (10 R289) act on the queue they name and on no other. TAIL sets TAIL; ENABLE
reads the context from the queue table, sets HEAD = RETIRED = 0 and TAIL, and enables; DISABLE drops what is
read but not dispatched and leaves the queue DRAINING, or DISABLED with HEAD = RETIRED when nothing dispatched
is left; contexts that are idle then are freed (11 R330). Besides, the write is recorded as an input. -/
def Obligations.AcceptedDoorbellsActOnTheirQueue : Prop :=
  ∀ (s : State) (fn slot tail q : Nat), s.ctl.boot.cfgReady = true → serving s.ctl = true →
    slotOf s.part s.ctl fn .queue slot = some q →
    ((getQ s.ctl q).state = .enabled → tailOk (getQ s.ctl q) (tail % 65536) = true →
      ∃ t, exec (.doorbellTail fn slot tail) s = .next t ∧
        getQ t.ctl q = { getQ s.ctl q with tail := tail % 65536, refusedReported := false } ∧
        (∀ n, n ≠ q → getQ t.ctl n = getQ s.ctl n) ∧
        Touches (.queues :: inputPieces) inputEntry (journalSpans s.part s.ctl) [ringSpan s.part s.ctl 0] s t) ∧
    ((getQ s.ctl q).state = .disabled → (readCtx s.view s.ctl q).2 = true →
      ctxOk s.part s.ctl q (readCtx s.view s.ctl q).1 = true →
      tail % 65536 ≤ 2 ^ (readCtx s.view s.ctl q).1.depthLog2 →
      ∃ t, exec (.doorbellEnable fn slot tail) s = .next t ∧
        getQ t.ctl q = { state := .enabled, tail := tail % 65536, head := 0, retired := 0, ctx := (readCtx s.view s.ctl q).1,
                         layer := (getQ s.ctl q).layer } ∧
        (∀ n, n ≠ q → getQ t.ctl n = getQ s.ctl n) ∧
        Touches (.queues :: inputPieces) inputEntry (journalSpans s.part s.ctl) [ringSpan s.part s.ctl 0] s t) ∧
    ((getQ s.ctl q).state = .enabled →
      ∃ t, exec (.doorbellDisable fn slot tail false) s = .next t ∧
        (getQ t.ctl q).cmds = (getQ s.ctl q).cmds.filter (fun m => decide (m.stage ≠ .read) || decide (m.status ≠ 0)) ∧
        ((getQ t.ctl q).cmds = [] → (getQ t.ctl q).state = .disabled ∧ (getQ t.ctl q).head = (getQ s.ctl q).retired) ∧
        ((getQ t.ctl q).cmds ≠ [] → (getQ t.ctl q).state = .draining) ∧
        (getQ t.ctl q).retired = (getQ s.ctl q).retired ∧ (getQ t.ctl q).refusedReported = false ∧
        (∀ n, n ≠ q → getQ t.ctl n = getQ s.ctl n) ∧
        Touches ([.queues, .sched] ++ inputPieces) (fun i k => inputEntry i k ∨ (0x4000 ≤ i ∧ k = 0xD))
          (journalSpans s.part s.ctl) [ringSpan s.part s.ctl 0] s t)

/-- O10. Refused doorbell writes (10 R290): a TAIL or DISABLE on a queue that is not ENABLED, a TAIL outside the
bound, an ENABLE on a queue that is not DISABLED, whose context fails its checks or whose TAIL is beyond the depth, and
the reserved OP 3 in any state. With the journal off, the write changes nothing of any queue but that the refusal is noted
as reported, RefusedDoorbells of the device and of the function grow by one and saturate, and so does Refusals of the
queue's client. -/
def Obligations.RefusedDoorbellsChangeNoQueue : Prop :=
  ∀ (s : State) (i : Instr) (fn slot tail q : Nat), s.ctl.boot.cfgReady = true → serving s.ctl = true →
    odVal s.part s.ctl 0x2310 1 = 0 → (getQ s.ctl q).ctx.client < 256 → slotOf s.part s.ctl fn .queue slot = some q →
    ((i = .doorbellTail fn slot tail ∧
        ((getQ s.ctl q).state ≠ .enabled ∨ tailOk (getQ s.ctl q) (tail % 65536) = false)) ∨
      (i = .doorbellEnable fn slot tail ∧
        ((getQ s.ctl q).state ≠ .disabled ∨ (readCtx s.view s.ctl q).2 = false ∨
          ctxOk s.part s.ctl q (readCtx s.view s.ctl q).1 = false ∨
          2 ^ (readCtx s.view s.ctl q).1.depthLog2 < tail % 65536)) ∨
      (i = .doorbellDisable fn slot tail false ∧ (getQ s.ctl q).state ≠ .enabled) ∨ i = .doorbellDisable fn slot tail true) →
    ∃ t, exec i s = .next t ∧
      (∀ n, { getQ t.ctl n with refusedReported := (getQ s.ctl n).refusedReported } = getQ s.ctl n) ∧
      (getQ t.ctl q).refusedReported = true ∧
      odVal s.part t.ctl 0x2401 4 = satN 64 (odVal s.part s.ctl 0x2401 4 + 1) ∧
      odVal s.part t.ctl (0x2410 + fn) 0xF = satN 64 (odVal s.part s.ctl (0x2410 + fn) 0xF + 1) ∧
      odVal s.part t.ctl (0x4000 + (getQ s.ctl q).ctx.client) 0xC =
        satN 32 (odVal s.part s.ctl (0x4000 + (getQ s.ctl q).ctx.client) 0xC + 1) ∧
      Touches [.od, .queues, .links]
        (fun x k => (x = 0x2401 ∧ k = 4) ∨ (x = 0x2410 + fn ∧ k = 0xF) ∨
          (x = 0x4000 + (getQ s.ctl q).ctx.client ∧ k = 0xC) ∨
          messageEntry (owner s.part s.ctl .queue q) x k)
        [] [ringSpan s.part s.ctl (owner s.part s.ctl .queue q)] s t

/-- O11. The front end fetches (10 R286, R288): the command at HEAD of an ENABLED queue joins the queue's commands
as the 64 bytes of its ring slot, in service or before dispatch stops, with at most 8 read ahead. HEAD moves on
modulo 65,536 and nothing else of the queue moves. A poisoned slot gives a command that is never dispatched, and MECH 9 of
the front end. -/
def Obligations.FetchReadsTheNextRingSlot : Prop :=
  ∀ (s : State) (q a : Nat), dispatching s.ctl = true → (getQ s.ctl q).state = .enabled →
    (getQ s.ctl q).stopped = false → (getQ s.ctl q).head ≠ (getQ s.ctl q).tail → ahead (getQ s.ctl q) < 8 →
    (getQ s.ctl q).cmds.any Cmd.poisoned = false →
    a = 64 * (getQ s.ctl q).ctx.ringAddr + 64 * ((getQ s.ctl q).head % 2 ^ (getQ s.ctl q).ctx.depthLog2) →
    (((getQ s.ctl q).ctx.ringHost = true ∨ poisonedIn s.mems a 64 = false) →
    ∃ t, exec (.commandFetch q) s = .next t ∧
      (getQ t.ctl q).cmds.map (fun m => (m.idx, m.desc, m.stage, m.status)) =
        (getQ s.ctl q).cmds.map (fun m => (m.idx, m.desc, m.stage, m.status)) ++
          [((getQ s.ctl q).head,
            BitVec.ofNat 512 (ofLE (if (getQ s.ctl q).ctx.ringHost then hostBytes s.mems a 64 else devBytes s.mems a 64)),
            .read, 0)] ∧
      (getQ t.ctl q).head = ((getQ s.ctl q).head + 1) % 65536 ∧ (getQ t.ctl q).tail = (getQ s.ctl q).tail ∧
      (getQ t.ctl q).retired = (getQ s.ctl q).retired ∧ (getQ t.ctl q).state = .enabled ∧
      (∀ n, n ≠ q → getQ t.ctl n = getQ s.ctl n) ∧
      Touches [.free, .od, .queues, .sched] (fun i k => 0x4000 ≤ i ∧ k = 0xE) [] [] s t) ∧
    ((getQ s.ctl q).ctx.ringHost = false → poisonedIn s.mems a 64 = true →
    ∃ t, exec (.commandFetch q) s = .next t ∧
      (getQ t.ctl q).cmds.map (fun m => (m.idx, m.stage, m.poisoned)) =
        (getQ s.ctl q).cmds.map (fun m => (m.idx, m.stage, m.poisoned)) ++ [((getQ s.ctl q).head, .stopped, true)] ∧
      (∃ x ∈ t.ctl.faults.inbox, x.mech = 9 ∧ x.unit = 0x30 ∧ x.addr = a ∧ x.halts = [⟨q, (getQ s.ctl q).head⟩]) ∧
      (getQ t.ctl q).head = ((getQ s.ctl q).head + 1) % 65536 ∧ (∀ n, n ≠ q → getQ t.ctl n = getQ s.ctl n) ∧
      Touches [.queues, .faults] noEntry [] [] s t)

/-- O12. The front end dispatches (10 R286, R293, 11 R318, R322, R330): a command at the head of dispatch whose waits are
satisfied and whose checks pass, of the client that its unit runs or takes now, is handed over with the step of its
client latched; CmdDispatched counts it. For a block, its client has or gets a context on the isle, and its window is in
place. -/
def Obligations.DispatchHandsTheCommandOver : Prop :=
  ∀ (s : State) (q cl : Nat) (m : Cmd) (d : Desc) (c1 c2 : Ctl), q < 65536 → dispatchable s.part s.ctl q = some m → m.desc = d →
    dispatching s.ctl = true → frontCheck s.part s.ctl q d = none → domainWaits s.part s.ctl d = false →
    ((getQ s.ctl q).ctx.cls = 0 → dClass d = 7 → dOp d = 0 → m.parents ++ (getQ s.ctl q).spec = []) →
    (isExport s.part s.ctl d = true → m.parents ++ (getQ s.ctl q).spec ++ m.exportOn = []) →
    s.ctl.boot.testActive = false → cl = (getQ s.ctl q).ctx.client →
    (match isleOf d with
      | some i => loadContext s.part i cl s.ctl.fresh
      | none => some s.ctl.fresh) = some c1 →
    takeUnit s.part c1 d cl = some c2 → servedFirst s.part c2 q m = true →
    (∀ i, isleOf d = some i → blockStopped c2 (dTarget d) = false ∧ evicting c2 i = false ∧ windowReady c2 cl (dTarget d) = true) →
    ∃ t, exec (.commandDispatch q) s = .next t ∧
      (∃ x, findCmd t.ctl ⟨q, m.idx⟩ = some x ∧ x.stage = .dispatched ∧ x.order = s.ctl.sched.orders ∧
        x.step = odVal s.part s.ctl (0x4000 + cl) 0x11) ∧
      t.ctl.sched.orders = s.ctl.sched.orders + 1 ∧
      odVal s.part t.ctl 0x2401 2 = satN 64 (odVal s.part s.ctl 0x2401 2 + 1) ∧
      (getQ t.ctl q).head = (getQ s.ctl q).head ∧ (getQ t.ctl q).retired = (getQ s.ctl q).retired ∧
      (∀ n, n < 65536 → n ≠ q → getQ t.ctl n = getQ s.ctl n) ∧
      Touches [.free, .od, .queues, .sched, .faults]
        (fun x k => (x = 0x2401 ∧ k = 2) ∨ (0x4000 ≤ x ∧ (k = 9 ∨ k = 0xD ∨ k = 0xE ∨ k = 0xF)) ∨
          (x = 0x2400 ∧ (k = 4 ∨ k = 6))) [] [] s t

/-- O13. An executed command is done (10 R297): with nothing owed, that is no parent that it is speculative on, no
export dependence and no signature outstanding, it is committed in the same step. Its done signal, when it has
one and nothing defers it, adds 1 to its sync object, which saturates (10 R303); no other sync object changes, where no
other command's signal waits. -/
def Obligations.DoneCommandsCommitAndSignal : Prop :=
  ∀ (s : State) (r : Ref) (m : Cmd), findCmd s.ctl r = some m → m.stage = .executed → m.status = 0 → m.redo = none →
    m.committed = false →
    ∃ t, exec (.commandDone r) s = .next t ∧ DoneAs t r m ∧
      (NoDeferred s → Prompt s m →
        ∀ n, getSync t.ctl n = if signalsNow m n = 1 then min (getSync s.ctl n + 1) (2 ^ 64 - 1) else getSync s.ctl n) ∧
      Touches settlePieces settleEntry (looseSpans s.part s.ctl) [] s t

/-- O14. The oldest command of a queue retires once it is committed or has a status (10 R299, R302): RETIRED
moves past it, and its completion record, with PHASE of the pass, STATUS, DETAIL, CYCLES and the time, stands in
the completion ring's slot of its index. A signal at commit adds 1 to its sync object. -/
def Obligations.RetirementWritesTheCompletionRecord : Prop :=
  ∀ (s : State) (q a : Nat) (m : Cmd) (rest : List Cmd), Memory.wf s.mems = true → (getQ s.ctl q).cmds = m :: rest →
    mayRetire (getQ s.ctl q) = true → (∀ x ∈ m :: rest, x.redo = none) → m.disables = false → m.poisoned = false →
    a = 64 * (getQ s.ctl q).ctx.cplAddr + 16 * (m.idx % 2 ^ (getQ s.ctl q).ctx.depthLog2) →
    ∃ t, exec (.commandRetire q) s = .next t ∧
      (getQ t.ctl q).retired = (m.idx + 1) % 65536 ∧ (getQ t.ctl q).cmds.map Cmd.idx = rest.map Cmd.idx ∧
      (NoDeferred s → ∀ n, getSync t.ctl n =
        if m.status = 0 ∧ signalsCommit m.desc = true ∧ fld m.desc 32 15 = n then min (getSync s.ctl n + 1) (2 ^ 64 - 1)
        else getSync s.ctl n) ∧
      ((getQ s.ctl q).ctx.cplHost = false → (∀ k, k < 16 → outside (looseSpans s.part s.ctl) (a + k)) →
        devBytes t.mems a 16 = cplRecord (cplPhase (getQ s.ctl q).ctx.depthLog2 m.idx) m.status m.detail m.cycles (now s.ctl)) ∧
      ((getQ s.ctl q).ctx.cplHost = true →
        (∀ k, k < 16 → outside [ringSpan s.part s.ctl (owner s.part s.ctl .queue q)] (a + k)) →
        hostBytes t.mems a 16 = cplRecord (cplPhase (getQ s.ctl q).ctx.depthLog2 m.idx) m.status m.detail m.cycles (now s.ctl)) ∧
      Touches ([.links, .faults] ++ settlePieces)
        (fun x k => settleEntry x k ∨ messageEntry (owner s.part s.ctl .queue q) x k ∨ (x = 0x2700 ∧ k = 0xE))
        ((a, 16) :: looseSpans s.part s.ctl) [(a, 16), ringSpan s.part s.ctl (owner s.part s.ctl .queue q)] s t

/-! ## Queue-control commands, sync objects and message FIFOs (10) -/

/-- O15. Queue-control commands are done in the cycle in which they execute (10 R298), and committed with it when they owe
nothing; their done signal is added: QC.NOP and QC.WAIT do no more; QC.SIGNAL adds each of its 1 to 4 values to its sync
object, saturating, and to no other; QC.FIFO_PUT appends its words to a FIFO whose writer agent is queues, the END tag on
the last word alone, and ends INVALID with DETAIL 6 for another FIFO; QC.TIMESTAMP writes the fusion-time value and, 8
bytes on, the epoch, to device memory, and ends INVALID with DETAIL 5 outside it. -/
def Obligations.QueueControlCommandsAct : Prop :=
  ∀ (s : State) (r : Ref) (m : Cmd),
    (Turn s r 7 0 m → ∃ t, exec (.qcNop r) s = .next t ∧ (getQ t.ctl r.q).marked = true ∧ DoneAs t r m ∧
      Touches settlePieces settleEntry (looseSpans s.part s.ctl) [] s t) ∧
    (Turn s r 7 1 m → ∃ t, exec (.qcWait r) s = .next t ∧ DoneAs t r m ∧
      Touches settlePieces settleEntry (looseSpans s.part s.ctl) [] s t) ∧
    (Turn s r 7 2 m → ∃ t, exec (.qcSignal r) s = .next t ∧ DoneAs t r m ∧
      (NoDeferred s → Prompt s m → ∀ n, getSync t.ctl n =
        if (∃ k ≤ fld m.desc 384 2, fld m.desc (16 * k + 64) 15 = n) ∨ signalsNow m n = 1 then
          min (getSync s.ctl n + addedTo m.desc n + signalsNow m n) (2 ^ 64 - 1)
        else getSync s.ctl n) ∧
      Touches settlePieces settleEntry (looseSpans s.part s.ctl) [] s t) ∧
    (∀ f n, Turn s r 7 3 m → f = fld m.desc 64 10 → n = clampN 1 5 (fld m.desc 74 3) →
      ((fifoAgents s.part s.ctl f).1 = 2 → (getFifo s.ctl f).words.length + n ≤ 64 →
        ∃ t, exec (.qcFifoPut r) s = .next t ∧ DoneAs t r m ∧
          getFifo t.ctl f = { getFifo s.ctl f with
            words := (getFifo s.ctl f).words ++ tab n fun k =>
              (BitVec.ofNat 64 (fld m.desc (64 * k + 128) 64), decide (k + 1 = n) && decide (fld m.desc 77 1 = 1)) } ∧
          (∀ k, k ≠ f → getFifo t.ctl k = getFifo s.ctl k) ∧
          Touches (.fifos :: settlePieces) (fun x k => settleEntry x k ∨ (x = 0x2401 ∧ k = 3))
            (looseSpans s.part s.ctl) [] s t) ∧
      ((fifoAgents s.part s.ctl f).1 ≠ 2 → ∃ t, exec (.qcFifoPut r) s = .next t ∧ EndedWith t r 1 6 ∧
        Touches settlePieces settleEntry (looseSpans s.part s.ctl) [] s t)) ∧
    (∀ a, Turn s r 7 4 m → a = 64 * fld m.desc 64 48 →
      (inDevice s.part s.ctl a 12 = true → spanOff m.off (a, 12) = false → Memory.wf s.mems = true →
        (∀ k, k < 12 → outside (looseSpans s.part s.ctl) (a + k)) →
        ∃ t, exec (.qcTimestamp r) s = .next t ∧ DoneAs t r m ∧
          devBytes t.mems a 12 = leBytes 8 s.ctl.time.value ++ leBytes 4 s.ctl.time.epoch ∧
          Touches settlePieces settleEntry ((a, 12) :: looseSpans s.part s.ctl) [] s t) ∧
      (inDevice s.part s.ctl a 12 = false → ∃ t, exec (.qcTimestamp r) s = .next t ∧ EndedWith t r 1 5 ∧
        Touches settlePieces settleEntry (looseSpans s.part s.ctl) [] s t))

/-- O16. Host writes of sync objects (10 R295), where no deferred done signal of an unretired command waits:
SET makes the counter the value written; ADD adds it, saturating at 2^64 - 1. No other object changes. -/
def Obligations.SyncWritesSetAndAdd : Prop :=
  ∀ (s : State) (fn slot x : Nat) (v : Word64), slotOf s.part s.ctl fn .sync slot = some x →
    regionsServed s.ctl = true → NoDeferred s →
    (∃ t, exec (.syncSet fn slot v) s = .next t ∧ getSync t.ctl x = v.toNat ∧
      (∀ y, y ≠ x → getSync t.ctl y = getSync s.ctl y) ∧
      Touches settlePieces settleEntry (looseSpans s.part s.ctl) [] s t) ∧
    (∃ t, exec (.syncAdd fn slot v) s = .next t ∧ getSync t.ctl x = min (getSync s.ctl x + v.toNat) (2 ^ 64 - 1) ∧
      (∀ y, y ≠ x → getSync t.ctl y = getSync s.ctl y) ∧
      Touches settlePieces settleEntry (looseSpans s.part s.ctl) [] s t)

/-- O17. The host agent's accesses to a message FIFO that its function owns (10 R304-R308): a write appends one
word with its END tag while fewer than 64 are held, a full FIFO drops the word and sets OVERRUN; a read pops the
oldest word, returns it and latches its tag, and of an empty FIFO returns VALID 0 and pops nothing; FLUSH
empties it; CLEAR_OVERRUN clears OVERRUN. -/
def Obligations.FifoAccessesByTheHostAgent : Prop :=
  ∀ (s : State) (fn slot x : Nat) (w : Word64), slotOf s.part s.ctl fn .fifo slot = some x →
    regionsServed s.ctl = true → owner s.part s.ctl .fifo x = fn →
    (∀ b : Bool, (fifoAgents s.part s.ctl x).1 = 1 →
      ∃ t, exec (if b then .fifoWriteEnd fn slot w else .fifoWrite fn slot w) s = .next t ∧
        ((getFifo s.ctl x).words.length < 64 →
          getFifo t.ctl x = { getFifo s.ctl x with words := (getFifo s.ctl x).words ++ [(w, b)] } ∧
          Touches [.fifos] noEntry [] [] s t) ∧
        (64 ≤ (getFifo s.ctl x).words.length → getFifo t.ctl x = { getFifo s.ctl x with overrun := true } ∧
          Touches [.fifos, .od, .links] (messageEntry fn) [] [ringSpan s.part s.ctl fn] s t) ∧
        (∀ n, n ≠ x → getFifo t.ctl n = getFifo s.ctl n)) ∧
    ((fifoAgents s.part s.ctl x).2 = 1 →
      (∀ e rest, (getFifo s.ctl x).words = (w, e) :: rest → ∃ t, exec (.fifoRead fn slot) s = .next t ∧
        getFifo t.ctl x = { getFifo s.ctl x with words := rest, tag := 1 + 2 * b2n e } ∧
        (∀ n, n ≠ x → getFifo t.ctl n = getFifo s.ctl n) ∧
        t.ctl.out = [.fifoWord w true e] ∧ Touches [.fifos] noEntry [] [] s t) ∧
      ((getFifo s.ctl x).words = [] → ∃ t, exec (.fifoRead fn slot) s = .next t ∧
        getFifo t.ctl x = { getFifo s.ctl x with tag := 0 } ∧
        (∀ n, n ≠ x → getFifo t.ctl n = getFifo s.ctl n) ∧
        t.ctl.out = [.fifoWord 0 false false] ∧ Touches [.fifos] noEntry [] [] s t)) ∧
    (∃ t, exec (.fifoFlush fn slot) s = .next t ∧ getFifo t.ctl x = { getFifo s.ctl x with words := [] } ∧
      (∀ n, n ≠ x → getFifo t.ctl n = getFifo s.ctl n) ∧ t.ctl.out = [] ∧ Touches [.fifos] noEntry [] [] s t) ∧
    (∃ t, exec (.fifoClearOverrun fn slot) s = .next t ∧
      getFifo t.ctl x = { getFifo s.ctl x with overrun := false } ∧
      (∀ n, n ≠ x → getFifo t.ctl n = getFifo s.ctl n) ∧ t.ctl.out = [] ∧ Touches [.fifos] noEntry [] [] s t)
/-! ## The object dictionary (18) -/

/-- O18. A mailbox read (18 R508, R513, 16 R461) answers the entry's value in DATA with STATUS done and its
length, one 64-byte block of a value longer than 64 bytes, or an abort code; nothing but the mailbox changes.
A read of FusionTimeNow also latches the epoch for its path (09 R264). -/
def Obligations.ReadsAnswerOnTheirLink : Prop :=
  ∀ (s : State) (fn : Nat), reachable s.ctl (.mailbox fn) = true →
    (∀ idx sub blk bs, ¬ (idx = 0x2200 ∧ sub = 1) → readAnswer s.view s.ctl (.mailbox fn) idx sub = .value bs →
      ∃ t d, exec (.odRead (.mailbox fn) idx sub blk) s = .next t ∧
        d = (if bs.length ≤ 64 then bs else (bs.drop (64 * blk)).take 64) ∧
        getFn t.ctl fn = { getFn s.ctl fn with mailStatus := 2 + 256 * d.length, mailData := d } ∧
        t.ctl.out = [.od (.mailbox fn) (.value d)] ∧ Touches [.links] noEntry [] [] s t) ∧
    (∀ idx sub blk code, readAnswer s.view s.ctl (.mailbox fn) idx sub = .abort code →
      ∃ t, exec (.odRead (.mailbox fn) idx sub blk) s = .next t ∧
        getFn t.ctl fn = { getFn s.ctl fn with mailStatus := 3 + 2 ^ 32 * code } ∧
        t.ctl.out = [.od (.mailbox fn) (.abort code)] ∧ Touches [.links] noEntry [] [] s t) ∧
    (pastBoot s.ctl = true →
      ∃ t, exec (.fusionTimeNowRead (.mailbox fn)) s = .next t ∧
        t.ctl.out = [.od (.mailbox fn) (.value (leBytes 8 s.ctl.time.value))] ∧
        look 0 (pathKey (.mailbox fn)) t.ctl.time.latched = s.ctl.time.epoch ∧
        { t.ctl.time with latched := s.ctl.time.latched } = s.ctl.time ∧
        Touches [.links, .time] noEntry [] [] s t)

/-- O19. An accepted write of a plain entry stores the number offered, clamped as 18 R511 says, and changes no
other entry but those of the record of the input; the answer says that it is done. A write of a client's Share does
so too, and the Share in force on each unit is still the old one until its next kernel boundary (11 R340). Where the write
moves the message ring of function 0, the statement is about a write that is not recorded. -/
def Obligations.WritesStoreClampedNumbers : Prop :=
  ∀ (s : State) (idx sub : Nat) (w : OdW), Accepted s idx sub w → sub < 256 →
    (plainEntry idx sub = true → (idx = 0x2410 → sub = 9 → odVal s.part s.ctl 0x2310 1 = 0) →
      ∃ t, exec (.odWrite idx sub w) s = .next t ∧
        odVal s.part t.ctl idx sub = odClamp (boundOf s.part s.ctl) idx sub (offered idx sub w) ∧
        (w.path ≠ .monitor → .od w.path .done ∈ t.ctl.out) ∧
        TouchesInput [] (entries [(idx, sub)]) [] [] s t) ∧
    (∀ cl, cl < 256 → idx = 0x4000 + cl → sub = 1 →
      ∃ t, exec (.odWrite idx sub w) s = .next t ∧
        odVal s.part t.ctl idx sub = odClamp (boundOf s.part s.ctl) idx sub (offered idx sub w) ∧
        (∀ u ∈ scheduledUnits, shareOn s.part t.ctl u cl = shareOn s.part s.ctl u cl) ∧
        (w.path ≠ .monitor → .od w.path .done ∈ t.ctl.out) ∧
        TouchesInput [.sched] (entries [(idx, sub)]) [] [] s t)

/-- O20. Flag entries clear where 1 is written (02 R83, 07 R230): each bit of ArithEventFlags and of SgEventFlags
stays set only where the write has 0, and no other entry changes but those of the record of the input. -/
def Obligations.FlagWritesClearWhereOne : Prop :=
  ∀ (s : State) (w : OdW),
    (Accepted s 0x2B00 2 w → ∃ t, exec (.arithEventFlagsWrite w) s = .next t ∧
      (∀ k, (odVal s.part t.ctl 0x2B00 2).testBit k =
        ((odVal s.part s.ctl 0x2B00 2).testBit k && !(offered 0x2B00 2 w).testBit k)) ∧
      TouchesInput [] (entries [(0x2B00, 2)]) [] [] s t) ∧
    (Accepted s 0x2B80 1 w → ∃ t, exec (.sgEventFlagsWrite w) s = .next t ∧
      (∀ k, (odVal s.part t.ctl 0x2B80 1).testBit k =
        ((odVal s.part s.ctl 0x2B80 1).testBit k && !(offered 0x2B80 1 w).testBit k)) ∧
      TouchesInput [] (entries [(0x2B80, 1)]) [] [] s t)

/-- O21. Message rings and the journal (10 R317, 08 R257): a write of MsgRingDepth restarts MsgHead, MsgTail and
SERIAL and stores the depth as a power of two from 64 to 65,536, or 0 (for function 0, of a write that is not recorded, since
the record may send a message); a write of MsgHead within the records
between head and tail is taken, one ahead of MsgTail stops at MsgTail; a write of JournalReadIndex clamps to
JournalWriteIndex. -/
def Obligations.RingWritesMoveTheIndices : Prop :=
  ∀ (s : State) (w : OdW),
    (∀ n, n ≤ 16 → Accepted s (0x2410 + n) 0xA w → (n ≠ 0 ∨ odVal s.part s.ctl 0x2310 1 = 0) →
      ∃ t, exec (.msgRingDepthWrite n w) s = .next t ∧
      odVal s.part t.ctl (0x2410 + n) 0xA =
        (if offered (0x2410 + n) 0xA w = 0 then 0 else if offered (0x2410 + n) 0xA w < 64 then 64
         else if offered (0x2410 + n) 0xA w > 65536 then 65536 else 2 ^ Nat.log2 (offered (0x2410 + n) 0xA w)) ∧
      odVal s.part t.ctl (0x2410 + n) 0xC = 0 ∧ odVal s.part t.ctl (0x2410 + n) 0xD = 0 ∧
      (w.path ≠ .mailbox n → getFn t.ctl n = { getFn s.ctl n with serial := 0 }) ∧
      TouchesInput [] (entries [(0x2410 + n, 0xA), (0x2410 + n, 0xC), (0x2410 + n, 0xD)]) [] [] s t) ∧
    (∀ n head tail v, n ≤ 16 → Accepted s (0x2410 + n) 0xC w → head = odVal s.part s.ctl (0x2410 + n) 0xC →
      tail = odVal s.part s.ctl (0x2410 + n) 0xD → v = offered (0x2410 + n) 0xC w →
      ∃ t, exec (.msgHeadWrite n w) s = .next t ∧
        ((v + 2 ^ 32 - head) % 2 ^ 32 ≤ (tail + 2 ^ 32 - head) % 2 ^ 32 → odVal s.part t.ctl (0x2410 + n) 0xC = v) ∧
        ((tail + 2 ^ 32 - head) % 2 ^ 32 < (v + 2 ^ 32 - head) % 2 ^ 32 → (v + 2 ^ 32 - head) % 2 ^ 32 < 2 ^ 31 →
          odVal s.part t.ctl (0x2410 + n) 0xC = tail) ∧
        ((tail + 2 ^ 32 - head) % 2 ^ 32 < (v + 2 ^ 32 - head) % 2 ^ 32 → 2 ^ 31 ≤ (v + 2 ^ 32 - head) % 2 ^ 32 →
          odVal s.part t.ctl (0x2410 + n) 0xC = head) ∧
        TouchesInput [] (entries [(0x2410 + n, 0xC)]) [] [] s t) ∧
    (Accepted s 0x2310 7 w → ∃ t, exec (.journalReadIndexWrite w) s = .next t ∧
      odVal s.part t.ctl 0x2310 7 = min (offered 0x2310 7 w) (odVal s.part t.ctl 0x2310 6) ∧
      TouchesInput [] (entries [(0x2310, 7)]) [] [] s t)

/-- O22. Tasks (11 R333, R334): TaskEnable from 0 to 1 starts monitoring with DoneSync recorded; a write of 0 ends it; a
write of 1 over 1 changes nothing; TaskTier is stored below TaskTiers, and a new one of an enabled task resets the
consecutive misses and mets and is announced. -/
def Obligations.TaskWritesStartAndRetier : Prop :=
  ∀ (s : State) (n : Nat) (w : OdW), n < 64 →
    (Accepted s (0x2440 + n) 2 w → ∃ t, exec (.taskEnableWrite n w) s = .next t ∧
      odVal s.part t.ctl (0x2440 + n) 2 = min 1 (offered (0x2440 + n) 2 w) ∧
      (offered (0x2440 + n) 2 w = 0 → getTask t.ctl n = {}) ∧
      (offered (0x2440 + n) 2 w ≠ 0 → odVal s.part s.ctl (0x2440 + n) 2 = 0 →
        getTask t.ctl n = { s0 := getSync s.ctl (effVal s.part s.ctl (0x2440 + n) 3),
                            tierNow := odVal s.part s.ctl (0x2440 + n) 0xA }) ∧
      (offered (0x2440 + n) 2 w ≠ 0 → odVal s.part s.ctl (0x2440 + n) 2 ≠ 0 → getTask t.ctl n = getTask s.ctl n) ∧
      (∀ k, k ≠ n → getTask t.ctl k = getTask s.ctl k) ∧
      TouchesInput [.sched] (entries [(0x2440 + n, 2)]) [] [] s t) ∧
    (∀ new fn, Accepted s (0x2440 + n) 0xA w →
      new = min (offered (0x2440 + n) 0xA w) (odVal s.part s.ctl (0x2440 + n) 7 - 1) →
      fn = owner s.part s.ctl .client (effVal s.part s.ctl (0x2440 + n) 1) →
      ∃ t, exec (.taskTierWrite n w) s = .next t ∧ odVal s.part t.ctl (0x2440 + n) 0xA = new ∧
        getTask t.ctl n = (if new ≠ odVal s.part s.ctl (0x2440 + n) 0xA ∧ odVal s.part s.ctl (0x2440 + n) 2 = 1 then
          { getTask s.ctl n with misses := 0, mets := 0 } else getTask s.ctl n) ∧
        (∀ k, k ≠ n → getTask t.ctl k = getTask s.ctl k) ∧
        TouchesInput [.sched] (fun i k => (i = 0x2440 + n ∧ k = 0xA) ∨ messageEntry fn i k) []
          [ringSpan s.part s.ctl fn] s t)

/-- O23. Programming fuses (17 R489, R490, 14 R400, 00 R13), when the read-back succeeds: RollbackLevel rises to the
value written, at most the running image's SVN; KeyRevoked gains the low four bits written; SplitMode becomes 0 or
1. Each step of change takes one count and one record of the fuse log. -/
def Obligations.FuseWritesProgramTheFuses : Prop :=
  ∀ (s : State) (w : OdW),
    (Accepted s 0x2A00 0xD w → ∃ t, exec (.rollbackLevelWrite w true) s = .next t ∧
      t.fuses.rollback = max s.fuses.rollback (min (offered 0x2A00 0xD w) s.ctl.boot.svn) ∧
      t.fuses.rollbackLeft + (t.fuses.rollback - s.fuses.rollback) = s.fuses.rollbackLeft ∧
      t.fuses.log.length = s.fuses.log.length + (t.fuses.rollback - s.fuses.rollback) ∧
      t.fuses.keyRevoked = s.fuses.keyRevoked ∧ t.fuses.splitMode = s.fuses.splitMode ∧
      TouchesInput [] noEntry [] [] s { t with fuses := s.fuses }) ∧
    (Accepted s 0x2A00 0xE w → ∃ t, exec (.keyRevokedWrite w true) s = .next t ∧
      (∀ k, t.fuses.keyRevoked.testBit k =
        (s.fuses.keyRevoked.testBit k || (decide (k < 4) && (offered 0x2A00 0xE w).testBit k))) ∧
      t.fuses.rollback = s.fuses.rollback ∧ t.fuses.splitMode = s.fuses.splitMode ∧
      t.fuses.log.length + t.fuses.revokeLeft = s.fuses.log.length + s.fuses.revokeLeft ∧
      TouchesInput [] noEntry [] [] s { t with fuses := s.fuses }) ∧
    (Accepted s 0x2700 8 w → ∃ t, exec (.splitModeWrite w true) s = .next t ∧
      t.fuses.splitMode = min 1 (offered 0x2700 8 w) ∧
      (s.fuses.splitMode = min 1 (offered 0x2700 8 w) → t.fuses = s.fuses) ∧
      (s.fuses.splitMode ≠ min 1 (offered 0x2700 8 w) →
        t.fuses.splitLeft + 1 = s.fuses.splitLeft ∧ t.fuses.log.length = s.fuses.log.length + 1) ∧
      t.fuses.rollback = s.fuses.rollback ∧ t.fuses.keyRevoked = s.fuses.keyRevoked ∧
      TouchesInput [] noEntry [] [] s { t with fuses := s.fuses })

/-- O24. Entering and leaving setup, loading and sealing (17 R485, R495, R496, R498, R506): ExitSetup puts every RWS value
into effect after cutting overlapping ranges, frees the active-sequence table, and the device is in service (in
debug hold while halted); while a power transition is in progress it waits for that first; EnterSetup takes it to setup
with the causeways idle; FwLoad starts a load; a write other than 0 sets the seal. -/
def Obligations.SetupWritesChangeTheStage : Prop :=
  ∀ (s : State) (w : OdW),
    (Accepted s 0x2A00 5 w → offered 0x2A00 5 w ≠ 0 → transitioning s.ctl = false → ∃ t, exec (.exitSetup w) s = .next t ∧
      t.ctl.boot.stage = .service ∧ t.ctl.boot.everService = true ∧ t.ctl.boot.exiting = false ∧
      t.ctl.safety.mode = (if s.ctl.safety.halted then .debugHold else .inService) ∧
      (∀ i k, k < 256 → 0x2420 < i → effVal s.part t.ctl i k = odVal s.part s.ctl i k) ∧
      t.ctl.seqs = [] ∧ t.ctl.appends = [] ∧ t.part = s.part ∧ t.fuses = s.fuses ∧ t.pending = s.pending ∧
      Frame [.free, .od, .eff, .boot, .safety, .time, .queues, .syncs, .sched, .blocks, .readers, .seqs, .listCache, .walks,
        .appends, .journal, .links, .barrier, .power] s.ctl t.ctl) ∧
    (Accepted s 0x2A00 5 w → offered 0x2A00 5 w ≠ 0 → transitioning s.ctl = true → ∃ t, exec (.exitSetup w) s = .next t ∧
      t.ctl.boot = { s.ctl.boot with exiting := true } ∧ TouchesInput [.boot] noEntry [] [] s t) ∧
    (Accepted s 0x2A00 6 w → offered 0x2A00 6 w ≠ 0 → BoundaryAhead s.ctl.time → ∃ t, exec (.enterSetup w) s = .next t ∧
      t.ctl.boot = { s.ctl.boot with stage := .setup } ∧ t.ctl.safety.mode = .notReady ∧ t.ctl.links.cw = [] ∧
      TouchesInput ([.boot, .barrier, .time] ++ settlePieces) (fun i k => settleEntry i k ∨ (i = 0x2600 ∧ k = 0xC) ∨
          (i = 0x2200 ∧ (k = 0xB ∨ k = 0xC)))
        (looseSpans s.part s.ctl) [] s t) ∧
    (Accepted s 0x2A00 4 w → offered 0x2A00 4 w ≠ 0 → ∃ t, exec (.fwLoad w) s = .next t ∧
      t.ctl.boot = { s.ctl.boot with stage := .loading, fetched := false } ∧
      TouchesInput [.boot] noEntry [] [] s t) ∧
    (Accepted s 0x2A00 7 w → offered 0x2A00 7 w ≠ 0 → ∃ t, exec (.safetySealWrite w) s = .next t ∧
      t.ctl.boot = { s.ctl.boot with sealed := true } ∧ TouchesInput [.boot] noEntry [] [] s t)

/-- O25. Trigger entries (18 R512), with any value but 0: InjectArm takes the injection that the other entries
describe when the mechanism checks the unit, and disarms otherwise (15 R448); FleetGo starts an export into a
buffer that is large enough and in place, with the crypto domain on (15 R449); TwinTakeover and TwinRelease note
their request until the next heartbeat tick (16 R473). -/
def Obligations.TriggerWritesTakeTheirRequest : Prop :=
  ∀ (s : State) (w : OdW) (m u : Nat),
    m = odVal s.part s.ctl 0x2880 1 → u = odVal s.part s.ctl 0x2880 2 →
    (Accepted s 0x2880 6 w → offered 0x2880 6 w ≠ 0 → ∃ t, exec (.injectArm w) s = .next t ∧
      (injectable s.part m u = true →
        t.ctl.faults = { s.ctl.faults with
          injMech := m
          injUnit := u
          injSub := odVal s.part s.ctl 0x2880 3
          injKind := odVal s.part s.ctl 0x2880 4
          injLeft := odVal s.part s.ctl 0x2880 5 }) ∧
      (injectable s.part m u = false → t.ctl.faults = { s.ctl.faults with injLeft := 0 }) ∧
      TouchesInput [.faults] noEntry [] [] s t) ∧
    (∀ a n, Accepted s 0x2890 7 w → offered 0x2890 7 w ≠ 0 → odVal s.part s.ctl 0x2890 8 ≠ 1 →
      a = 64 * odVal s.part s.ctl 0x2890 1 → n = odVal s.part s.ctl 0x2890 2 →
      256 + 80 * odVal s.part s.ctl 0x2890 4 ≤ n → inDevice s.part s.ctl a n = true → pdOn s.ctl 45 = true →
      ∃ t, exec (.fleetGo w) s = .next t ∧ odVal s.part t.ctl 0x2890 8 = 1 ∧
        t.ctl.fleet = [a, n] ++ [3, 4, 5, 6].map (fun k => odVal s.part s.ctl 0x2890 k) ∧
        TouchesInput [.fleet] (entries [(0x2890, 8)]) [] [] s t) ∧
    (Accepted s 0x2908 4 w → offered 0x2908 4 w ≠ 0 → ∃ t, exec (.twinTakeover w) s = .next t ∧
      t.ctl.links.twin = { s.ctl.links.twin with takeover := true } ∧ TouchesInput [] noEntry [] [] s t) ∧
    (Accepted s 0x2908 5 w → offered 0x2908 5 w ≠ 0 → ∃ t, exec (.twinRelease w) s = .next t ∧
      t.ctl.links.twin = { s.ctl.links.twin with release := true, yield := true } ∧ TouchesInput [] noEntry [] [] s t)

/-! ## Power domains and clocks (01, 17, 19) -/

/-- O26. Requests for power (17 R502, R504, R505, 01 R40, R44): an enable of an unfenced domain sets its PdEnable, a
block's also its lagoon's, and a domain that is off, with its lagoon on, begins to power up; a disable that
01 R44 does not refuse clears PdEnable, and a domain that is on waits for its prerequisites; one that it refuses is
counted and PdEnable reads 1. Domains follow from the first exit from setup. -/
def Obligations.PowerRequestsFollowTheRules : Prop :=
  ∀ (s : State) (path : Path) (d : Nat), d < 48 →
    (Accepted s 0x2110 (d + 1) { path := path, val := 1, size := 1 } → fencedDomain s.ctl d = false →
      ∃ t, exec (.pdEnableOn path d) s = .next t ∧ odVal s.part t.ctl 0x2110 (d + 1) = 1 ∧
        (∀ l, lagoonOf d = some l → odVal s.part t.ctl 0x2110 (l + 1) = 1) ∧
        (s.ctl.boot.everService = true → pdOf s.ctl d = .off → (∀ l, lagoonOf d = some l → pdOf s.ctl l = .on) →
          pdOf t.ctl d = .poweringUp) ∧
        TouchesInput [.power] (fun i k => i = 0x2110 ∧ (k = d + 1 ∨ ∃ l, lagoonOf d = some l ∧ k = l + 1)) [] [] s t) ∧
    (Accepted s 0x2110 (d + 1) { path := path, val := 0, size := 1 } → refusedOff s.part s.ctl d = false →
      ∃ t, exec (.pdEnableOff path d) s = .next t ∧ odVal s.part t.ctl 0x2110 (d + 1) = 0 ∧
        (s.ctl.boot.everService = true → pdOf s.ctl d = .on →
          pdOf t.ctl d = .on ∧ t.ctl.power.wantOff.contains d = true) ∧
        TouchesInput [.power] (fun i k => i = 0x2110 ∧ (k = d + 1 ∨ (d < 40 ∧ d % 5 = 4 ∧ d < k + 4 ∧ k ≤ d))) [] [] s t) ∧
    (Accepted s 0x2110 (d + 1) { path := path, val := 0, size := 1 } → refusedOff s.part s.ctl d = true →
      ∃ t, exec (.pdEnableOff path d) s = .next t ∧ odVal s.part t.ctl 0x2110 (d + 1) = 1 ∧
        odVal s.part t.ctl 0x2100 3 = satN 32 (odVal s.part s.ctl 0x2100 3 + 1) ∧
        TouchesInput [] (entries [(0x2110, d + 1), (0x2100, 3)]) [] [] s t)

/-- O27. Switched domains (01 R43, 17 R503): a requested shut-down of a domain that is on begins once its
prerequisites hold; a block's scratch, or a lagoon, is lost when its domain is off (its bytes are those of a new
power-up, and every other region keeps its own); a power-up completes with the domain on. An exit from setup that waits
for the last transition follows it (17 R506). -/
def Obligations.PowerTransitionsComplete : Prop :=
  ∀ (s : State) (d : Nat), d < 48 →
    (pdOf s.ctl d = .on → s.ctl.power.wantOff.contains d = true → s.ctl.power.wantOn.contains d = false →
      offReady s.view s.ctl d = true → ∃ t, exec (.shutDownBegin d) s = .next t ∧ pdOf t.ctl d = .shuttingDown ∧
        t.ctl.power.wantOff.contains d = false ∧ (∀ x, x ≠ d → pdOf t.ctl x = pdOf s.ctl x) ∧
        (d < 40 → Touches [.power] noEntry [] [] s t)) ∧
    (pdOf s.ctl d = .shuttingDown → s.ctl.boot.exiting = false → ∃ t, exec (.shutDownComplete d) s = .next t ∧ pdOf t.ctl d = .off ∧
      (∀ x, x ≠ d → pdOf t.ctl x = pdOf s.ctl x) ∧
      (∀ b k, d = blockDomain b → b < 32 → k < scratchSize →
        devByte t.mems (scratchBase b + k) = Config.undefByte (look 0 b s.mems.gens + 1) (scratchBase b + k)) ∧
      (∀ i k, d = lagoonDomain i → i < 8 → k < lagoonSize →
        devByte t.mems (lagoonBase i + k) = Config.undefByte (look 0 (32 + i) s.mems.gens + 1) (lagoonBase i + k)) ∧
      Touches [.power, .blocks, .listCache, .walks] noEntry
        (if d < 40 then
          (if d % 5 = 4 then [(lagoonBase (d / 5), lagoonSize)] else [(scratchBase (4 * (d / 5) + d % 5), scratchSize)])
         else []) [] s t) ∧
    (pdOf s.ctl d = .poweringUp → s.ctl.boot.exiting = false → ∃ t, exec (.powerUpComplete d) s = .next t ∧ pdOf t.ctl d = .on ∧
      (∀ x, x / 5 ≠ d / 5 → pdOf t.ctl x = pdOf s.ctl x) ∧ t.mems = s.mems ∧
      Frame [.od, .power, .img, .links, .sched, .dram] s.ctl t.ctl) ∧
    (∀ (i : Instr) (f : Nat → View → Ctl → Ctl), s.ctl.boot.exiting = true → s.ctl.safety.mode = .notReady →
      ((i = .shutDownComplete d ∧ f = completeOff) ∨ (i = .powerUpComplete d ∧ f = completeOn)) →
      transitioning (f d s.view s.ctl.fresh) = false →
      ∃ t, exec i s = .next t ∧ t.ctl.boot.stage = .service ∧ t.ctl.boot.exiting = false)

/-- O28. Temperature and supplies (01 R30, 19 R524, R525, R530, R532, 17 R481): above 115 degC MCLK is derated and
counted, below 110 degC restored; a rail out of its range, a PLL out of lock and a junction above 125 degC raise
MECH 23, which reaches the chip collector; a cold reset, a power-good loss and the thermal trip discard
everything but the fuses. -/
def Obligations.MonitorEventsAct : Prop :=
  ∀ s : State,
    (∀ temp, s.ctl.boot.started = true → 920 < temp → s.ctl.power.derated = false →
      ∃ t, exec (.mclkDerate temp) s = .next t ∧ t.ctl.power = { s.ctl.power with derated := true, temp := temp } ∧
        odVal s.part t.ctl 0x2100 2 = satN 32 (odVal s.part s.ctl 0x2100 2 + 1) ∧
        Touches [.power, .od] (entries [(0x2100, 2)]) [] [] s t) ∧
    (∀ temp, s.ctl.boot.started = true → temp < 880 → s.ctl.power.derated = true →
      ∃ t, exec (.mclkRestore temp) s = .next t ∧ t.ctl.power = { s.ctl.power with derated := false, temp := temp } ∧
        Touches [.power] noEntry [] [] s t) ∧
    (∀ (i : Instr) (rail mv pll : Nat) (temp : Int), s.ctl.boot.started = true →
      ((i = .railOutOfRange rail mv ∧ railOut rail mv = true) ∨ i = .pllLossOfLock pll ∨
        (i = .junctionOverTemperature temp ∧ 1000 < temp)) →
      ∃ t, exec i s = .next t ∧ (∃ r ∈ t.ctl.faults.inbox, r.mech = 23 ∧ r.unit = 0x3F) ∧
        t.ctl.power.derated = s.ctl.power.derated ∧ t.ctl.power.pd = s.ctl.power.pd ∧
        Touches [.power, .faults] noEntry [] [] s t) ∧
    (∀ (i : Instr) (rail mv : Nat) (temp : Int),
      (i = .coldReset ∨ (i = .powerGoodLoss rail mv ∧ ((railOf rail).map fun l => decide (mv < l.2.2)) = some true) ∨
        (i = .thermalTrip temp ∧ 1080 ≤ temp)) →
      ∃ t, exec i s = .next t ∧ t.part = s.part ∧ t.fuses = s.fuses ∧ t.pending = s.pending ∧
        t.ctl = { (State.reset.ctl) with free := s.ctl.free } ∧ (∀ a, a < dramTop → devByte t.mems a = 0))
/-! ## Time (09) and the configuration keys (13) -/

/-- O29. A frame boundary (09 R267), with no transition of the time state due: fusion time is not before it and the next
boundary is one period later; SlowDown of every client is that of the frame's execution, waiting and pre-emption times
(11 R324), whose account restarts; every enabled task is released with its target and deadline, and its tier
takes effect (11 R333, R335). In mode 2 PPS_OUT rises (09 R280). Every HALTED live stream, and no other, takes one sample
more, and its SYNC is signalled (08 R252). -/
def Obligations.FrameBoundaryReleasesTasks : Prop :=
  (∀ (s : State) (b : Nat), s.ctl.boot.started = true → s.ctl.time.period ≠ 0 → b = s.ctl.time.boundary % 2 ^ 64 →
    (∀ e ∈ s.ctl.img ++ s.ctl.vd ++ s.ctl.pts, e.2.state ≠ .halted) →
    timeMove s.part (emitBoundary s.part (modTime (reach b) s.ctl.fresh)) = none →
    ∃ t, exec .frameBoundary s = .next t ∧ t.ctl.time.boundary = s.ctl.time.boundary + s.ctl.time.period ∧
      (0 < diff b s.ctl.time.value → t.ctl.time.value = b) ∧
      (∀ cl, cl < 256 → odVal s.part t.ctl (0x4000 + cl) 0xB =
        (if (look {} cl s.ctl.sched.acct).e = 0 then 256
         else min 65535 (256 * ((look {} cl s.ctl.sched.acct).e + (look {} cl s.ctl.sched.acct).w + (look {} cl s.ctl.sched.acct).p) /
           (look {} cl s.ctl.sched.acct).e))) ∧
      t.ctl.sched.acct = [] ∧ t.ctl.safety.named = [] ∧
      (∀ n, n < 64 → odVal s.part s.ctl (0x2440 + n) 2 = 1 →
        getTask t.ctl n = { getTask s.ctl n with
          released := true
          releases := (getTask s.ctl n).releases + 1
          tierNow := odVal s.part s.ctl (0x2440 + n) 0xA
          open_ := (getTask s.ctl n).open_ ++
            [{ at_ := b
               target := (getTask s.ctl n).s0 + (getTask s.ctl n).releases + 1
               due := (b + odVal s.part s.ctl (0x2440 + n) 4 * us) % 2 ^ 64
               reserve := odVal s.part s.ctl (0x2440 + n) 5 }] }) ∧
      (∀ n, n < 64 → odVal s.part s.ctl (0x2440 + n) 2 ≠ 1 → getTask t.ctl n = getTask s.ctl n) ∧
      t.ctl.out = (if odVal s.part s.ctl 0x2206 1 = 2 then [.pps true] else []) ∧
      Touches [.time, .sched, .od, .safety] (fun i k => 0x4000 ≤ i ∧ k = 0xB) [] [] s t) ∧
  (∀ (s : State) (b : Nat), s.ctl.boot.started = true → s.ctl.time.period ≠ 0 → b = s.ctl.time.boundary % 2 ^ 64 →
    tidy {} s.ctl.img = true → tidy {} s.ctl.vd = true → tidy {} s.ctl.pts = true →
    timeMove s.part (emitBoundary s.part (modTime (reach b) s.ctl.fresh)) = none →
    ∃ t, exec .frameBoundary s = .next t ∧ t.ctl.time.boundary = s.ctl.time.boundary + s.ctl.time.period ∧
      ∀ cls n x, cls = 2 ∨ cls = 3 ∨ cls = 4 → x = getS s.ctl cls n →
        (¬ (x.state = .halted ∧ armSource x.arm ≠ 2) → getS t.ctl cls n = x) ∧
        (x.state = .halted → armSource x.arm ≠ 2 → getS t.ctl cls n = { x with seq := x.seq + 1 } ∧
          min (getSync s.ctl (armSync x.arm) + 1) (2 ^ 64 - 1) ≤ getSync t.ctl (armSync x.arm)))

/-- O30. The value wraps to 0 and the epoch grows by 1 modulo 2^32 (09 R259). PPS_OUT rises in mode 1 at the next whole
second of full time, once each, and returns low; in another mode the event does nothing (09 R280; in mode 2 the edge is the
frame boundary's, O29). A PPS_IN edge is counted, and stamped with PpsInDelay removed and the epoch of that stamp unless it
follows the last stamped edge by less than 100 ms (09 R278). -/
def Obligations.WrapAndPpsEdges : Prop :=
  ∀ s : State,
    (s.ctl.boot.started = true → s.ctl.time.value < 2 ^ 64 → ∃ t, exec .valueWrap s = .next t ∧
      t.ctl.time.value = 0 ∧ t.ctl.time.epoch = (s.ctl.time.epoch + 1) % 2 ^ 32 ∧ t.ctl.time.frac = 0 ∧
      { t.ctl.time with value := s.ctl.time.value, epoch := s.ctl.time.epoch, frac := s.ctl.time.frac,
                        track0 := s.ctl.time.track0, track1 := s.ctl.time.track1 } = s.ctl.time ∧
      Touches [.time] noEntry [] [] s t) ∧
    (s.ctl.boot.started = true → odVal s.part s.ctl 0x2206 1 = 1 →
      ∃ t, exec .ppsOutEdge s = .next t ∧ t.ctl.out = [.pps true] ∧ t.ctl.time.pps = true ∧
        (fullTime s.ctl.time < s.ctl.time.second → fullTime t.ctl.time = s.ctl.time.second % 2 ^ 96) ∧
        t.ctl.time.second = secondAfter s.ctl.time.second ∧
        t.ctl.time.ppsFall = some ((t.ctl.time.value + odVal s.part s.ctl 0x2206 2 * us) % 2 ^ 64) ∧
        Touches [.time] noEntry [] [] s t) ∧
    (odVal s.part s.ctl 0x2206 1 ≠ 1 → ∃ t, exec .ppsOutEdge s = .next t ∧ t.ctl.out = [] ∧ Touches [] noEntry [] [] s t) ∧
    (∀ f, s.ctl.time.ppsFall = some f → ∃ t, exec .ppsOutReturnLow s = .next t ∧ t.ctl.out = [.pps false] ∧
      t.ctl.time.pps = false ∧ t.ctl.time.ppsFall = none ∧ Touches [.time] noEntry [] [] s t) ∧
    (∀ (raw : Word64) (st ep : Nat), regionsServed s.ctl = true →
      st = (raw.toNat + 2 ^ 64 - effVal s.part s.ctl 0x2206 3) % 2 ^ 64 →
      ep = ((fullTime s.ctl.time : Int) + diff st s.ctl.time.value).toNat / 2 ^ 64 →
      ∃ t, exec (.ppsInEdge raw) s = .next t ∧
        odVal s.part t.ctl 0x2206 6 = satN 32 (odVal s.part s.ctl 0x2206 6 + 1) ∧
        ((odVal s.part s.ctl 0x2206 6 = 0 ∨ 100000 * (us : Int) ≤ diff st (odVal s.part s.ctl 0x2206 4)) →
          odVal s.part t.ctl 0x2206 4 = st ∧ odVal s.part t.ctl 0x2206 5 = ep) ∧
        (odVal s.part s.ctl 0x2206 6 ≠ 0 → diff st (odVal s.part s.ctl 0x2206 4) < 100000 * (us : Int) →
          odVal s.part t.ctl 0x2206 4 = odVal s.part s.ctl 0x2206 4 ∧ odVal s.part t.ctl 0x2206 5 = odVal s.part s.ctl 0x2206 5) ∧
        TouchesInput [] (entries [(0x2206, 4), (0x2206, 5), (0x2206, 6)]) [] [] s t)

/-- O31. Network time (09 R268-R271), while the next frame boundary lies ahead: for the tracker that a message concerns, a
two-step Sync waits; a one-step Sync, or the Follow_Up of the Sync that waits, sets the arrival of the last Sync to its
receive stamp, the grandmaster, the count of consecutive Syncs, and VALID once four have come from an asCapable port; an
Announce is read for stepsRemoved, and one of another grandmaster returns the tracker to SEARCHING and counts in GmChanges;
the timeout makes it LOST. -/
def Obligations.NetworkTimeMessagesMoveTheTracker : Prop :=
  (∀ (s : State) (m : Gptp) (k : Nat), trackersOf s.part s.ctl m.mac m.domain = [k] → k < 2 → BoundaryAhead s.ctl.time →
    (m.twoStep = true → ∃ t, exec (.syncMessage m) s = .next t ∧
      getTr t.ctl k = { getTr s.ctl k with waiting := some m } ∧ getTr t.ctl (1 - k) = getTr s.ctl (1 - k) ∧
      TouchesInput [.time, .free] noEntry [] [] s t) ∧
    (∀ (i : Instr) (g : Gptp), ((i = .syncMessage m ∧ m.twoStep = false ∧ g = m) ∨
        (i = .followUp m ∧ ∃ w, (getTr s.ctl k).waiting = some w ∧ g = { w with origin := m.origin })) →
      ∃ t, exec i s = .next t ∧ (getTr t.ctl k).waiting = none ∧ (getTr t.ctl k).gm = g.gm.toNat ∧
        (getTr t.ctl k).lastSync = rxValue s.part s.ctl g.mac g.rx ∧
        ((getTr s.ctl k).gm ≠ 0 → (getTr s.ctl k).gm ≠ g.gm.toNat →
          (getTr t.ctl k).good = 1 ∧ (getTr t.ctl k).status = 1 ∧
          odVal s.part t.ctl (0x2201 + k) 8 = satN 32 (odVal s.part s.ctl (0x2201 + k) 8 + 1)) ∧
        ((getTr s.ctl k).gm = g.gm.toNat → 0 < (getTr s.ctl k).good →
          diff (rxValue s.part s.ctl g.mac g.rx) (getTr s.ctl k).lastSync ≤
            ((odVal s.part s.ctl 0x2200 0xD * 1000 * us : Nat) : Int) →
          (getTr s.ctl k).status ≠ 3 →
          (getTr t.ctl k).good = min 4 ((getTr s.ctl k).good + 1) ∧
          ((getTr t.ctl k).status = 2 ↔ (3 ≤ (getTr s.ctl k).good ∧ asCapable (getTr s.ctl k) = true))) ∧
        TouchesInput [.time, .free] (fun x y => (x = 0x2200 ∧ (y = 0xB ∨ y = 0xC)) ∨ (x = 0x2201 + k ∧ y = 8)) [] [] s t) ∧
    (∀ (gm : Word64) (steps : Nat), ∃ t, exec (.announce m.mac m.domain gm steps) s = .next t ∧
        (getTr t.ctl k).gm = gm.toNat ∧ (getTr t.ctl k).steps = steps ∧
        ((getTr s.ctl k).gm ≠ 0 → (getTr s.ctl k).gm ≠ gm.toNat →
          (getTr t.ctl k).status = 1 ∧ (getTr t.ctl k).good = 0 ∧
          odVal s.part t.ctl (0x2201 + k) 8 = satN 32 (odVal s.part s.ctl (0x2201 + k) 8 + 1)) ∧
        ((getTr s.ctl k).gm = 0 ∨ (getTr s.ctl k).gm = gm.toNat →
          (getTr t.ctl k).status = (getTr s.ctl k).status ∧ (getTr t.ctl k).good = (getTr s.ctl k).good) ∧
        TouchesInput [.time, .free] (fun x y => (x = 0x2200 ∧ (y = 0xB ∨ y = 0xC)) ∨ (x = 0x2201 + k ∧ y = 8)) [] [] s t)) ∧
  (∀ (s : State) (k : Nat), k < 2 → (getTr s.ctl k).status = 1 ∨ (getTr s.ctl k).status = 2 →
      macRuns s.part s.ctl (effVal s.part s.ctl (0x2201 + k) 2) = true →
      BoundaryAhead s.ctl.time →
      BoundaryAhead (reach ((lastArrival s.part s.ctl k + odVal s.part s.ctl 0x2200 0xD * 1000 * us) % 2 ^ 64) s.ctl.time) →
      ∃ t, exec (.syncLossTimeout k) s = .next t ∧ (getTr t.ctl k).status = 3 ∧
      (getTr t.ctl k).good = 0 ∧ (getTr t.ctl k).waiting = none ∧
      TouchesInput [.time, .free] (fun x y => x = 0x2200 ∧ (y = 0xB ∨ y = 0xC)) [] [] s t)

/-- O32. Peer delay (09 R268, R269, R276): on a running MAC a Pdelay_Req is sent and its transmit stamp kept; one received is
answered with a Pdelay_Resp that carries the receive stamp less PhyRxLatency and a Pdelay_Resp_Follow_Up with the transmit
stamp of that answer; the delay of an exchange, or its failure, joins the last three of the trackers of its MAC, and
LinkDelay is the mean of those that completed. -/
def Obligations.PeerDelayExchanges : Prop :=
  ∀ (s : State) (mac : Nat), macRuns s.part s.ctl mac = true →
    (∃ t, exec (.pdelayReqSend mac) s = .next t ∧ t.ctl.out = [.pdelayReq mac] ∧
      t.ctl.time = { s.ctl.time with sent := stow 0 mac (txValue s.part s.ctl mac) s.ctl.time.sent } ∧
      Touches [.time, .free] noEntry [] [] s t) ∧
    (∀ rx : Word64, ∃ t, exec (.pdelayReqReceived mac rx) s = .next t ∧
      t.ctl.out = [.pdelayResp mac (BitVec.ofNat 64 (rxValue s.part s.ctl mac rx)),
        .pdelayFollowUp mac (BitVec.ofNat 64 (txValue s.part s.ctl mac))] ∧
      Touches [.free] noEntry [] [] s t) ∧
    (∀ (k : Nat) (x : Option (Nat × Word64)) (l : List Nat), k < 2 → trOn s.part s.ctl k = true →
      effVal s.part s.ctl (0x2201 + k) 2 = mac → BoundaryAhead s.ctl.time →
      ∃ t, exec (.pdelayRespReceived mac x) s = .next t ∧
        (getTr t.ctl k).delays =
          ((getTr s.ctl k).delays ++ [exchangeDelay s.part s.ctl mac x]).drop ((getTr s.ctl k).delays.length - 2) ∧
        (l = (getTr t.ctl k).delays.filterMap id → l ≠ [] →
          (getTr t.ctl k).delay * l.length ≤ sumN l ∧ sumN l < ((getTr t.ctl k).delay + 1) * l.length) ∧
        ((getTr t.ctl k).delays.filterMap id = [] → (getTr t.ctl k).delay = (getTr s.ctl k).delay) ∧
        TouchesInput [.time, .free] (fun x y => x = 0x2200 ∧ (y = 0xB ∨ y = 0xC)) [] [] s t)

/-- O33. A write of TimeStepPermit stores 0 or 1, whatever time state it leads to (09 R272); a recomputation of the keys
(13 R376) from the first exit from setup onwards leaves ArithKey and TimingKey at their values and counts each one
that changes. -/
def Obligations.TimePermitAndKeys : Prop :=
  ∀ s : State,
    (∀ w, Accepted s 0x2200 0xA w → BoundaryAhead s.ctl.time → ∃ t, exec (.timeStepPermitWrite w) s = .next t ∧
      odVal s.part t.ctl 0x2200 0xA = min 1 (offered 0x2200 0xA w) ∧
      TouchesInput [.time, .free] (fun x y => x = 0x2200 ∧ (y = 0xA ∨ y = 0xB ∨ y = 0xC)) [] [] s t) ∧
    (s.ctl.boot.everService = true → ∃ t, exec .keyRecompute s = .next t ∧
      odVal s.part t.ctl 0x2600 1 = (keysOf s.view s.ctl).1 ∧ odVal s.part t.ctl 0x2600 2 = (keysOf s.view s.ctl).2 ∧
      odVal s.part t.ctl 0x2600 3 = satN 32 (odVal s.part s.ctl 0x2600 3 +
        (b2n (decide ((keysOf s.view s.ctl).1 ≠ odVal s.part s.ctl 0x2600 1)) +
         b2n (decide ((keysOf s.view s.ctl).2 ≠ odVal s.part s.ctl 0x2600 2)))) ∧
      Touches [.od] (entries [(0x2600, 1), (0x2600, 2), (0x2600, 3)]) [] [] s t)
/-! ## Causeways, twin pairing and the start barrier (16, 13) -/

/-- O34. Causeway ports (16 R468, R475): a port that may train comes up as its neighbour reports itself, or is held as a
duplicate when the neighbour has the device's own ID; link-state flits refresh what is known of it; a port that
is lost retrains when it may and counts; a flit that fails its CRC is replayed and counted up to eight times, and after the
eighth the port is lost. -/
def Obligations.CausewayPortsTrainAndFall : Prop :=
  ∀ (s : State) (k : Nat), k < 4 →
    (∀ (i : Instr) (peer : Member) (ms : List Member),
      ((i = .cwTrainingDone k peer ∧ mayTrain s.part s.ctl k = true ∧ (getCw s.ctl k).state = 1 ∧ ms = []) ∨
        (i = .linkStateFlit k peer ms ∧ 2 ≤ (getCw s.ctl k).state)) →
      ∃ t, exec i s = .next t ∧ (getCw t.ctl k).state = (if peer.id = archId s.part s.ctl then 3 else 2) ∧
        (getCw t.ctl k).peer = some peer ∧ (getCw t.ctl k).members = ms ∧
        (∀ j, j ≠ k → getCw t.ctl j = getCw s.ctl j) ∧
        Touches [.links, .od, .barrier] (entries [(0x2600, 0xC)]) [] [] s t) ∧
    (∀ i : Instr, 2 ≤ (getCw s.ctl k).state →
      (i = .cwPortLoss k ∨ (i = .cwFlitCrcFail k ∧ 8 ≤ (getCw s.ctl k).fails)) → ∃ t, exec i s = .next t ∧
      getCw t.ctl k = { state := if mayTrain s.part s.ctl k then 1 else 0 } ∧
      odVal s.part t.ctl 0x2905 (k + 1) = satN 32 (odVal s.part s.ctl 0x2905 (k + 1) + 1) ∧
      (∀ j, j ≠ k → getCw t.ctl j = getCw s.ctl j) ∧
      Touches [.links, .od, .barrier] (entries [(0x2600, 0xC), (0x2905, k + 1)]) [] [] s t) ∧
    (2 ≤ (getCw s.ctl k).state → (getCw s.ctl k).fails < 8 → ∃ t, exec (.cwFlitCrcFail k) s = .next t ∧
      getCw t.ctl k = { getCw s.ctl k with fails := (getCw s.ctl k).fails + 1 } ∧
      odVal s.part t.ctl 0x2904 (k + 1) = satN 64 (odVal s.part s.ctl 0x2904 (k + 1) + 1) ∧
      Touches [.links, .od] (entries [(0x2904, k + 1)]) [] [] s t)

/-- O35. Message flits (16 R467, R469, R470): one for another device goes on over the port of its route with one hop
more; one with 15 hops, or without a route, is dropped and counted; for this device, a flit that is not the last joins its
message, and the last one's message fills the next slot of an enabled receive channel with its header and payload, counts
and signals, or is counted as dropped where the channel is off or its slot too small. -/
def Obligations.MessageFlitsForwardAndDeliver : Prop :=
  ∀ (s : State) (k : Nat) (f : Flit), cwUp s.ctl k = true →
    (∀ j, f.dest ≠ archId s.part s.ctl → routeUp s.part s.ctl f.dest = some j → f.hops ≠ 15 →
      ∃ t, exec (.cwFlitReceived k f) s = .next t ∧ t.ctl.out = [.flit j { f with hops := f.hops + 1 }] ∧
        Touches [.links] noEntry [] [] s t) ∧
    (f.dest ≠ archId s.part s.ctl → (routeUp s.part s.ctl f.dest = none ∨ f.hops = 15) →
      ∃ t, exec (.cwFlitReceived k f) s = .next t ∧ t.ctl.out = [] ∧
        odVal s.part t.ctl 0x2906 1 = satN 64 (odVal s.part s.ctl 0x2906 1 + 1) ∧
        Touches [.links, .od] (entries [(0x2906, 1)]) [] [] s t) ∧
    (∀ key, f.dest = archId s.part s.ctl → key = (f.src % 16 * 32 + f.txCh % 32) * 32 + f.rxCh % 32 → f.last = false →
      (f.first = true ∨ (look {} key s.ctl.links.rx).msg = f.msgSeq + 1) →
      ∃ t, exec (.cwFlitReceived k f) s = .next t ∧
        look {} key t.ctl.links.rx =
          { msg := f.msgSeq + 1, got := (if f.first then [] else (look {} key s.ctl.links.rx).got) ++ f.payload } ∧
        Touches [.links] noEntry [] [] s t) ∧
    (∀ key ch a pay, f.dest = archId s.part s.ctl → key = (f.src % 16 * 32 + f.txCh % 32) * 32 + f.rxCh % 32 → f.last = true →
      (f.first = true ∨ (look {} key s.ctl.links.rx).msg = f.msgSeq + 1) →
      pay = (if f.first then [] else (look {} key s.ctl.links.rx).got) ++ f.payload → ch = f.rxCh % 32 →
      (effVal s.part s.ctl (0x2940 + ch) 1 = 1 → 64 + pay.length ≤ 64 * effVal s.part s.ctl (0x2940 + ch) 4 →
        a = 64 * effVal s.part s.ctl (0x2940 + ch) 2 + 64 * effVal s.part s.ctl (0x2940 + ch) 4 * look 0 ch s.ctl.links.rxNext →
        Memory.wf s.mems = true → (∀ j, j < 64 + pay.length → outside (looseSpans s.part s.ctl) (a + j)) →
        ∃ t, exec (.cwFlitReceived k f) s = .next t ∧
          devBytes t.mems a (64 + pay.length) =
            leBytes 4 pay.length ++ leBytes 4 (f.src % 16 + 16 * (f.txCh % 32)) ++ leBytes 8 s.ctl.time.value ++
              List.replicate 48 0 ++ pay ∧
          look 0 ch t.ctl.links.rxNext = (look 0 ch s.ctl.links.rxNext + 1) % effVal s.part s.ctl (0x2940 + ch) 3 ∧
          odVal s.part t.ctl (0x2940 + ch) 6 = satN 64 (odVal s.part s.ctl (0x2940 + ch) 6 + 1) ∧
          (NoDeferred s → getSync t.ctl (effVal s.part s.ctl (0x2940 + ch) 5) =
            min (getSync s.ctl (effVal s.part s.ctl (0x2940 + ch) 5) + 1) (2 ^ 64 - 1)) ∧
          Touches (.links :: settlePieces) (fun i j => settleEntry i j ∨ (i = 0x2940 + ch ∧ j = 6))
            ((a, 64 + pay.length) :: looseSpans s.part s.ctl) [] s t) ∧
      (effVal s.part s.ctl (0x2940 + ch) 1 ≠ 1 ∨ 64 * effVal s.part s.ctl (0x2940 + ch) 4 < 64 + pay.length →
        ∃ t, exec (.cwFlitReceived k f) s = .next t ∧
          odVal s.part t.ctl (0x2940 + ch) 7 = satN 64 (odVal s.part s.ctl (0x2940 + ch) 7 + 1) ∧
          Touches [.links, .od] (entries [(0x2940 + ch, 7)]) [] [] s t))

/-- O36. Transmissions (16 R466, R480): the oldest that waits in a channel is sent when it can be, in the turn of the
channels of its MAC, and leaves the queue: an Ethernet frame padded to 60 bytes, or the flits of a causeway message; TxSent
counts it. One that cannot be sent, or whose slot holds a poisoned word, is dropped and counted in TxDropped. The channel's
sync object gains 1 in each case. What a MAC's interface reports is kept. -/
def Obligations.TransmissionsLeaveInOrder : Prop :=
  ∀ s : State,
    (∀ (ch a : Nat) (x : Sent) (rest : List Sent), ch < 32 → (look {} ch s.ctl.links.tx).queue = x :: rest →
      exporting s.ctl = true → macTurn s.part s.ctl ch x.order = true →
      a = 64 * effVal s.part s.ctl (0x2920 + ch) 2 + 64 * effVal s.part s.ctl (0x2920 + ch) 4 * x.slot →
      (canSend s.part s.ctl ch = true → poisonedIn s.mems a x.bytes = false →
        ∃ t, exec (.transmissionSend ch) s = .next t ∧ (look {} ch t.ctl.links.tx).queue = rest ∧
          ((effVal s.part s.ctl (0x2920 + ch) 1).testBit 3 = false →
            t.ctl.out = [.eth (bitsN (effVal s.part s.ctl (0x2920 + ch) 1) 0 3)
              (devBytes s.mems a x.bytes ++ List.replicate (60 - x.bytes) 0)]) ∧
          ((effVal s.part s.ctl (0x2920 + ch) 1).testBit 3 = true →
            ∀ k, routeUp s.part s.ctl (bitsN (effVal s.part s.ctl (0x2920 + ch) 1) 4 4) = some k →
            t.ctl.out = (flitsOf s.part s.ctl ch (effVal s.part s.ctl (0x2920 + ch) 1) (look {} ch s.ctl.links.tx).seq
              (devBytes s.mems a x.bytes)).map (.flit k)) ∧
          odVal s.part t.ctl (0x2920 + ch) 6 = satN 64 (odVal s.part s.ctl (0x2920 + ch) 6 + 1) ∧
          (NoDeferred s → getSync t.ctl (effVal s.part s.ctl (0x2920 + ch) 5) =
            min (getSync s.ctl (effVal s.part s.ctl (0x2920 + ch) 5) + 1) (2 ^ 64 - 1)) ∧
          Touches (.links :: settlePieces) (fun i j => settleEntry i j ∨ (i = 0x2920 + ch ∧ j = 6))
            (looseSpans s.part s.ctl) [] s t) ∧
      (canSend s.part s.ctl ch = false ∨ poisonedIn s.mems a x.bytes = true →
        ∃ t, exec (.transmissionSend ch) s = .next t ∧ (look {} ch t.ctl.links.tx).queue = rest ∧ t.ctl.out = [] ∧
          odVal s.part t.ctl (0x2920 + ch) 7 = satN 64 (odVal s.part s.ctl (0x2920 + ch) 7 + 1) ∧
          (NoDeferred s → getSync t.ctl (effVal s.part s.ctl (0x2920 + ch) 5) =
            min (getSync s.ctl (effVal s.part s.ctl (0x2920 + ch) 5) + 1) (2 ^ 64 - 1)) ∧
          Touches ([.links, .faults] ++ settlePieces) (fun i j => settleEntry i j ∨ (i = 0x2920 + ch ∧ j = 7))
            (looseSpans s.part s.ctl) [] s t)) ∧
    (∀ (mac : Nat) (up : Bool), mac < 6 → s.ctl.boot.started = true → ∃ t, exec (.macLinkChange mac up) s = .next t ∧
      look false mac t.ctl.links.macUp = up ∧
      (∀ x, x ≠ mac → look false x t.ctl.links.macUp = look false x s.ctl.links.macUp) ∧ Touches [.links] noEntry [] [] s t)

/-- O37. Twin pairing (16 R472, R473): a tick notes whether a heartbeat was heard, takes the role of the first row of
the table that applies, consumes the requests, and sends a heartbeat while causeway 0 is up; a valid heartbeat is
kept as the peer's last, and one that shows it ACTIVE ends the own yield. -/
def Obligations.TwinHeartbeatsDecideTheRole : Prop :=
  ∀ (s : State) (c2 : Ctl), s.ctl.links.twin.paired = true →
    c2 = modTwin (fun x => { x with misses := if x.heard then 0 else x.misses + 1, heard := false }) s.ctl →
    ((getCw s.ctl 0).state ≠ 3 → ∃ t, exec .heartbeatTick s = .next t ∧
      t.ctl.links.twin.role = (newRole s.part c2).getD s.ctl.links.twin.role ∧
      t.ctl.links.twin.misses = (if s.ctl.links.twin.heard then 0 else s.ctl.links.twin.misses + 1) ∧
      t.ctl.links.twin.takeover = false ∧ t.ctl.links.twin.release = false ∧ t.ctl.links.twin.heard = false ∧
      (cwUp s.ctl 0 = true → ∃ h, .heartbeat h ∈ t.ctl.out ∧ h.src = archId s.part s.ctl ∧
        h.role = t.ctl.links.twin.role ∧ h.serial = s.ctl.links.twin.sent ∧ h.sent = BitVec.ofNat 64 s.ctl.time.value) ∧
      Touches (.links :: settlePieces) (fun i k => settleEntry i k ∨ (i = 0x2908 ∧ (k = 0xC ∨ k = 0xD)))
        (looseSpans s.part s.ctl) [] s t) ∧
    (∀ h, cwUp s.ctl 0 = true → validHeartbeat s.ctl h = true → ∃ t, exec (.heartbeatReceived h) s = .next t ∧
      t.ctl.links.twin = { s.ctl.links.twin with
        peer := some h
        heard := true
        yield := s.ctl.links.twin.yield && decide (h.role ≠ 1) } ∧
      Touches [.links] noEntry [] [] s t)

/-- O38. The start barrier on its harbour and its members (13 R389): an ARM that reaches the harbour is noted; at the
end of the wait the members that have not armed are excluded and GO goes out; a GO that reaches an armed member
makes its release due BarrierLatency less its deskew later; the release clears BarrierArm and signals
BarrierSync. -/
def Obligations.BarrierEventsReleaseTogether : Prop :=
  ∀ s : State,
    (∀ id, effVal s.part s.ctl 0x2900 5 = 1 → serving s.ctl = true → isHarbour s.part s.ctl = true →
      s.ctl.barrier.until_ = none → ∃ t, exec (.barrierArmReceived id) s = .next t ∧
        t.ctl.barrier = { s.ctl.barrier with got := insNat id s.ctl.barrier.got } ∧ Touches [.barrier] noEntry [] [] s t) ∧
    (∀ id, effVal s.part s.ctl 0x2900 5 = 1 → serving s.ctl = true → isHarbour s.part s.ctl = false →
      id ≠ archId s.part s.ctl → ∃ t, exec (.barrierArmReceived id) s = .next t ∧
        t.ctl.barrier = { s.ctl.barrier with forwarded := insNat id s.ctl.barrier.forwarded } ∧
        (∀ j, routeUp s.part s.ctl s.ctl.links.harbour = some j → t.ctl.out = [.sideband j .arm]) ∧
        Touches [.barrier] noEntry [] [] s t) ∧
    (∀ u, s.ctl.barrier.until_ = some u → ∃ t, exec .barrierTimeout s = .next t ∧
      t.ctl.barrier.until_ = none ∧ t.ctl.barrier.got = [] ∧
      (∀ i, i < 16 → ((∃ m ∈ allMembers s.part s.ctl, m.id = i) → i ∉ s.ctl.barrier.got →
        (odVal s.part t.ctl 0x2600 0xE).testBit i = true)) ∧
      (s.ctl.barrier.got.contains (archId s.part s.ctl) = true → t.ctl.barrier.due.isSome = true) ∧
      Touches [.time, .barrier, .od] (entries [(0x2600, 0xE)]) [] [] s t) ∧
    (∀ k, effVal s.part s.ctl 0x2900 5 = 1 → cwUp s.ctl k = true → serving s.ctl = true → s.ctl.barrier.armed = true →
      ∃ t, exec (.barrierGoReceived k) s = .next t ∧
        t.ctl.barrier.due = some (afterMclk s.ctl (effVal s.part s.ctl 0x2600 0xB - odVal s.part s.ctl 0x2601 (k + 1))) ∧
        t.ctl.barrier.forwarded = [] ∧ Touches [.barrier] noEntry [] [] s t) ∧
    (∀ u, s.ctl.barrier.due = some u → ∃ t, exec .barrierRelease s = .next t ∧
      t.ctl.barrier = { s.ctl.barrier with armed := false, due := none } ∧ odVal s.part t.ctl 0x2600 0xC = 0 ∧
      (NoDeferred s → getSync t.ctl (effVal s.part s.ctl 0x2600 0xA) =
        min (getSync s.ctl (effVal s.part s.ctl 0x2600 0xA) + 1) (2 ^ 64 - 1)) ∧
      Touches ([.time, .barrier] ++ settlePieces) (fun i k => settleEntry i k ∨ (i = 0x2600 ∧ k = 0xC))
        (looseSpans s.part s.ctl) [] s t) ∧
    (∀ k rt, k < 4 → effVal s.part s.ctl 0x2900 5 = 1 → isHarbour s.part s.ctl = false →
      routeUp s.part s.ctl s.ctl.links.harbour = some k → ∃ t, exec (.barrierCalibrationDone k rt) s = .next t ∧
        odVal s.part t.ctl 0x2601 (k + 1) = min 65535 ((rt + 1) / 2) ∧
        Touches [.od] (entries [(0x2601, k + 1)]) [] [] s t)

/-- O39. Writes that arm, start and calibrate the barrier (13 R388, R389): BarrierArm reads 1 and the device is armed
once there is a harbour; BarrierGo on the harbour, while some member has not armed, starts the wait of
BarrierTimeout; BarrierCalibrate on the harbour sends a calibration pulse to every routed member. -/
def Obligations.BarrierWritesArmAndStart : Prop :=
  ∀ (s : State) (w : OdW),
    (Accepted s 0x2600 0xC w → offered 0x2600 0xC w ≠ 0 → s.ctl.links.harbour ≠ 255 →
      ∃ t, exec (.barrierArm w) s = .next t ∧ odVal s.part t.ctl 0x2600 0xC = 1 ∧ t.ctl.barrier.armed = true ∧
        TouchesInput [.barrier] (entries [(0x2600, 0xC), (0x2600, 0xE)]) [] [] s t) ∧
    (∀ m, Accepted s 0x2600 0xD w → offered 0x2600 0xD w ≠ 0 → isHarbour s.part s.ctl = true →
      s.ctl.barrier.until_ = none → m ∈ allMembers s.part s.ctl → s.ctl.barrier.got.contains m.id = false →
      ∃ t, exec (.barrierGo w) s = .next t ∧
        t.ctl.barrier = { s.ctl.barrier with
          until_ := some ((s.ctl.time.value + odVal s.part s.ctl 0x2600 0xF * us) % 2 ^ 64) } ∧
        TouchesInput [.barrier] noEntry [] [] s t) ∧
    (Accepted s 0x2600 0x10 w → offered 0x2600 0x10 w ≠ 0 → isHarbour s.part s.ctl = true →
      ∃ t, exec (.barrierCalibrate w) s = .next t ∧
        (∀ m k, m ∈ allMembers s.part s.ctl → m.id ≠ archId s.part s.ctl → routeUp s.part s.ctl m.id = some k →
          .sideband k .calibrate ∈ t.ctl.out) ∧
        TouchesInput [] noEntry [] [] s t)

/-! ## Host links, CAN, the monitor and JTAG (16, 17, 18, 19) -/

/-- O40. PCIe (16 R456-R460, 19 R531): configuration requests are answered, with Retry Status until
configuration-ready; an MSI-X vector that is pending is sent once it is unmasked (10 R314); DL_Up sets PcieLink; PERST1_N released lets link 1 run; a BAR2 write to DRAM data that the host
may reach is stored, any other is dropped and counted; a miss answers 0 on BAR0 and ones on BAR2, and counts. -/
def Obligations.LinkEventsReachTheFunctions : Prop :=
  ∀ s : State,
    (∀ fn x, fnReached s.ctl fn = true → ∃ t, exec (.configurationRequest fn x) s = .next t ∧
      t.ctl.out.getLast? = some (.config fn s.ctl.boot.cfgReady) ∧ Touches [.links] noEntry [] [] s t ∧
      (x = .none ∨ s.ctl.boot.cfgReady = false →
        t.ctl.out = [.config fn s.ctl.boot.cfgReady] ∧ Touches [] noEntry [] [] s t) ∧
      (∀ n addr data, x = .entry n addr data false → s.ctl.boot.cfgReady = true → n < 16 →
        (getFn s.ctl fn).msix.enable = true → (getFn s.ctl fn).msix.mask = false →
        (getFn s.ctl fn).msix.pending.testBit n = true →
        .msix fn n addr data ∈ t.ctl.out ∧ (getFn t.ctl fn).msix.pending.testBit n = false)) ∧
    (∀ link speed width, s.ctl.boot.started = true → hasLink s.ctl link = true → (s.ctl.links.perst1 = false ∨ link ≠ 1) →
      ∃ t, exec (.dlUp link speed width) s = .next t ∧
        look 0 link t.ctl.links.pcie = speed % 16 + 16 * (width % 16) ∧
        (∀ x, x ≠ link → look 0 x t.ctl.links.pcie = look 0 x s.ctl.links.pcie) ∧ Touches [.links] noEntry [] [] s t) ∧
    (s.ctl.boot.started = true → s.ctl.boot.bifur = true → ∃ t, exec .perst1NDeassert s = .next t ∧
      t.ctl.links = { s.ctl.links with perst1 := false } ∧ Touches [.links] noEntry [] [] s t) ∧
    (∀ fn off bytes, fnReached s.ctl fn = true → isPf s.ctl fn = true → s.ctl.boot.cfgReady = true →
      (bar2Open s.part s.ctl off bytes.length = true → Memory.wf s.mems = true →
        ∃ t, exec (.bar2Write fn off bytes) s = .next t ∧ devBytes t.mems off bytes.length = bytes ∧
          Touches [] noEntry [(off, bytes.length)] [] s t) ∧
      (bar2Open s.part s.ctl off bytes.length = false → ∃ t, exec (.bar2Write fn off bytes) s = .next t ∧
        odVal s.part t.ctl 0x2960 4 = satN 64 (odVal s.part s.ctl 0x2960 4 + 1) ∧
        Touches [.od] (entries [(0x2960, 4)]) [] [] s t)) ∧
    (∀ fn bar2 off write, fnReached s.ctl fn = true → s.ctl.boot.cfgReady = true →
      (bar2 = true → isPf s.ctl fn = true ∧ bar2Open s.part s.ctl off 1 = false) →
      ∃ t, exec (.barMiss fn bar2 off write) s = .next t ∧
        t.ctl.out = (if write then [] else [.barRead fn bar2]) ∧
        odVal s.part t.ctl 0x2960 4 = satN 64 (odVal s.part s.ctl 0x2960 4 + 1) ∧
        Touches [.od] (entries [(0x2960, 4)]) [] [] s t)

/-- O41. Resets of functions (16 R458, 19 R531): a function-level reset of a virtual function, or of a physical
function with all of its link's, a DL_Down and PERST1_N in x4 + x4 mode leave every queue of the functions
DISABLED and empty, with MsgRingDepth 0 and MSI-X as after a cold start; a link that goes down reads 0 in PcieLink. -/
def Obligations.FunctionResetsStopTheirQueues : Prop :=
  ∀ (s : State) (i : Instr) (l : List Nat),
    ((∃ fn, i = .functionLevelReset fn ∧ fnReached s.ctl fn = true ∧ l = resetSet s.ctl fn) ∨
      (∃ link, i = .dlDown link ∧ s.ctl.boot.started = true ∧ hasLink s.ctl link = true ∧ l = linkFns s.ctl link) ∨
      (i = .perst1NAssert ∧ s.ctl.boot.started = true ∧ s.ctl.boot.bifur = true ∧ l = linkFns s.ctl 1)) →
    ∃ t, exec i s = .next t ∧
      (∀ q, l.contains (queueFn s.part s.ctl q) = true → getQ t.ctl q = {}) ∧
      (∀ n, n ∈ l → odVal s.part t.ctl (0x2410 + n) 0xA = 0 ∧ (getFn t.ctl n).msix = {}) ∧
      (∀ link, i = .dlDown link → look 0 link t.ctl.links.pcie = 0) ∧
      (i = .perst1NAssert → look 0 1 t.ctl.links.pcie = 0 ∧ t.ctl.links.perst1 = true) ∧
      Touches ([.faults, .journal, .links] ++ settlePieces)
        (fun x k => settleEntry x k ∨ (x = 0x2700 ∧ k = 0xE) ∨ (0x2410 ≤ x ∧ x ≤ 0x2420 ∧ k = 0xA))
        (looseSpans s.part s.ctl) [] s t

/-- O42. The CAN node (16 R476, 18 R510, R518): an NMT command for this node, once its boot-up message is sent,
starts, stops or makes it pre-operational; both resets clear its state and send the boot-up message again; the
heartbeat shows the NMT state while a producer time is set; a segmented transfer that times out is aborted. -/
def Obligations.CanNodeFollowsNmt : Prop :=
  ∀ s : State,
    (∀ (i : Instr) (node x : Nat), nmtForUs s.part s.ctl node = true →
      ((i = .nmtStartRemoteNode node ∧ x = 5) ∨ (i = .nmtStop node ∧ x = 4) ∨ (i = .nmtEnterPreOperational node ∧ x = 127)) →
      ∃ t, exec i s = .next t ∧ t.ctl.links.can = { s.ctl.links.can with nmt := x } ∧
        Touches [.links] noEntry [] [] s t) ∧
    (∀ (i : Instr) (node : Nat), nmtForUs s.part s.ctl node = true →
      (i = .nmtResetCommunication node ∨ i = .nmtResetNode node) →
      ∃ t, exec i s = .next t ∧ t.ctl.links.can = { nmt := 127 } ∧
        t.ctl.out = [.can (0x700 + effVal s.part s.ctl 0x2918 1) [0]] ∧ Touches [.links] noEntry [] [] s t) ∧
    (s.ctl.links.can.nmt ≠ 0 → odVal s.part s.ctl 0x1017 0 ≠ 0 → ∃ t, exec .canHeartbeat s = .next t ∧
      t.ctl.out = [.can (0x700 + effVal s.part s.ctl 0x2918 1) [BitVec.ofNat 8 s.ctl.links.can.nmt]] ∧
      Touches [] noEntry [] [] s t) ∧
    (∀ x, s.ctl.links.can.segmented = some x → ∃ t, exec .usdoSegmentTimeout s = .next t ∧
      t.ctl.links.can = { s.ctl.links.can with segmented := none } ∧
      t.ctl.out = [.od .can (.abort 0x05040000)] ∧ Touches [.links] noEntry [] [] s t)

/-- O43. The monitor and JTAG (16 R477, R478, 17 R484, R498). From configuration-ready a line answers: `ver`
and `state` their numbers; from the setup state `keys`, `links`, `log` and `mem r` theirs, before it NOT_READY; a
line that does not parse, SYNTAX. A JTAG instruction is selected, those that reach the pins only while the seal is
clear. -/
def Obligations.MonitorAndJtagAnswer : Prop :=
  ∀ (s : State) (i : Instr),
    (∀ l, s.ctl.boot.cfgReady = true →
      ((i = .clouxVer ∧ l = numbers [variantCode s.part, s.part.arithLevel, s.ctl.boot.build]) ∨
        (i = .clouxState ∧ l = numbers [modeCode s.ctl.safety.mode, s.ctl.time.state, twinRole s.part s.ctl,
          s.ctl.links.harbour, fltState s.ctl]) ∨
        (i = .clouxSyntaxError ∧ l = errLine wordSyntax)) →
      ∃ t, exec i s = .next t ∧ t.ctl.out = [.monitor l] ∧ Touches [] noEntry [] [] s t) ∧
    (∀ l, s.ctl.boot.cfgReady = true →
      ((i = .clouxKeys ∧ l = numbers [odVal s.part s.ctl 0x2600 1, odVal s.part s.ctl 0x2600 2]) ∨
        (i = .clouxLinks ∧ l = numbers (((List.range 2).filter (hasLink s.ctl)).map (fun k => look 0 k s.ctl.links.pcie) ++
          (List.range 4).map (fun k => (getCw s.ctl k).state) ++
          (List.range 6).map fun m => b2n (macIsUp s.part s.ctl m))) ∨
        (∃ n, i = .clouxLog n ∧ l = okLine [hexBytes (faultRecord s.part s.ctl n)]) ∨
        (∃ a n, i = .clouxMemR a n ∧
          ((1 ≤ n ∧ n ≤ 256 ∧ a + n ≤ dramLimit s.part s.ctl ∧ l = okLine [hexBytes (devBytes s.mems a n)]) ∨
            ((n = 0 ∨ 256 < n ∨ dramLimit s.part s.ctl < a + n) ∧ l = errLine wordRange)))) →
      ∃ t, exec i s = .next t ∧
        t.ctl.out = [.monitor (if pastBoot s.ctl then l else errLine wordNotReady)] ∧ Touches [] noEntry [] [] s t) ∧
    (∀ k, ((i = .bypass ∧ k = 0) ∨ (i = .idcode ∧ k = 1) ∨ (i = .samplePreload ∧ k = 2) ∨ (i = .extest ∧ k = 3) ∨
        (i = .extestPulse ∧ k = 4) ∨ (i = .extestTrain ∧ k = 5) ∨ (i = .clamp ∧ k = 6) ∨ (i = .highz ∧ k = 7)) →
      ∃ t, exec i s = .next t ∧
        (s.ctl.boot.sealed = false →
          t.ctl.links.jtag = { inst := k, drive := decide (3 ≤ k) && decide (k ≤ 6) }) ∧
        (s.ctl.boot.sealed = true → t.ctl.links.jtag = { inst := if 3 ≤ k then 0 else k, drive := false }) ∧
        (k = 0 → t.ctl.out = [.jtag 1 0]) ∧
        (k = 1 → t.ctl.out = [.jtag 32 (s.part.stepping % 16 * 2 ^ 28 + variantCode s.part * 2 ^ 12 +
          Config.jedecId.toNat * 2 + 1)]) ∧
        Touches [.links] noEntry [] [] s t)

/-! ## Boot and the safe state (17, 14) -/

/-- O44. The cold start (17 R481-R488, R497, 12 R359, R537, 03 R108, R110): PERST_N takes the device out of reset with
its straps, every present domain on and fusion time 0; the error pins; DRAM trained, its reserve and then the rest
filled with zeros; the arrays' spare maps; configuration-ready; an image fetched and checked, verified and recorded, or
an ERROR and AWAIT_IMAGE; the setup state once the fill is complete and two cores have passed, else the device is
FAILED. -/
def Obligations.BootAdvancesByItsEvents : Prop :=
  ∀ s : State,
    (∀ bifur harbour, s.ctl.boot.started = false → ∃ t, exec (.coldStart bifur harbour true) s = .next t ∧
      t.ctl.boot = { started := true
                     bifur := bifur
                     harbourSel := harbour
                     splitLatched := decide (s.fuses.splitMode = 1) } ∧
      t.ctl.od = [] ∧ t.ctl.eff = [] ∧ fullTime t.ctl.time = 0 ∧ t.ctl.time.track0.status = 1 ∧
      (∀ d, pdOf t.ctl d = if d < 48 ∧ hasDomain s.part d = true then .on else .off) ∧
      t.mems = s.mems ∧ t.part = s.part ∧ t.fuses = s.fuses ∧ t.pending = s.pending) ∧
    (s.ctl.boot.started = true → ∃ t, exec .errorPinsActivate s = .next t ∧
      t.ctl.boot = { s.ctl.boot with pinsOn := true } ∧ Touches [.boot] noEntry [] [] s t) ∧
    (∀ chA chB density uniform, s.ctl.boot.started = true → s.ctl.boot.trained = false → s.ctl.boot.stage = .booting →
      (population s.part chA chB ≠ 0 → uniform = true → (density = 16 ∨ density = 24 ∨ density = 32) →
        ∃ t, exec (.dramTrainingDone chA chB density uniform) s = .next t ∧
          t.ctl.boot = { s.ctl.boot with trained := true } ∧
          odVal s.part t.ctl 0x2500 1 = population s.part chA chB ∧ odVal s.part t.ctl 0x2500 2 = density ∧
          Touches [.boot, .od] (entries [(0x2500, 1), (0x2500, 2)]) [] [] s t) ∧
      (population s.part chA chB = 0 ∨ uniform = false ∨ (density ≠ 16 ∧ density ≠ 24 ∧ density ≠ 32) →
        s.ctl.safety.mode ≠ .failed → ∃ t, exec (.dramTrainingDone chA chB density uniform) s = .next t ∧
          t.ctl.safety.mode = .failed ∧ t.ctl.boot.error = 9)) ∧
    (s.ctl.boot.trained = true → s.ctl.boot.reserveFilled = false → ∃ t, exec .dramFillReserveDone s = .next t ∧
      t.ctl.boot = { s.ctl.boot with reserveFilled := true } ∧
      (∀ a, dramLimit s.part s.ctl ≤ a → a < dramLimit s.part s.ctl + 2 ^ 28 → a < dramTop → devByte t.mems a = 0) ∧
      Touches [.boot] noEntry [(dramLimit s.part s.ctl, 2 ^ 28)] [] s t) ∧
    (s.ctl.boot.reserveFilled = true → s.ctl.boot.filled = false → ∃ t, exec .dramFillDone s = .next t ∧
      t.ctl.boot = { s.ctl.boot with filled := true } ∧
      (∀ a, a < dramLimit s.part s.ctl → a < dramTop → devByte t.mems a = 0) ∧
      Touches [.boot] noEntry [(0, dramLimit s.part s.ctl)] [] s t) ∧
    (∀ maps bad, s.ctl.boot.started = true → s.ctl.boot.arrays = false →
      ∃ t, exec (.arrayBootSelfTestDone maps bad) s = .next t ∧ t.ctl.boot = { s.ctl.boot with arrays := true } ∧
        (∀ b, b < 32 → hasBlock s.part b = true →
          odVal s.part t.ctl (0x3010 + 0x100 * (b / 4)) (1 + b % 4) = spareMap (maps.getD b 0) ∧
          (bad.testBit b = true → fencedUnit t.ctl b = true ∧ ∃ r ∈ t.ctl.faults.inbox, r.mech = 26 ∧ r.unit = b)) ∧
        (bad = 0 → Touches [.boot, .od] (fun i k => 0x3010 ≤ i ∧ 1 ≤ k ∧ k ≤ 4) [] [] s t)) ∧
    (s.ctl.boot.started = true → s.ctl.boot.cfgReady = false →
      ((s.ctl.boot.trained = true ∧ s.ctl.boot.arrays = true) ∨ s.ctl.safety.mode = .failed) →
      ∃ t, exec .configurationReady s = .next t ∧
        t.ctl.boot = { s.ctl.boot with
          cfgReady := true
          stage := if s.ctl.boot.stage = .booting then .awaitImage else s.ctl.boot.stage } ∧
        Touches [.boot] noEntry [] [] s t) ∧
    (∀ n img, s.ctl.boot.stage = .loading → s.ctl.boot.fetched = false → s.ctl.boot.reserveFilled = true →
      s.ctl.safety.mode ≠ .failed → n = odVal s.part s.ctl 0x2A00 3 →
      img = hostBytes s.mems (64 * odVal s.part s.ctl 0x2A00 2) n → Memory.wf s.mems = true →
      (∃ t, exec (.imageFetchDone true) s = .next t ∧ devBytes t.mems (imageArea s.part s.ctl) n = img ∧
        t.ctl.boot = (match checkHeader s.view n img with
          | none => { s.ctl.boot with fetched := true }
          | some e => { s.ctl.boot with
              error := e
              stage := .awaitImage
              fetched := false }) ∧
        Touches [.boot] noEntry [(imageArea s.part s.ctl, n)] [] s t) ∧
      ∃ t, exec (.imageFetchDone false) s = .next t ∧
        t.ctl.boot = { s.ctl.boot with
          error := 1
          stage := .awaitImage
          fetched := false } ∧
        Touches [.boot, .free] noEntry [(imageArea s.part s.ctl, n)] [] s t) ∧
    (∀ img, s.ctl.boot.stage = .loading → s.ctl.boot.fetched = true → s.ctl.safety.mode ≠ .failed →
      img = imageHeld s.view s.ctl → ∃ t, exec .imageVerifyDone s = .next t ∧
        t.ctl.boot = (match checkSignature s.view img with
          | none => { s.ctl.boot with
              stage := .starting
              digest := sha512 img
              svn := imgBits img 96 8
              keySlot := imgBits img 104 2
              build := imgBits img 128 32
              hasPartition := decide (imgBits img 256 32 ≠ 0) }
          | some e => { s.ctl.boot with
              error := e
              stage := .awaitImage
              fetched := false }) ∧
        Touches [.boot] noEntry [] [] s t) ∧
    (∀ cores, s.ctl.boot.stage = .starting → s.ctl.boot.filled = true → s.ctl.safety.mode ≠ .failed →
      (2 ≤ ((List.range 3).filter cores.testBit).length → ∃ t, exec (.setupStateReached cores) s = .next t ∧
        t.ctl.boot = { s.ctl.boot with stage := .setup } ∧
        t.ctl.safety.cores = startCores cores t.ctl.safety.splitActive ∧
        t.ctl.safety.splitActive =
          (s.ctl.boot.splitLatched && s.ctl.boot.hasPartition && (List.range 3).all cores.testBit) ∧
        t.ctl.links.can.nmt = 127 ∧ Touches [.boot, .safety, .links] noEntry [] [] s t) ∧
      (((List.range 3).filter cores.testBit).length < 2 → ∃ t, exec (.setupStateReached cores) s = .next t ∧
        t.ctl.safety.mode = .failed ∧ t.ctl.boot.error = 10))

/-- O45. The phases of the safe state (14 R427, R428, 17 R500, 16 R473): transmissions not started are dropped
and an export under way stops; every queue is DISABLED and empty, no client runs and no replay; the reset step
empties scratch, lagoons, FIFOs, blocks, sequences, pairs and votes and rebuilds the pools, keeping sync objects and the fault log, with the crypto engine on; the image is verified
again, or the device is FAILED; a dropped core is in service again; every checker is tested; then the device is in
service and the twin may become ACTIVE. -/
def Obligations.SafeStatePhasesInOrder : Prop :=
  ∀ s : State,
    (inPhase s.ctl 0 = true → ∃ t, exec .safeStateDispatchStop s = .next t ∧ t.ctl.safety.phase = 1 ∧
      t.ctl.safety.mode = s.ctl.safety.mode ∧ (∀ ch, (look {} ch t.ctl.links.tx).queue = []) ∧
      (∀ a n l, s.ctl.fleet = a :: n :: l → t.ctl.fleet = [] ∧ odVal s.part t.ctl 0x2890 8 = 0) ∧
      Touches (.links :: .fleet :: settlePieces)
        (fun i k => settleEntry i k ∨ (0x2920 ≤ i ∧ k = 7) ∨ (i = 0x2890 ∧ k = 8))
        (exportSpans s.ctl ++ looseSpans s.part s.ctl) [] s t) ∧
    (inPhase s.ctl 1 = true → ∃ t, exec .safeStateWorkStop s = .next t ∧ t.ctl.safety.phase = 2 ∧
      (∀ q, (getQ t.ctl q).state = .disabled ∧ (getQ t.ctl q).cmds = []) ∧
      (∀ cls n, (getS t.ctl cls n).state = .idle) ∧ t.ctl.journal.replay = none ∧ t.ctl.appends = [] ∧
      t.ctl.sched.running = [] ∧ t.ctl.sched.windows = [] ∧ t.ctl.sched.ferry = [] ∧ t.ctl.sched.redo = [] ∧
      t.part = s.part ∧ t.fuses = s.fuses ∧ t.pending = s.pending ∧
      Frame ([.time, .links, .img, .vd, .pts, .journal, .barrier, .fleet] ++ settlePieces) s.ctl t.ctl) ∧
    (inPhase s.ctl 2 = true → ∃ t, exec .safeStateReset s = .next t ∧ t.ctl.safety.phase = 3 ∧
      t.ctl.queues = [] ∧ t.ctl.fifos = [] ∧ t.ctl.blocks = [] ∧ t.ctl.seqs = [] ∧ t.ctl.safety.pairs = [] ∧
      t.ctl.safety.votes = [] ∧ t.ctl.safety.third = [] ∧ odVal s.part t.ctl 0x2310 1 = 0 ∧
      (∀ n, n < 64 → odVal s.part t.ctl (0x2440 + n) 0xA = 0 ∧
        odVal s.part t.ctl (0x2B40 + n) 5 = effVal s.part s.ctl (0x2B40 + n) 3) ∧
      (∀ i, i < isles s.part → pdOn s.ctl (lagoonDomain i) = true →
        look 0 (32 + i) t.mems.gens = look 0 (32 + i) s.mems.gens + 1) ∧
      (∀ b, b < 32 → hasBlock s.part b = true → pdOn s.ctl (blockDomain b) = true →
        look 0 b t.mems.gens = look 0 b s.mems.gens + 1) ∧
      (pdOf s.ctl 45 = .off → pdOf t.ctl 45 = .poweringUp) ∧
      Touches [.od, .safety, .power, .sched, .blocks, .readers, .queues, .fifos, .seqs, .appends, .walks, .listCache]
        (fun i k => (i = 0x2310 ∧ k = 1) ∨ (0x2440 ≤ i ∧ i < 0x2480 ∧ k = 0xA) ∨ (i = 0x2700 ∧ k = 0x16) ∨
          (0x2B40 ≤ i ∧ k = 5))
        ((dramTop, scratchBase 32 - dramTop) ::
          tab 64 fun n => (64 * effVal s.part s.ctl (0x2B40 + n) 4, 4 * effVal s.part s.ctl (0x2B40 + n) 3)) [] s t) ∧
    (inPhase s.ctl 3 = true → pdOn s.ctl 45 = true → ∃ t, exec .imageReverify s = .next t ∧
      pdOf t.ctl 45 = (if odVal s.part s.ctl 0x2110 46 = 0 then .shuttingDown else .on) ∧
      (imageGood s.view s.ctl = true →
        t.ctl.safety = { s.ctl.safety with phase := 4 } ∧ Touches [.safety, .power] noEntry [] [] s t) ∧
      (imageGood s.view s.ctl = false → t.ctl.safety.mode = .failed ∧
        t.ctl.boot = { s.ctl.boot with error := 11 } ∧
        Touches ([.boot, .power, .links, .barrier] ++ settlePieces)
          (fun i k => settleEntry i k ∨ (i = 0x2600 ∧ k = 0xC)) (looseSpans s.part s.ctl) [] s t)) ∧
    (inPhase s.ctl 4 = true → ∃ t, exec .safeStateCoresRestart s = .next t ∧
      t.ctl.safety = { s.ctl.safety with
        phase := 5
        cores := s.ctl.safety.cores.map fun x => if x = .resync then .inService else x
        copying := [false, false, false]
        copied := [false, false, false] } ∧ Touches [.safety] noEntry [] [] s t) ∧
    (inPhase s.ctl 5 = true → ∃ t, exec .safeStateCheckerTests s = .next t ∧ t.ctl.safety.phase = 6 ∧
      t.ctl.safety.warned = [] ∧
      (∀ x, x ∈ allCheckers → checkerPresent s.part s.ctl x = true → testedAt t.ctl x = s.ctl.time.value) ∧
      Touches [.safety] noEntry [] [] s t) ∧
    (inPhase s.ctl 6 = true → ∃ t, exec .safeStateServiceReady s = .next t ∧ t.ctl.safety.phase = 0 ∧
      t.ctl.safety.mode = .inService ∧ t.ctl.links.twin.yield = false ∧
      Touches [.free, .od, .safety, .links, .barrier]
        (fun i k => messageEntry 0 i k ∨ (i = 0x2600 ∧ k = 0xC)) [] [ringSpan s.part s.ctl 0] s t)

/-! ## The scheduler (11) -/

/-- O46. Kernel boundaries, moves of windows and deadlines (11 R322-R336): at a boundary of an idle unit, or of one
without a live layer, the client of least virtual time is selected; a live layer goes on until it is pre-empted, which
counts, and is displaced then; a spill or fill moves the bytes of the named windows and marks them, and a queued one has
then executed; a task whose DoneSync has reached its target is met, else missed and counted, and its tier follows
MissToDowngrade and MetToUpgrade. -/
def Obligations.SchedulerEventsAct : Prop :=
  ∀ s : State,
    (∀ u cur, dispatching s.ctl = true → atBoundary s.ctl u = true → (u < 32 → moving s.ctl u = false) →
      (u < 32 ∨ u = 0x28 ∨ u = 0x29 ∨ (0x2D ≤ u ∧ u ≤ 0x2F)) → cur = look 0 u s.ctl.sched.running →
      (∀ n, selectClient s.part s.ctl u = some n → (cur = 0 ∨ ¬ (u < 32 ∧ isLive s.ctl (cur - 1) u = true)) →
        ∃ t, exec (.kernelBoundary u) s = .next t ∧ look 0 u t.ctl.sched.running = n + 1 ∧
          (∀ x, x ≠ u → look 0 x t.ctl.sched.running = look 0 x s.ctl.sched.running) ∧
          Touches [.free, .od, .sched, .queues] (entries [(0x4000 + n, 7)]) [] [] s t) ∧
      (∀ r, cur = r + 1 → u < 32 → isLive s.ctl r u = true →
        (preempted s.part s.ctl u r = false → ∃ t, exec (.kernelBoundary u) s = .next t ∧
          t.ctl.sched.running = s.ctl.sched.running ∧ Touches [.sched] noEntry [] [] s t) ∧
        (∀ n, preempted s.part s.ctl u r = true → selectClient s.part s.ctl u = some n → n ≠ r →
          ∃ t, exec (.kernelBoundary u) s = .next t ∧ look 0 u t.ctl.sched.running = n + 1 ∧
            odVal s.part t.ctl 0x2400 3 = satN 64 (odVal s.part s.ctl 0x2400 3 + 1) ∧
            odVal s.part t.ctl (0x4000 + r) 9 = satN 32 (odVal s.part s.ctl (0x4000 + r) 9 + 1) ∧
            Touches [.free, .od, .sched, .queues, .seqs]
              (fun i k => (i = 0x2400 ∧ 3 ≤ k ∧ k ≤ 5) ∨ (0x4000 ≤ i ∧ (k = 7 ∨ k = 9 ∨ k = 0xA))) [] [] s t))) ∧
    (∀ (i : Instr) (req : SpillReq) (fill : Bool) (cl isle mask : Nat) (src dst : Nat → Nat) (len : Nat),
      ((i = .dmSpill req .none ∧ fill = false) ∨ (i = .dmFill req .none ∧ fill = true)) →
      len = 64 * (windowSpan s.part s.ctl cl).2 → (windowSpan s.part s.ctl cl).2 ≤ 0x8000 →
      (∀ b, src b = if fill then (windowPlaces s.part s.ctl cl (4 * isle + b)).2.1
        else (windowPlaces s.part s.ctl cl (4 * isle + b)).1) →
      (∀ b, dst b = if fill then (windowPlaces s.part s.ctl cl (4 * isle + b)).1
        else (windowPlaces s.part s.ctl cl (4 * isle + b)).2.1) →
      (∀ b, b < 4 → mask.testBit b = true → poisonedIn s.mems (src b) len = false) → Memory.wf s.mems = true →
      s.ctl.boot.testActive = false →
      (∀ ev why rest, req = .device cl isle mask ev →
        s.ctl.sched.ferry = ({ client := cl, isle := isle, mask := mask, fill := fill, why := why } : Job) :: rest →
        enginesRun s.ctl = true → atBoundary s.ctl 0x2D = true →
        (∀ b, b < 4 → mask.testBit b = true → getW s.ctl cl (4 * isle + b) ≠ {}) →
        ∃ t, exec i s = .next t ∧ t.ctl.sched.ferry = rest ∧
          (∀ b, b < 4 → mask.testBit b = true →
            ((getW t.ctl cl (4 * isle + b)).live ≠ [] → (getW t.ctl cl (4 * isle + b)).spilled = !fill) ∧
            ((∀ a, a < len → outside (looseSpans s.part s.ctl) (dst b + a)) →
              devBytes t.mems (dst b) len = devBytes s.mems (src b) len)) ∧
          Touches settlePieces (fun i k => settleEntry i k ∨ (0x4000 ≤ i ∧ (k = 7 ∨ k = 8)))
            ((tab 4 fun b => (dst b, len)) ++ looseSpans s.part s.ctl) [] s t) ∧
      (∀ r m, req = .queued r → Turn s r 5 2 m → (fld m.desc 64 1 = 1 ↔ fill = true) →
        mask = fld m.desc 68 4 → isle = fld m.desc 72 3 → cl = fld m.desc 80 8 →
        (look [] isle s.ctl.sched.resident).contains cl = true →
        (fill = true → ∀ b, b < 4 → mask.testBit b = true → (getW s.ctl cl (4 * isle + b)).spilled = true) →
        (∀ b, b < 4 → mask.testBit b = true → atBoundary s.ctl (4 * isle + b) = true ∧
          ∀ e ∈ onUnit s.ctl (4 * isle + b), (getQ s.ctl e.1).ctx.client ≠ cl) →
        ∃ t, exec i s = .next t ∧ Executed t r m ∧
          (∀ b, b < 4 → mask.testBit b = true → (getW t.ctl cl (4 * isle + b)).spilled = !fill ∧
            devBytes t.mems (dst b) len = devBytes s.mems (src b) len) ∧
          Touches enginePieces (fun i k => engineEntry i k ∨ (0x4000 ≤ i ∧ k = 0xD)) (tab 4 fun b => (dst b, len)) [] s t)) ∧
    (∀ n o rest fn tier met, n < 64 → (getTask s.ctl n).open_ = o :: rest → odVal s.part s.ctl (0x2440 + n) 2 = 1 →
      tier = odVal s.part s.ctl (0x2440 + n) 0xA → fn = owner s.part s.ctl .client (effVal s.part s.ctl (0x2440 + n) 1) →
      met = decide (o.target ≤ getSync s.ctl (effVal s.part s.ctl (0x2440 + n) 3)) →
      ∃ t, exec (.taskDeadline n) s = .next t ∧ (getTask t.ctl n).open_ = rest ∧
        (met = true → (getTask t.ctl n).misses = 0 ∧
          odVal s.part t.ctl (0x2440 + n) 0xB = odVal s.part s.ctl (0x2440 + n) 0xB ∧
          odVal s.part t.ctl (0x2440 + n) 0xA =
            (if odVal s.part s.ctl (0x2440 + n) 9 ≤ (getTask s.ctl n).mets + 1 ∧ 0 < tier then tier - 1 else tier)) ∧
        (met = false → (getTask t.ctl n).mets = 0 ∧
          odVal s.part t.ctl (0x2440 + n) 0xB = satN 32 (odVal s.part s.ctl (0x2440 + n) 0xB + 1) ∧
          odVal s.part t.ctl (0x2440 + n) 0xA =
            (if odVal s.part s.ctl (0x2440 + n) 8 ≤ (getTask s.ctl n).misses + 1 ∧
              tier + 1 < effVal s.part s.ctl (0x2440 + n) 7 then tier + 1 else tier)) ∧
        (∀ k, k ≠ n → getTask t.ctl k = getTask s.ctl k) ∧
        Touches [.time, .sched, .od, .links]
          (fun i k => (i = 0x2440 + n ∧ (k = 0xA ∨ k = 0xB)) ∨ messageEntry fn i k) [] [ringSpan s.part s.ctl fn] s t)

/-! ## Faults (15), scrubs and DRAM (12) -/

/-- O47. Fault records (15 R432-R441): a collector forwards its oldest record, an overflow before it, and a MECH 25
record in place of one found uncorrected; the isle collector fences a block for an overflow and for a second contained
record; the chip collector logs its oldest with the next index, counts its class, starts its timer and gives the commands
that it stopped FAULTED with that index, or merges a correctable one into the record of the same place; a unit that waits
for room gets it; a timer that expires closes or escalates its record and fences the unit or enters the safe state. -/
def Obligations.FaultRecordsMoveAndAct : Prop :=
  ∀ s : State,
    (∀ b r rest, (look {} b s.ctl.faults.blocks).overflow = none → (look {} b s.ctl.faults.blocks).recs = r :: rest →
      fencesBlock s.ctl b r = false → mergeRec r (look {} (b / 4) s.ctl.faults.isles).recs = none →
      (look {} (b / 4) s.ctl.faults.isles).recs.length < 64 →
      ∃ t, exec (.faultRecordForwarded (.block b) false) s = .next t ∧ (look {} b t.ctl.faults.blocks).recs = rest ∧
        (look {} (b / 4) t.ctl.faults.isles).recs = placeRec r (look {} (b / 4) s.ctl.faults.isles).recs ∧
        Touches [.faults] noEntry [] [] s t) ∧
    (∀ b r rest, b < 32 → hasBlock s.part b = true → fencedUnit s.ctl (32 + b / 4) = false →
      ((look {} b s.ctl.faults.blocks).overflow = some r ∨
        ((look {} b s.ctl.faults.blocks).overflow = none ∧ (look {} b s.ctl.faults.blocks).recs = r :: rest)) →
      fencesBlock s.ctl b r = true →
      ∃ t, exec (.faultRecordForwarded (.block b) false) s = .next t ∧ fencedUnit t.ctl b = true ∧
        (fencedUnit s.ctl b = false → look {} b t.ctl.faults.blocks = {})) ∧
    (∀ b r rest, (look {} b s.ctl.faults.blocks).overflow = none → (look {} b s.ctl.faults.blocks).recs = r :: rest →
      ∃ t, exec (.faultRecordForwarded (.block b) true) s = .next t ∧ (look {} b t.ctl.faults.blocks).recs = rest ∧
        (∃ x ∈ t.ctl.faults.inbox, x.mech = 25 ∧ x.unit = b ∧ x.halts = r.halts) ∧ Touches [.faults] noEntry [] [] s t) ∧
    (∀ i r rest, (look {} i s.ctl.faults.isles).recs = r :: rest → mergeRec r s.ctl.faults.inbox = none →
      ∃ t, exec (.faultRecordForwarded (.isle i) false) s = .next t ∧ (look {} i t.ctl.faults.isles).recs = rest ∧
        t.ctl.faults.inbox = placeRec r s.ctl.faults.inbox ∧ Touches [.faults] noEntry [] [] s t) ∧
    (∀ (k : Collector) r rest (x : Coll) cap,
      ((∃ b, k = .block b ∧ x = look {} b s.ctl.faults.blocks ∧ cap = 32) ∨
        (∃ i, k = .isle i ∧ x = look {} i s.ctl.faults.isles ∧ cap = 64)) →
      x.waiting = r :: rest → x.recs.length < cap →
      ∃ t, exec (.collectorRoom k) s = .next t ∧
        (match k with
         | .block b => look {} b t.ctl.faults.blocks = { x with recs := x.recs ++ [r], waiting := rest }
         | .isle i => look {} i t.ctl.faults.isles = { x with recs := x.recs ++ [r], waiting := rest }) ∧
        Touches [.faults] noEntry [] [] s t) ∧
    (∀ r rest k, s.ctl.faults.inbox = r :: rest → mergeLogged r s.ctl.faults.log = some k → r.halts = [] →
      ∃ t, exec (.faultRecordLogged false) s = .next t ∧ t.ctl.faults.inbox = rest ∧ t.ctl.faults.log = k ∧
        t.ctl.faults.next = (s.ctl.faults.next + 1) % 2 ^ 32 ∧
        odVal s.part t.ctl 0x2802 1 = satN 64 (odVal s.part s.ctl 0x2802 1 + r.count) ∧
        Touches [.faults, .od] (entries [(0x2802, 1)]) [] [] s t) ∧
    (∀ r rest, s.ctl.faults.inbox = r :: rest → mergeLogged r s.ctl.faults.log = none → s.ctl.faults.log.length < 256 →
      ¬ (s.ctl.safety.mode = .notReady ∧ actsSafe r.mech r.unit = true) →
      ∃ t, exec (.faultRecordLogged false) s = .next t ∧ t.ctl.faults.inbox = rest ∧
        t.ctl.faults.next = (s.ctl.faults.next + 1) % 2 ^ 32 ∧
        t.ctl.faults.log = s.ctl.faults.log ++ [{
          index := s.ctl.faults.next
          rec_ := r
          cls := mechClass r.mech
          state := (openState s.part s.ctl r (mechClass r.mech)).1
          timer := (openState s.part s.ctl r (mechClass r.mech)).2
          time := s.ctl.time.value
          temp := s.ctl.power.temp
          vCore := s.ctl.power.vCore
          vArray := s.ctl.power.vArray
          vMem := s.ctl.power.vMem }] ∧
        odVal s.part t.ctl 0x2802 (mechClass r.mech + 1) =
          satN 64 (odVal s.part s.ctl 0x2802 (mechClass r.mech + 1) + r.count) ∧
        (∀ x ∈ r.halts, ∀ m, findCmd s.ctl x = some m → m.status = 0 → m.committed = false → m.redo = none →
          ∃ y, findCmd t.ctl x = some y ∧ y.status = 6 ∧ y.detail = s.ctl.faults.next % 65536) ∧
        Touches ([.faults, .links] ++ settlePieces)
          (fun i k => settleEntry i k ∨ messageEntry 0 i k ∨ (i = 0x2802 ∧ k = mechClass r.mech + 1))
          (looseSpans s.part s.ctl) [ringSpan s.part s.ctl 0] s t) ∧
    (∀ n l a, s.ctl.safety.mode = .inService → (allLogged s.ctl).find? (fun l => decide (l.index = n)) = some l →
      l.state = .opened → l.timer.isSome = true → a = actionOf l.rec_.mech l.rec_.unit →
      ∃ t, exec (.escalationTimerExpiry n) s = .next t ∧
        (∀ y ∈ allLogged t.ctl, y.index = n → y.state = (if a = .close then .closed else .escalated) ∧ y.timer = none) ∧
        odVal s.part t.ctl 0x2800 0xE = satN 32 (odVal s.part s.ctl 0x2800 0xE + 1) ∧
        (∀ u, a = .fenceUnit u → hasUnit s.part u = true → fencedUnit t.ctl u = true) ∧
        (a = .safe → t.ctl.safety.mode = .safeState ∨ t.ctl.safety.mode = .failed) ∧
        (a = .close → Touches [.faults, .time, .od] (entries [(0x2800, 0xE)]) [] [] s t))

/-- O48. Host requests to the fault system (15 R440-R443, R449, 14 R426, R431): FaultClear clears a record, and the
block that its command halted goes on; FenceRequest fences a unit below the engines, whose commands in execution
retire FAULTED; SafeStateRequest of 1 in service enters the safe state with cause 0, counts it, and leaves no timer
running; a fleet export ends with its signature in place, FleetStatus DONE and FleetSync signalled. -/
def Obligations.FaultRequestsAct : Prop :=
  ∀ (s : State) (w : OdW),
    (∀ n l, Accepted s 0x2800 3 w → n = offered 0x2800 3 w →
      (allLogged s.ctl).find? (fun l => decide (l.index = n)) = some l → isUncleared l = true →
      ∃ t, exec (.faultClear w) s = .next t ∧
        (∀ y ∈ allLogged t.ctl, y.index = n → y.state = .cleared ∧ y.timer = none) ∧
        (∀ r, l.rec_.unit < 32 → fencedUnit s.ctl l.rec_.unit = false → (getB s.ctl l.rec_.unit).haltedBy = some r →
          l.rec_.halts.contains r = true →
          (getB t.ctl l.rec_.unit).halted = false ∧ (getB t.ctl l.rec_.unit).haltedBy = none) ∧
        TouchesInput ([.faults, .blocks] ++ settlePieces) settleEntry (looseSpans s.part s.ctl) [] s t) ∧
    (∀ u, Accepted s 0x2800 4 w → u = offered 0x2800 4 w → hasUnit s.part u = true → fencedUnit s.ctl u = false →
      s.ctl.faults.log.length < 256 → ∃ t, exec (.fenceRequest w) s = .next t ∧ fencedUnit t.ctl u = true ∧
        t.ctl.faults.next = (s.ctl.faults.next + 1) % 2 ^ 32 ∧
        (∃ l ∈ t.ctl.faults.log, l.index = s.ctl.faults.next ∧ l.rec_.mech = 24 ∧ l.rec_.unit = u) ∧
        (∀ r m, findCmd s.ctl r = some m → coversUnit u (unitOfDesc m.desc) = true →
          (m.stage = .dispatched ∨ m.stage = .stopped ∨ m.stage = .executed) → m.status = 0 → m.committed = false →
          m.redo = none → ∃ x, findCmd t.ctl r = some x ∧ x.status = 6 ∧ x.detail = s.ctl.faults.next % 65536) ∧
        (u < 0x2A → TouchesInput ([.faults, .power] ++ settlePieces)
          (fun i k => settleEntry i k ∨ (i = 0x2802 ∧ k = 2) ∨ (i = 0x2700 ∧ k = 0xE) ∨ (i = 0x2800 ∧ k = 0xA))
          (looseSpans s.part s.ctl) [] s t)) ∧
    (Accepted s 0x2700 2 w → offered 0x2700 2 w = 1 → serving s.ctl = true →
      (s.ctl.safety.entries.filter fun t => decide (diff s.ctl.time.value t < ((60000000 * us : Nat) : Int))).length < 3 →
      ∃ t, exec (.safeStateRequest w) s = .next t ∧ t.ctl.safety.mode = .safeState ∧ t.ctl.safety.phase = 0 ∧
        odVal s.part t.ctl 0x2700 3 = satN 32 (odVal s.part s.ctl 0x2700 3 + 1) ∧ odVal s.part t.ctl 0x2700 4 = 0 ∧
        (∀ y ∈ allLogged t.ctl, y.timer = none ∧ y.state ≠ .opened) ∧
        TouchesInput ([.faults, .links, .barrier] ++ settlePieces)
          (fun i k => settleEntry i k ∨ (i = 0x2700 ∧ (k = 3 ∨ k = 4)) ∨ (i = 0x2600 ∧ k = 0xC))
          (looseSpans s.part s.ctl) [] s t) ∧
    (∀ a n first count mask sync sig, s.ctl.fleet = [a, n, first, count, mask, sync] →
      sig = coseSign1 s.part s.ctl.free (fleetPayload s.part s.ctl first count mask) → Memory.wf s.mems = true →
      (∀ j, j < sig.length → outside (looseSpans s.part s.ctl) (a + j)) →
      ∃ t, exec .fleetExportDone s = .next t ∧ devBytes t.mems a sig.length = sig ∧ t.ctl.fleet = [] ∧
        odVal s.part t.ctl 0x2890 8 = 2 ∧ odVal s.part t.ctl 0x2890 9 = sig.length ∧
        min (getSync s.ctl sync + 1) (2 ^ 64 - 1) ≤ getSync t.ctl sync ∧
        Touches (.fleet :: settlePieces) (fun i k => settleEntry i k ∨ (i = 0x2890 ∧ (k = 8 ∨ k = 9)))
          ((a, sig.length) :: looseSpans s.part s.ctl) [] s t)

/-- O49. Scrubs and DRAM (12 R345, R347, R358, R363, R364, R366, R535): a scrub that finds a word corrected counts and
records it; an uncorrected word is poisoned and recorded with its mechanism; a clean or already poisoned word
changes nothing. A refresh is issued with what was postponed, unless urgent reads wait; the refresh rate follows
the temperature readout; the end of a refresh window clears the activate tables. -/
def Obligations.ScrubsAndRefreshAct : Prop :=
  ∀ s : State, s.ctl.boot.testActive = false →
    (∀ (i : Instr) (addr idx okSub badSub okMech badMech : Nat) (f : Found),
      ((∃ b u k, i = .scratchScrub b u k f ∧ hasBlock s.part b = true ∧ b < 32 ∧ pdOn s.ctl (blockDomain b) = true ∧ u < 32768 ∧
          k < 8 ∧ addr = scratchBase b + 64 * u + 8 * k ∧ idx = 0x3023 + 0x100 * (b / 4) ∧ okSub = b % 4 + 1 ∧ badSub = 0 ∧
          okMech = 3 ∧ badMech = 4) ∨
        (∃ n line k, i = .lagoonScrub n line k f ∧ n < isles s.part ∧ pdOn s.ctl (lagoonDomain n) = true ∧ line < 8192 ∧
          k < 128 ∧ addr = lagoonBase n + 1024 * line + 8 * k ∧ idx = 0x3022 + 0x100 * n ∧ okSub = 1 ∧ badSub = 2 ∧
          okMech = 5 ∧ badMech = 6) ∨
        (∃ u, i = .dramPatrolScrub u f ∧ 64 * u + 64 ≤ usableBytes s.part s.ctl ∧ pdOn s.ctl (46 + halfOf u) = true ∧
          addr = 64 * u ∧ addr < dramTop ∧ idx = 0x2500 ∧ okSub = 7 ∧ badSub = 8 ∧ okMech = 7 ∧ badMech = 8)) →
      (f = .clean ∨ poisonedIn s.mems addr 1 = true → ∃ t, exec i s = .next t ∧ Touches [] noEntry [] [] s t) ∧
      (poisonedIn s.mems addr 1 = false → (f = .corrected ∨ f = .uncorrected) → ∃ t, exec i s = .next t ∧
        (f = .corrected → odVal s.part t.ctl idx okSub = satN 64 (odVal s.part s.ctl idx okSub + 1)) ∧
        (f = .uncorrected → poisonedIn t.mems addr 1 = true ∧
          (badSub ≠ 0 → odVal s.part t.ctl idx badSub = satN 64 (odVal s.part s.ctl idx badSub + 1))) ∧
        (badMech = 8 → f = .uncorrected → ∃ r ∈ t.ctl.faults.inbox, r.mech = 8 ∧ r.addr = addr) ∧
        (∀ a, devByte t.mems a = devByte s.mems a) ∧
        Touches [.od, .faults] (fun x k => (x = idx ∧ (k = okSub ∨ k = badSub)) ∨ (x = 0x2800 ∧ k = 0xA))
          [(wordOf addr, wordSize addr)] [] s t)) ∧
    (∀ half chan bank urgent, half < 2 → chan < 12 → bank < 16 → pdOn s.ctl (46 + half) = true →
      ∃ t, exec (.dramRefresh half chan bank urgent) s = .next t ∧
        look 0 (bankKey half chan bank) t.ctl.dram.due =
          (if urgent then look 0 (bankKey half chan bank) s.ctl.dram.due + 1 else 0) ∧
        look 0 (bankKey half chan bank) t.ctl.dram.refreshed =
          look 0 (bankKey half chan bank) s.ctl.dram.refreshed +
            (if urgent then 0 else 1 + look 0 (bankKey half chan bank) s.ctl.dram.due) ∧
        Touches [.dram] noEntry [] [] s t) ∧
    (∀ half chan code, half < 2 → chan < 12 → pdOn s.ctl (46 + half) = true →
      ∃ t, exec (.mr4Poll half chan code) s = .next t ∧
        t.ctl.dram = { s.ctl.dram with rate := t.ctl.dram.rate } ∧ look 0 (half * 12 + chan) t.ctl.dram.rate = code % 32 ∧
        Touches [.dram] noEntry [] [] s t) ∧
    ∃ t, exec .activateTableClear s = .next t ∧ t.ctl.traffic = { s.ctl.traffic with tables := [] } ∧
      Touches [] noEntry [] [] s t

/-! ## The safety cluster (14) -/

/-- O50. The comparator (14 R405, R406, R414, R536): a signature is held in its side, and decides the pair when the
other is held; its command fails when the other side was withdrawn or does not come in time; a pair that a window
judges equal passes both commands, one that differs makes both COMPARE_FAIL and is counted; the inputs that a window
takes get an index each and go to the three cores (14 R394). -/
def Obligations.ComparatorDecidesPairs : Prop :=
  ∀ s : State, serving s.ctl = true →
    (∀ r m g e own oth oths gone, findCmd s.ctl r = some m → sigTag m.desc = some g → m.status = 0 → m.sig = .owed →
      (m.stage = .executed ∨ m.stage = .done) → s.ctl.safety.slice ≠ some .comparator → e = getPair s.ctl (g % 32768) →
      (own, oth, gone) = (if g < 32768 then (e.a, e.b, e.gone1) else (e.b, e.a, e.gone0)) → own = none →
      oths = (⟨r, m.sigValue, unitOfDesc m.desc⟩ : Side) →
      (gone = false → ∃ t x f, exec (.signatureArrival r) s = .next t ∧ findCmd t.ctl r = some x ∧ x.sig = .sent ∧
        f = getPair t.ctl (g % 32768) ∧ (if g < 32768 then f.a else f.b) = some oths ∧
        (if g < 32768 then f.b else f.a) = oth ∧
        (oth = none → f.verdict = e.verdict ∧ f.since = s.ctl.time.value) ∧
        (∀ o, oth = some o → f.decided = s.ctl.time.value ∧
          f.verdict = some (independent (unitOfDesc m.desc) o.unit && decide (m.sigValue = o.value)) ∧
          t.ctl.safety.decided = s.ctl.safety.decided ++ [g % 32768]) ∧
        Touches [.safety, .queues, .od] (entries [(0x2700, 0xF)]) [] [] s t) ∧
      (gone = true → m.committed = false → m.redo = none → ∃ t x, exec (.signatureArrival r) s = .next t ∧ findCmd t.ctl r = some x ∧
        x.status = 4 ∧ x.disables = true ∧ getPair t.ctl (g % 32768) = {} ∧
        odVal s.part t.ctl 0x2700 0xE = satN 32 (odVal s.part s.ctl 0x2700 0xE + 1) ∧
        Touches (.faults :: settlePieces) (fun i k => settleEntry i k ∨ (i = 0x2700 ∧ k = 0xE))
          (looseSpans s.part s.ctl) [] s t)) ∧
    (∀ n d m, ((getPair s.ctl n).a = some d ∧ (getPair s.ctl n).b = none ∨
        (getPair s.ctl n).a = none ∧ (getPair s.ctl n).b = some d) →
      findCmd s.ctl d.ref = some m → m.status = 0 → m.committed = false → m.redo = none →
      ∃ t x, exec (.pairTimeout n) s = .next t ∧ findCmd t.ctl d.ref = some x ∧ x.status = 4 ∧ x.disables = true ∧
        getPair t.ctl n = {} ∧ odVal s.part t.ctl 0x2700 0xE = satN 32 (odVal s.part s.ctl 0x2700 0xE + 1) ∧
        (∃ y ∈ t.ctl.faults.inbox, y.mech = 17 ∧ y.sub = n) ∧
        Touches ([.faults, .time] ++ settlePieces) (fun i k => settleEntry i k ∨ (i = 0x2700 ∧ k = 0xE))
          (looseSpans s.part s.ctl) [] s t) ∧
    (∀ n a b ma mb, s.ctl.safety.mode = .inService → s.ctl.boot.testActive = false → s.ctl.safety.decided = [n] →
      (getPair s.ctl n).a = some a → (getPair s.ctl n).b = some b → a.ref ≠ b.ref →
      findCmd s.ctl a.ref = some ma → findCmd s.ctl b.ref = some mb → ma.status = 0 → mb.status = 0 →
      ma.redo = none → mb.redo = none → (getPair s.ctl n).verdict = some (verdictOf a b) →
      (verdictOf a b = true → ∃ t x y, exec (.safetyTaskWindow []) s = .next t ∧ findCmd t.ctl a.ref = some x ∧
        findCmd t.ctl b.ref = some y ∧ x.sig = .passed ∧ y.sig = .passed ∧ getPair t.ctl n = {} ∧
        t.ctl.safety.decided = [] ∧
        Touches settlePieces (fun i k => settleEntry i k ∨ (i = 0x2700 ∧ k = 0x10)) (looseSpans s.part s.ctl) [] s t) ∧
      (verdictOf a b = false → ma.committed = false → mb.committed = false → s.ctl.faults.log.length < 255 →
        ∃ t x y, exec (.safetyTaskWindow []) s = .next t ∧ findCmd t.ctl a.ref = some x ∧ findCmd t.ctl b.ref = some y ∧
          x.status = 4 ∧ y.status = 4 ∧ x.disables = true ∧ y.disables = true ∧ getPair t.ctl n = {} ∧
          odVal s.part t.ctl 0x2700 0xD = satN 32 (odVal s.part s.ctl 0x2700 0xD + 1) ∧
          Touches ([.faults, .links] ++ settlePieces)
            (fun i k => settleEntry i k ∨ messageEntry 0 i k ∨ (i = 0x2700 ∧ (k = 0xD ∨ k = 0x16)) ∨ (i = 0x2802 ∧ k = 2))
            (looseSpans s.part s.ctl) [ringSpan s.part s.ctl 0] s t)) ∧
    (∀ x w fin, s.ctl.safety.mode = .inService → s.ctl.boot.testActive = false → s.ctl.safety.decided = [] →
      ((x = .crossing w ∧ fin = false) ∨
        (∃ f rest, x = .fifo f ∧ (getFifo s.ctl f).words = (w, fin) :: rest ∧ (fifoAgents s.part s.ctl f).2 = 3)) →
      ∃ t, exec (.safetyTaskWindow [x]) s = .next t ∧
        t.ctl.out = (tab 3 fun k => .coreIn k s.ctl.safety.inputIndex w true fin) ∧
        t.ctl.safety = { s.ctl.safety with inputIndex := (s.ctl.safety.inputIndex + 1) % 2 ^ 64 } ∧
        (∀ f, x = .fifo f → getFifo t.ctl f = { getFifo s.ctl f with words := (getFifo s.ctl f).words.tail } ∧
          ∀ k, k ≠ f → getFifo t.ctl k = getFifo s.ctl k) ∧
        ((∀ f, x ≠ .fifo f) → Touches [.safety] noEntry [] [] s t) ∧ Touches [.safety, .fifos] noEntry [] [] s t)

/-- O51. Third evaluations, observation, sampled replay and self-tests (14 R415-R420): a third evaluation that one
copy alone disagrees with makes that copy's unit suspect, one from which all three differ enters the safe state,
and one that does not start, or ends without a signature, is unresolved and counted; the replay of the oldest layer of a
unit under observation uses up the layer, keeps the unit under observation when it disagrees, and counts when it is
skipped; a sampled replay uses up its layer and is a clean check or a logged disagreement; a slice holds its group, and
its end notes the test or logs MECH 19; coverage that is late is counted and reported. -/
def Obligations.EvaluationsAndTestsAct : Prop :=
  ∀ (s : State) (displaced : Nat → Nat → Prop),
    (∀ i k, displaced i k ↔ (i = 0x2400 ∧ 3 ≤ k ∧ k ≤ 5) ∨ (0x4000 ≤ i ∧ (k = 9 ∨ k = 0xA))) →
    (∀ n th sigs x, s.ctl.safety.mode = .inService → s.ctl.safety.third.find? (fun t => decide (t.pair = n)) = some th →
      th.a.unit < 32 → th.b.unit < 32 → th.a.unit ≠ th.b.unit → replayBlock s.part s.ctl th.a.unit th.b.unit = some x →
      atBoundary s.ctl x = true →
      ∃ t, exec (.thirdEvaluationDone n sigs) s = .next t ∧ t.ctl.safety.third = s.ctl.safety.third.erase th ∧
        (sigs = [] → odVal s.part t.ctl 0x2700 0x16 = satN 32 (odVal s.part s.ctl 0x2700 0x16 + 1)) ∧
        (∀ v l, sigs = v :: l →
          (th.a.value ≠ v → th.b.value = v → (getSus t.ctl th.a.unit).suspect = true) ∧
          (th.b.value ≠ v → th.a.value = v → (getSus t.ctl th.b.unit).suspect = true) ∧
          (th.a.value ≠ v → th.b.value ≠ v → th.a.value ≠ th.b.value →
            t.ctl.safety.mode = .safeState ∨ t.ctl.safety.mode = .failed) ∧
          (th.a.value = v → th.b.value = v →
            Touches [.safety, .sched, .od, .queues, .seqs] displaced [] [] s t))) ∧
    (∀ n th, s.ctl.safety.mode = .inService → s.ctl.safety.third.find? (fun t => decide (t.pair = n)) = some th →
      ∃ t, exec (.thirdEvaluationTimeout n) s = .next t ∧ t.ctl.safety.third = s.ctl.safety.third.erase th ∧
        (getSus t.ctl th.a.unit).suspect = true ∧ (getSus t.ctl th.b.unit).suspect = true ∧
        odVal s.part t.ctl 0x2700 0x16 = satN 32 (odVal s.part s.ctl 0x2700 0x16 + 1) ∧
        (∃ r ∈ t.ctl.faults.inbox, r.mech = 21) ∧
        Touches [.time, .safety, .od, .faults] (entries [(0x2700, 0x16)]) [] [] s t) ∧
    (∀ u cl rest, (getSus s.ctl u).layers = cl :: rest →
      (∀ x, s.ctl.safety.mode = .inService → replayBlock s.part s.ctl u u = some x → atBoundary s.ctl x = true →
        (∃ t, exec (.observationReplayDone u true) s = .next t ∧
          getSus t.ctl u = { getSus s.ctl u with layers := rest } ∧
          Touches [.safety, .sched, .od, .queues, .seqs] displaced [] [] s t) ∧
        ∃ t, exec (.observationReplayDone u false) s = .next t ∧ (getSus t.ctl u).suspect = true ∧
          (getSus t.ctl u).clean = 0 ∧
          ((getSus s.ctl u).first = 0 → (getSus t.ctl u).first = s.ctl.time.value + 1 ∧
            ((getSus s.ctl u).suspect = true → (getSus t.ctl u).layers = rest) ∧
            Touches [.safety, .sched, .od, .queues, .seqs] displaced [] [] s t)) ∧
      (serving s.ctl = true → ∃ t, exec (.observationReplaySkip u) s = .next t ∧
        getSus t.ctl u = { getSus s.ctl u with layers := rest } ∧
        odVal s.part t.ctl 0x2700 0x17 = satN 32 (odVal s.part s.ctl 0x2700 0x17 + 1) ∧
        Touches [.safety, .od] (entries [(0x2700, 0x17)]) [] [] s t)) ∧
    (∀ b cl rest x, serving s.ctl = true → odVal s.part s.ctl 0x2700 0x13 ≠ 0 →
      look [] b s.ctl.safety.samples = cl :: rest → replayBlock s.part s.ctl b b = some x → atBoundary s.ctl x = true →
      (∃ t, exec (.sampledReplayDone b true) s = .next t ∧ look [] b t.ctl.safety.samples = rest ∧
        look {} b t.ctl.faults.taint = { clean := s.ctl.time.value } ∧
        Touches [.safety, .faults, .sched, .od, .queues, .seqs] displaced [] [] s t) ∧
      (s.ctl.faults.log.length < 255 → ∃ t, exec (.sampledReplayDone b false) s = .next t ∧
        (getSus t.ctl b).suspect = true ∧ (∃ l ∈ t.ctl.faults.log, l.rec_.mech = 16 ∧ l.rec_.unit = b) ∧
        (look {} b t.ctl.faults.taint).entries = [] ∧
        ((getSus s.ctl b).first = 0 → look [] b t.ctl.safety.samples = rest ∧
          Touches [.safety, .faults, .od, .links, .sched, .queues, .seqs]
            (fun i k => messageEntry 0 i k ∨ (i = 0x2802 ∧ k = 2) ∨ displaced i k) [] [ringSpan s.part s.ctl 0] s t))) ∧
    (∀ x, testsRun s.ctl = true →
      (s.ctl.safety.slice = none → checkerPresent s.part s.ctl x = true →
        (∀ b, x = .cells b → atBoundary s.ctl b = true) → ∃ t, exec (.selfTestSliceStart x) s = .next t ∧ t.ctl.safety = { s.ctl.safety with slice := some x } ∧
          Touches [.safety] noEntry [] [] s t) ∧
      (s.ctl.safety.slice = some x → ∃ t, exec (.selfTestSliceEnd x true) s = .next t ∧ t.ctl.safety.slice = none ∧
        testedAt t.ctl x = s.ctl.time.value ∧ t.ctl.safety.warned.contains (checkerKey x) = false ∧
        Touches [.safety, .faults] noEntry [] [] s t) ∧
      (s.ctl.safety.slice = some x → s.ctl.faults.log.length < 256 → s.ctl.safety.mode ≠ .notReady →
        ∃ t, exec (.selfTestSliceEnd x false) s = .next t ∧ t.ctl.safety.slice = none ∧
          (∃ l ∈ t.ctl.faults.log, l.index = s.ctl.faults.next ∧ l.rec_.mech = 19 ∧ l.rec_.unit = checkerUnit x) ∧
          (checkerUnit x < 32 → (look {} (checkerUnit x) t.ctl.faults.taint).entries = []) ∧
          Touches [.safety, .faults, .od, .links] (fun i k => messageEntry 0 i k ∨ (i = 0x2802 ∧ k = 4)) []
            [ringSpan s.part s.ctl 0] s t) ∧
      (checkerPresent s.part s.ctl x = true → s.ctl.safety.warned.contains (checkerKey x) = false →
        ∃ t, exec (.latentCoverageWarning x) s = .next t ∧ t.ctl.safety.warned.contains (checkerKey x) = true ∧
          odVal s.part t.ctl 0x2700 0x18 = satN 32 (odVal s.part s.ctl 0x2700 0x18 + 1) ∧
          (∃ r ∈ t.ctl.faults.inbox, r.mech = 20 ∧ r.unit = checkerUnit x) ∧
          Touches [.time, .safety, .od, .faults] (entries [(0x2700, 0x18)]) [] [] s t))

/-- O52. The cores (14 R395-R400): of three cores in service the first value of an output is held, the second that
equals it releases it, the third ends the vote or drops its core; a vote without a release that expires enters the
safe state; a checkpoint on which all agree lets the copy of a dropped core start, and a copied one rejoin; one that
differs from two others is dropped and counted; in split mode what core C reproduces is released. Debug on core A, while it is
open, halts all cores at one count, steps and resumes them, and writes registers, SRAM and breakpoints. -/
def Obligations.CoresVoteAndHalt : Prop :=
  ∀ s : State, s.ctl.safety.cores.length = 3 → s.ctl.safety.copying.length = 3 → s.ctl.safety.copied.length = 3 →
    s.ctl.safety.drops.length = 3 →
    (∀ core k w, serving s.ctl = true → s.ctl.safety.splitActive = false → inService s.ctl = [0, 1, 2] → core < 3 →
      (voteOf s.ctl k = none → ∃ t, exec (.coreOutput core k w) s = .next t ∧
        voteOf t.ctl k = some ⟨k, [(core, w)], none, voteEnd s.part s.ctl⟩ ∧ t.ctl.out = [] ∧ Touches [.safety] noEntry [] [] s t) ∧
      (∀ i u, i ≠ core → voteOf s.ctl k = some ⟨k, [(i, w)], none, u⟩ → ∃ t, exec (.coreOutput core k w) s = .next t ∧
        .coreOut k w ∈ t.ctl.out ∧
        (w = .safeRequest → t.ctl.safety.mode = .safeState ∨ t.ctl.safety.mode = .failed) ∧
        (w ≠ .safeRequest → voteOf t.ctl k = some ⟨k, [(i, w), (core, w)], some w, voteEnd s.part s.ctl⟩) ∧
        ((∀ f v z, w ≠ .fifo f v z) → w ≠ .safeRequest → Touches [.safety] noEntry [] [] s t)) ∧
      (∀ i j v u, i ≠ core → j ≠ core → voteOf s.ctl k = some ⟨k, [(i, v), (j, v)], some v, u⟩ →
        ∃ t, exec (.coreOutput core k w) s = .next t ∧ voteOf t.ctl k = none ∧
          (w = v → Touches [.safety] noEntry [] [] s t) ∧
          (w ≠ v → s.ctl.safety.drops.getD core 0 = 0 → coreOf t.ctl core = .resync ∧
            odVal s.part t.ctl 0x2700 0xB = satN 32 (odVal s.part s.ctl 0x2700 0xB + 1) ∧
            Touches [.safety, .od, .faults] (entries [(0x2700, 0xB)]) [] [] s t))) ∧
    (∀ k x, serving s.ctl = true → s.ctl.safety.splitActive = false → voteOf s.ctl k = some x → x.released = none →
      ∃ t, exec (.voteWindowExpiry k) s = .next t ∧ (t.ctl.safety.mode = .safeState ∨ t.ctl.safety.mode = .failed)) ∧
    (∀ k x v j, serving s.ctl = true → s.ctl.safety.splitActive = false → voteOf s.ctl k = some x →
      x.released = some v → inService s.ctl = [0, 1, 2] → s.ctl.safety.drops.getD j 0 = 0 → j < 3 →
      (∀ i, i < 3 → ((∃ y, (i, y) ∈ x.vals) ↔ i ≠ j)) →
      ∃ t, exec (.voteWindowExpiry k) s = .next t ∧ voteOf t.ctl k = none ∧ coreOf t.ctl j = .resync ∧
        odVal s.part t.ctl 0x2700 0xB = satN 32 (odVal s.part s.ctl 0x2700 0xB + 1) ∧
        Touches [.safety, .od, .faults, .time] (entries [(0x2700, 0xB)]) [] [] s t) ∧
    (∀ a b d, s.ctl.safety.mode = .inService → s.ctl.safety.splitActive = false → 2 ≤ (inService s.ctl).length →
      ((∀ k, k ∈ inService s.ctl → digestOf a b d k = a) → 0 ∈ inService s.ctl →
        (∀ k, k < 3 → coreOf s.ctl k = .resync → s.ctl.safety.copied.getD k false = true → digestOf a b d k = a) →
        ∃ t, exec (.checkpoint a b d) s = .next t ∧
          (∀ k, k < 3 → coreOf s.ctl k = .resync →
            (s.ctl.safety.copied.getD k false = false → t.ctl.safety.copying.getD k false = true) ∧
            (s.ctl.safety.copied.getD k false = true → coreOf t.ctl k = .inService)) ∧
          Touches [.safety] noEntry [] [] s t) ∧
      (∀ k j, inService s.ctl = [0, 1, 2] → k < 3 → j < 3 → j ≠ k → digestOf a b d k ≠ digestOf a b d j →
        (∀ i, i < 3 → i ≠ k → digestOf a b d i = digestOf a b d j) → s.ctl.safety.drops.getD k 0 = 0 →
        ∃ t, exec (.checkpoint a b d) s = .next t ∧ coreOf t.ctl k = .resync ∧
          odVal s.part t.ctl 0x2700 0xB = satN 32 (odVal s.part s.ctl 0x2700 0xB + 1) ∧
          (∃ r ∈ t.ctl.faults.inbox, r.mech = 13 ∧ r.unit = 0x34 + k) ∧
          Touches [.safety, .od, .faults] (entries [(0x2700, 0xB)]) [] [] s t)) ∧
    (∀ k, serving s.ctl = true → coreOf s.ctl k = .resync → s.ctl.safety.copying.getD k false = true →
      ∃ t, exec (.resyncCopyDone k) s = .next t ∧
        t.ctl.safety = { s.ctl.safety with
          copying := s.ctl.safety.copying.set k false
          copied := s.ctl.safety.copied.set k true } ∧ Touches [.safety] noEntry [] [] s t) ∧
    (∀ core held, serving s.ctl = true → s.ctl.safety.splitActive = true → core < 2 →
      held = (s.ctl.safety.votes.filterMap fun x => (x.vals.find? fun e => decide (e.1 = core)).map fun e => (x.k, e.2)) →
      (∀ e ∈ held, ∃ w, e.2 = .crossing w) →
      ∃ t, exec (.splitReplayInterval core (held.map Prod.snd)) s = .next t ∧
        t.ctl.out = held.map (fun e => .coreOut e.1 e.2) ∧
        (∀ x ∈ t.ctl.safety.votes, ∀ e ∈ x.vals, e.1 ≠ core) ∧ Touches [.safety] noEntry [] [] s t) ∧
    (debugOpen s.ctl = true →
      (s.ctl.safety.halted = false →
        (∀ ca cb cc, ∃ t, exec (.debugHalt ca cb cc) s = .next t ∧ t.ctl.safety.halted = true ∧
          (inService s.ctl = [0, 1, 2] → t.ctl.safety.haltCount = 16 + max ca (max cb cc)) ∧
          t.ctl.safety.mode = (if s.ctl.safety.mode = .inService then .debugHold else s.ctl.safety.mode) ∧
          Touches (.links :: .barrier :: settlePieces) (fun i k => settleEntry i k ∨ (i = 0x2600 ∧ k = 0xC))
            (looseSpans s.part s.ctl) [] s t) ∧
        ∀ a n, s.ctl.safety.breaks.contains a = true → ∃ t, exec (.breakpointHit a n) s = .next t ∧
          t.ctl.safety.halted = true ∧ t.ctl.safety.haltCount = n ∧
          t.ctl.safety.mode = (if s.ctl.safety.mode = .inService then .debugHold else s.ctl.safety.mode) ∧
          Touches (.links :: .barrier :: settlePieces) (fun i k => settleEntry i k ∨ (i = 0x2600 ∧ k = 0xC))
            (looseSpans s.part s.ctl) [] s t) ∧
      (s.ctl.safety.halted = true →
        (∃ t, exec .debugResume s = .next t ∧
          t.ctl.safety = { s.ctl.safety with
            halted := false
            mode := if s.ctl.safety.mode = .debugHold then .inService else s.ctl.safety.mode } ∧
          Touches [.safety, .links, .barrier, .od] (entries [(0x2600, 0xC)]) [] [] s t) ∧
        ∃ t, exec .debugSingleStep s = .next t ∧
          t.ctl.safety = { s.ctl.safety with haltCount := s.ctl.safety.haltCount + 1 } ∧
          Touches [.safety] noEntry [] [] s t) ∧
      (∀ reg w, ∃ t, exec (.debugRegisterWrite reg w) s = .next t ∧ look 0 reg t.ctl.safety.regs = w.toNat ∧
        (∀ x, x ≠ reg → look 0 x t.ctl.safety.regs = look 0 x s.ctl.safety.regs) ∧
        { t.ctl.safety with regs := s.ctl.safety.regs } = s.ctl.safety ∧ Touches [.safety] noEntry [] [] s t) ∧
      (∀ a b, a < 2 ^ 20 → memWf (fun _ _ => true) s.ctl.safety.sram = true →
        ∃ t, exec (.debugMemoryWrite a b) s = .next t ∧ cellAt a t.ctl.safety.sram = some b ∧
          (∀ x, x ≠ a → cellAt x t.ctl.safety.sram = cellAt x s.ctl.safety.sram) ∧
          { t.ctl.safety with sram := s.ctl.safety.sram } = s.ctl.safety ∧ Touches [.safety] noEntry [] [] s t) ∧
      (∀ a, (∃ t, exec (.debugBreakpointSet a) s = .next t ∧ t.ctl.safety.breaks.contains a = true ∧
          (∀ x, x ≠ a → t.ctl.safety.breaks.contains x = s.ctl.safety.breaks.contains x) ∧
          Touches [.safety] noEntry [] [] s t) ∧
        ∃ t, exec (.debugBreakpointClear a) s = .next t ∧ t.ctl.safety.breaks.contains a = false ∧
          (∀ x, x ≠ a → t.ctl.safety.breaks.contains x = s.ctl.safety.breaks.contains x) ∧
          Touches [.safety] noEntry [] [] s t))

/-! ## The block arrays (02-05) -/

/-- O53. MX.OUTER, MX.CONV, MX.POOL and MX.DRAIN on undisturbed operands (02 R62, 03 R98-R118, 05 R143-R165): an
accumulating kernel leaves its tile HELD in its bank, with the accumulators of its steps, and ORs its flags; an
integer accumulator holds the sum of products modulo 2^32 on top of what it began with; a drain writes the tile
held longest, frees its bank and keeps its signature; a pool writes one line of windows after another. A failed
check in the array halts the block, poisons the tile and stops the command. -/
def Obligations.MatrixCommandsExecute : Prop :=
  ∀ (s : State) (r : Ref) (m : Cmd) (d : Desc) (b : Nat), Undisturbed s → d = m.desc → b = dTarget d →
    (∀ x y kind i keep init, Turn s r 0 0 m → x = outerOpnd b d false → y = outerOpnd b d true → x.f < 9 →
      y.f < 9 → fld d 76 2 ≠ 3 → pairKind x.f y.f = some kind →
      init = (if keep then ((getB s.ctl b).bank i).acc else if fld d 76 2 = 2 then
        (loadAcc s.view b (fld d 288 15) (numF d (304, 16, 1, 32767)) x.lanes y.lanes (decide (kind ≠ 0))).1 else []) →
      ((x.extents ++ y.extents ++ (if fld d 76 2 = 2 then
        (loadAcc s.view b (fld d 288 15) (numF d (304, 16, 1, 32767)) x.lanes y.lanes (decide (kind ≠ 0))).2 else [])).all
          (within (scratchBase b) scratchSize)) = true →
      (∀ k, k < x.k → (outerStep s.mems b x y k).beyond = false) →
      chooseBank s.ctl b (fld d 76 2) x.lanes y.lanes (decide (kind ≠ 0)) (isMx x.f) = some (i, keep) →
      (x.trans && (isMx x.f || x.zbt)) = false → (y.trans && (isMx y.f || y.zbt)) = false →
      (∃ t, exec (.mxOuter r .none) s = .next t ∧ KernelRan s t r m b i (outerKern s.mems b kind x y) init keep) ∧
      ∀ parity cx cy, ∃ t z, exec (.mxOuter r (.cell parity cx cy)) s = .next t ∧ (getB t.ctl b).halted = true ∧
        ((getB t.ctl b).bank i).poisoned = true ∧ findCmd t.ctl r = some z ∧ z.stage = .stopped ∧ t.mems = s.mems ∧
        Touches (.blocks :: .faults :: enginePieces) (fun x k => engineEntry x k ∨ (x = 0x2800 ∧ k = 0xA)) [] [] s t) ∧
    (∀ x y l chs kind i keep init mm n ch0 chLast, Turn s r 0 2 m → x = convInput b d → x.f < 6 →
      fld d 68 4 < 6 → fld d 76 2 ≠ 3 → x.pad ≠ 3 → pairKind x.f (fld d 68 4) = some kind →
      l = x.taps (numF d (112, 16, 1, 65535)) (numF d (240, 8, 1, 16)) (numF d (248, 8, 1, 16)) →
      y = convWeights b d l.length → mm = numF d (80, 9, 1, 256) → n = numF d (96, 9, 1, 256) →
      ch0 = fld d 336 16 * numF d (112, 16, 1, 65535) →
      chLast = ch0 + numF d (112, 16, 1, 65535) - 1 + (if fld d 75 1 = 1 then (n - 1) / numF d (352, 4, 1, 4) else 0) →
      (∀ ch, chs ch = if fld d 75 1 = 1 then tab (chLast + 1 - ch0) (fun j => ch0 + ch + j) else [ch0 + ch]) →
      init = (if keep then ((getB s.ctl b).bank i).acc else if fld d 76 2 = 2 then
        (loadAcc s.view b (fld d 448 15) (numF d (464, 16, 1, 32767)) mm n (decide (kind ≠ 0))).1 else []) →
      ((x.extents ch0 chLast ++ y.extents ++ (if fld d 76 2 = 2 then
        (loadAcc s.view b (fld d 448 15) (numF d (464, 16, 1, 32767)) mm n (decide (kind ≠ 0))).2 else [])).all
          (within (scratchBase b) scratchSize)) = true →
      (∀ k, k < l.length → (convStep s.mems b mm x y l chs k).beyond = false) →
      chooseBank s.ctl b (fld d 76 2) mm n (decide (kind ≠ 0)) false = some (i, keep) →
      (x.zbt && (x.ci || decide (256 < x.w))) = false →
      (fld d 75 1 = 1 → numF d (112, 16, 1, 65535) = 1 ∧ x.trans = false ∧ x.zbt = false ∧ y.zbt = false) →
      (x.trans = true → x.pad = 0) → (x.ci = true → recordsOk (numF d (112, 16, 1, 65535)) ch0 = true) →
      x.rowMissing mm (numF d (240, 8, 1, 16)) (numF d (248, 8, 1, 16)) = false →
      ∃ t, exec (.mxConv r .none) s = .next t ∧
        KernelRan s t r m b i (convKern s.mems b kind mm x y l ch0 (numF d (352, 4, 1, 4)) (decide (fld d 75 1 = 1))) init
          keep) ∧
    (∀ (x : Kern) (init : List Nat) (a c : Nat), x.kind = 0 → 1 ≤ x.k → a < x.m → c < x.n →
      (kernTile x init).val.getD (a * x.n + c) 0 =
        ofInt 32 (sgn 32 (init.getD (a * x.n + c) 0) + (List.range x.k).foldl (fun z k => z + x.ai a c k * x.bi k c) 0)) ∧
    (∀ i rest k lo st w, Turn s r 0 1 m → fld d 64 4 < 11 → fld d 68 2 ≠ 3 → fld d 77 3 < 4 →
      (isMx (fld d 64 4) = true → fld d 72 1 = 0 ∧ fld d 80 1 = 0) → (getB s.ctl b).held = i :: rest →
      k = (getB s.ctl b).bank i → lo = (if fld d 71 1 = 1 then lagoonBase (b / 4) else scratchBase b) →
      ((drainExtents d lo k.m k.n).all (within lo (if fld d 71 1 = 1 then lagoonSize else scratchSize))) = true →
      (fld d 76 1 = 1 → within (scratchBase b) scratchSize (scratchBase b + 64 * fld d 256 15, 4 * k.n) = true) →
      (fld d 71 1 = 1 → m.off.testBit (lagoonDomain (b / 4)) = false) →
      (fld d 72 1 = 1 → fld d 71 1 = 0 ∧ fld d 80 1 = 0) → k.poisoned = false →
      st = (List.range (k.m * k.n)).map (fun j => drainStage s.mems b d k.fp (j % k.n) (k.acc.getD j 0)) →
      w = drainWrites d (ieeeMode s.part s.ctl (fld d 68 2)) k.fp lo k.m k.n (st.map Fl.val) →
      ∃ t z, exec (.mxDrain r .none) s = .next t ∧ Executed t r m ∧ Wrote s t (w.out ++ w.aux) ∧
        (getB t.ctl b).bank i = {} ∧ (getB t.ctl b).held = (i :: rest).filter (fun j => j ≠ i) ∧
        odVal s.part t.ctl 0x2B00 2 = odVal s.part s.ctl 0x2B00 2 ||| (flagsOf st ||| w.flags) ∧
        findCmd t.ctl r = some z ∧ z.sigValue = BitVec.ofNat 64 (signatureOf [w.out, w.aux]) ∧
        Touches (.blocks :: enginePieces) (kernelEntry b) ((w.out ++ w.aux).map fun x => (x.1, x.2.length)) [] s t) ∧
    (∀ x vals ws op f mm n ch0 kh kw, Turn s r 0 3 m → x = poolInput b d → x.f < 6 → f = fld d 68 4 →
      (f < 6 ∨ f = 10) → op = fld d 74 2 → op ≠ 3 → fld d 76 2 ≠ 3 → mm = numF d (80, 9, 1, 256) →
      n = numF d (96, 9, 1, 256) → ch0 = numF d (112, 16, 0, 65535) → kh = numF d (240, 8, 1, 16) →
      kw = numF d (248, 8, 1, 16) → x.rowMissing mm kh kw = false →
      vals = (List.range (if x.ci then mm else n)).map (fun l => (List.range (if x.ci then n else mm)).map fun i =>
        poolOf op (kh * kw) (window s.mems x (ch0 + if x.ci then i else l) (if x.ci then l else i) kh kw)) →
      ws = (List.range (if x.ci then mm else n)).map (fun l =>
        (scratchBase b + 64 * fld d 368 15 + 64 * numF d (384, 16, 1, 32767) * l,
          packElems f ((vals.getD l []).map fun y =>
            (convElem f (ieeeMode s.part s.ctl (fld d 76 2)) (dec32 y.val)).val))) →
      ((x.extents ch0 (ch0 + n - 1)).all (within (scratchBase b) scratchSize)) = true →
      within (scratchBase b) scratchSize (scratchBase b + 64 * fld d 368 15 +
        64 * numF d (384, 16, 1, 32767) * ((if x.ci then mm else n) - 1), elemBytes f (if x.ci then n else mm)) = true →
      ∃ t, exec (.mxPool r .none) s = .next t ∧ Executed t r m ∧ Wrote s t ws ∧
        Touches (.blocks :: enginePieces) (kernelEntry b) (ws.map fun x => (x.1, x.2.length)) [] s t)

/-! ## Attention and sequences (06) -/

/-- O54. Attention with records that pass their checks, on undisturbed operands (06 R189-R209): AT.SCORE raises
READERS of its whole range, writes output and statistics rows record after record, and executes when the last
record's READERS fall; the page buffer is used where pages are fetched; AT.GRAD writes dQ, dK and dV rows, or zeros for an omitted record; a page walk installs
entries of one line; AT.WALK writes the work list. AT.APPEND reserves page sets, writes record after record
with APPEND_BUSY set, and publishes: lengths, page counts, heads and base positions change together. -/
def Obligations.AttentionReadsAndAppends : Prop :=
  ∀ (s : State) (r : Ref) (m : Cmd) (d : Desc) (b : Nat), Undisturbed s → d = m.desc → b = dTarget d →
    (∀ x wl cnt recs plans seqs ieee ws, Turn s r 0 4 m → x = geom s.part s.ctl (fld d 84 6) →
      wl = 64 * fld d 320 48 → cnt = wlCount s.mems wl →
      recs = ((List.range (min (fld d 96 12 + numF d (112, 13, 1, 4096)) cnt)).drop (fld d 96 12)).map
        (fun i => wlAt s.mems wl i) →
      plans = recs.map (fun w => planRec s.view s.ctl b (fld d 84 6) (fld d 80 4) d w) → seqs = recs.map WRec.seq →
      m.phase = 0 → (fld d 64 4 = 4 ∨ fld d 64 4 = 5) → [2, 3, 4, 5, 10].contains (fld d 68 4) = true → fld d 72 2 ≠ 3 →
      ((scoreExtents d b x.dh (wlRows s.mems wl) false).all (within (scratchBase b) scratchSize)) = true →
      inDevice s.part s.ctl wl (64 + 8 * cnt) = true → spanOff m.off (wl, 64 + 8 * cnt) = false → fld d 80 4 < x.g →
      32 * x.page / 64 ≤ numF d (384, 15, 1, 32767) →
      (fld d 75 1 = 1 → hasTrain s.part = true ∧ ∃ q, plans = [q] ∧ keepFits d q = true) →
      ((getB s.ctl b).bank0.state = .free ∨ (getB s.ctl b).bank1.state = .free) →
      (∀ n, n ∈ seqs → (getSeq s.ctl n).readers + seqs.count n ≤ 15 ∧ (getSeq s.ctl n).appendBusy = false) →
      (∀ q, q ∈ plans → q.bad = none) → ieee = ieeeMode s.part s.ctl (fld d 72 2) →
      ws = plans.flatMap (fun q => (recordWrites s.view d b ieee q).1 ++ (recordWrites s.view d b ieee q).2.1) →
      ∃ t z, exec (.atScore r .none) s = .next t ∧ WrotePast s t d b plans ws ∧ findCmd t.ctl r = some z ∧ z.phase = 1 ∧ z.work = seqs ∧
        z.stage = (if seqs = [] then .executed else m.stage) ∧ z.status = m.status ∧
        (∀ n, getSeq t.ctl n = { getSeq s.ctl n with readers := (getSeq s.ctl n).readers + seqs.count n }) ∧
        odVal s.part t.ctl 0x2B00 2 =
          plans.foldl (fun f q => f ||| (recordWrites s.view d b ieee q).2.2) (odVal s.part s.ctl 0x2B00 2) ∧
        ((plans.filter Plan.omitted) ≠ [] → odVal s.part t.ctl 0x2B00 7 =
          satN 64 (odVal s.part s.ctl 0x2B00 7 + (plans.filter Plan.omitted).length)) ∧
        (∀ n, n ≠ b → getB t.ctl n = getB s.ctl n) ∧
        Touches ([.blocks, .seqs, .walks] ++ enginePieces) (fun i k => kernelEntry b i k ∨ (0x4000 ≤ i ∧ k = 0xE))
          (bufferSpan d b :: ws.map fun x => (x.1, x.2.length)) [] s t) ∧
    (∀ n rest, Turn s r 0 4 m → m.work = n :: rest →
      ∃ t z, exec (.atScoreRecordDone r) s = .next t ∧ findCmd t.ctl r = some z ∧ z.work = rest ∧
        z.stage = (if rest = [] then .executed else m.stage) ∧
        getSeq t.ctl n = { getSeq s.ctl n with readers := (getSeq s.ctl n).readers - 1 } ∧
        (∀ k, k ≠ n → getSeq t.ctl k = getSeq s.ctl k) ∧ t.mems = s.mems ∧
        Touches (.seqs :: enginePieces) engineEntry [] [] s t) ∧
    (∀ x wl cnt first w q held ws, Turn s r 0 8 m → x = geom s.part s.ctl (fld d 84 6) →
      wl = 64 * fld d 320 48 → cnt = wlCount s.mems wl → first = fld d 96 12 → w = wlAt s.mems wl first →
      q = planRec s.view s.ctl b (fld d 84 6) (fld d 80 4) d w →
      held = (getB s.ctl b).kept.bind (fun k =>
        if k.meta_ = keptMeta d w ∧ k.m = headsOf d * w.len ∧ k.n = q.keys.total then some k.scores else none) →
      (fld d 64 4 = 4 ∨ fld d 64 4 = 5) → fld d 72 2 ≠ 3 → (x.fmt = 4 ∨ x.fmt = 5) →
      ((scoreExtents d b x.dh (wlRows s.mems wl) true ++ (if wlRows s.mems wl = 0 then [] else
        [(oRow b d (fld d 417 15) (headsOf d - 1) (wlRows s.mems wl - 1), elemBytes (fld d 64 4) x.dh),
         (oRow b d (fld d 432 15) (headsOf d - 1) (wlRows s.mems wl - 1), 4 * x.dh)])).all
          (within (scratchBase b) scratchSize)) = true →
      inDevice s.part s.ctl wl (64 + 8 * cnt) = true → spanOff m.off (wl, 64 + 8 * cnt) = false →
      (first < cnt → within (scratchBase b) scratchSize (scratchBase b + 64 * fld d 448 15, 8 * x.dh * q.keys.total) = true) →
      (fld d 416 1 = 1 → held.isSome = true) → fld d 80 4 < x.g → 32 * x.page / 64 ≤ numF d (384, 15, 1, 32767) →
      (first < cnt → q.bad = none) →
      ws = (if cnt ≤ first then [] else if q.omitted then gradZeros d b q.keys
        else (gradWrites s.view d b q.keys (if fld d 416 1 = 1 then held else none)).val) →
      ∃ t, exec (.atGrad r .none) s = .next t ∧ Executed t r m ∧
        (cnt ≤ first → Touches (.blocks :: enginePieces) engineEntry [] [] s t) ∧
        (first < cnt → WrotePast s t d b [q] ws) ∧
        (first < cnt → q.omitted = true →
          odVal s.part t.ctl 0x2B00 7 = satN 64 (odVal s.part s.ctl 0x2B00 7 + 1)) ∧
        Touches ([.blocks, .walks] ++ enginePieces) (kernelEntry b)
          (bufferSpan d b :: ws.map fun x => (x.1, x.2.length)) [] s t) ∧
    (∀ n i e k news line lab, ((look [] (b / 4) s.ctl.walks).take 8).contains (b, n, i) = true → e = getSeq s.ctl n →
      k = 0x3017 + 0x100 * (b / 4) →
      line = (cachedLine s.ctl (b / 4) n i).getD (devNat s.mems (listAddr e (i - i % 16)) 64) →
      news = ((List.range 8).map fun j => i + j).filter (fun j =>
        decide (j / 16 = i / 16) && decide (j < e.listCap) && decide ((j + e.listCap - e.head) % e.listCap < e.pages)) →
      lab = ((getB s.ctl b).lab.filter fun y => !(decide (y.1 = n) && news.contains y.2.1)) ++
        news.map (fun j => (n, j, bitsN line (32 * (j % 16)) 32)) →
      ∃ t, exec (.pageWalkDone b n i) s = .next t ∧
        getB t.ctl b = { getB s.ctl b with lab := lab.drop (lab.length - 32) } ∧ (∀ o, o ≠ b → getB t.ctl o = getB s.ctl o) ∧
        look [] (b / 4) t.ctl.walks = (look [] (b / 4) s.ctl.walks).erase (b, n, i) ∧
        (n, i / 16, line) ∈ look [] (b / 4) t.ctl.listCache ∧
        odVal s.part t.ctl k 1 = satN 64 (odVal s.part s.ctl k 1 + 1) ∧
        (cachedLine s.ctl (b / 4) n i = none → odVal s.part t.ctl k 2 = satN 64 (odVal s.part s.ctl k 2 + 1)) ∧
        t.mems = s.mems ∧ Touches [.od, .blocks, .walks, .listCache] (entries [(k, 1), (k, 2)]) [] [] s t) ∧
    (∀ lens wl l, Turn s r 0 6 m → lens = 64 * fld d 80 48 → wl = 64 * fld d 128 48 →
      l = walkRecs s.mems s.ctl (fld d 64 6) lens → inDevice s.part s.ctl lens 8192 = true →
      inDevice s.part s.ctl wl (64 + 8 * l.length) = true → spanOff m.off (lens, 8192) = false →
      spanOff m.off (wl, 64 + 8 * l.length) = false → l.length ≤ numF d (192, 13, 1, 4096) →
      ∃ t, exec (.atWalk r .none) s = .next t ∧ Executed t r m ∧ Wrote s t [(wl, workList l)] ∧
        Touches enginePieces engineEntry [(wl, 64 + 8 * l.length)] [] s t) ∧
    (∀ f set x wl cnt rows l res, Turn s r 0 5 m → f = fld d 64 4 → set = fld d 68 6 →
      x = geom s.part s.ctl set → wl = 64 * fld d 176 48 → cnt = wlCount s.mems wl → rows = wlRows s.mems wl →
      l = (List.range cnt).map (fun i => wlAt s.mems wl i) →
      res = reserve s.mems s.ctl x set (odVal s.part s.ctl (0x2B40 + set) 5) l →
      m.phase = 0 → (∀ a, a ∈ s.ctl.appends.takeWhile (fun a => decide (a.ref ≠ r)) → a.set ≠ set) → (f = 4 ∨ f = 5 ∨ f = 10) →
      inDevice s.part s.ctl wl (64 + 8 * cnt) = true →
      (0 < rows → ∀ o, o = 80 ∨ o = 112 → 64 * fld d o 17 + 64 * numF d (160, 16, 1, 65535) * (x.g - 1) +
        64 * numF d (144, 16, 1, 65535) * (rows - 1) + elemBytes f x.dh ≤ lagoonSize) →
      m.off.testBit (lagoonDomain (b / 4)) = false → spanOff m.off (wl, 64 + 8 * cnt) = false →
      ∃ t, exec (.atAppend r .none) s = .next t ∧ findCmd t.ctl r = some { m with phase := 1 } ∧
        t.ctl.appends = (s.ctl.appends.filter fun a => decide (a.ref ≠ r)) ++
          [{ ref := r, set := set, recs := res.1, omitted := (l.filter (leftOut s.ctl set)).length }] ∧
        odVal s.part t.ctl (0x2B40 + set) 5 = res.2 ∧ t.mems = s.mems ∧
        Touches [.od, .queues, .blocks, .appends] (entries [(0x2401, 3), (0x2B40 + set, 5)]) [] [] s t) ∧
    (∀ a rec_ e x w, Turn s r 0 5 m → s.ctl.appends.find? (fun y => decide (y.ref = r) && !y.waiting) = some a →
      a.recs[a.pos]? = some rec_ → e = getSeq s.ctl rec_.seq → x = geom s.part s.ctl a.set →
      (a.pos = 0 → sigsFailed s.ctl d = false ∧ sigsPassed s.ctl d = true) →
      w = (if rec_.exhausted then ⟨[], 0⟩ else appendWrites s.mems x d a.set (lagoonBase (b / 4)) e rec_) →
      appendStale e rec_ = false → e.readers = 0 →
      (rec_.exhausted = false → e.length % 16 ≠ 0 → ∀ g, g < x.g →
        pageOk s.mems x rec_.seq a.set g (x.addr (listed s.mems e (e.pages - 1)) g) (e.pages - 1) e = true) →
      ∃ t, exec (.atAppendWrite r .none) s = .next t ∧ Wrote s t w.val ∧
        getSeq t.ctl rec_.seq = { e with appendBusy := true } ∧ (∀ n, n ≠ rec_.seq → getSeq t.ctl n = getSeq s.ctl n) ∧
        t.ctl.appends = s.ctl.appends.map (fun y => if y.ref = r then { y with pos := y.pos + 1 } else y) ∧
        findCmd t.ctl r = some { m with dst := m.dst ++ w.val.map (fun y => (y.1, y.2.length)), depends := false } ∧
        odVal s.part t.ctl 0x2B00 2 = odVal s.part s.ctl 0x2B00 2 ||| w.flags ∧
        Touches [.free, .od, .queues, .blocks, .seqs, .appends]
          (fun i k => (i = 0x2B00 ∧ k = 2) ∨ (0x4000 ≤ i ∧ k = 0xE)) (w.val.map fun y => (y.1, y.2.length)) []
          s t) ∧
    (∀ a, Turn s r 0 5 m → s.ctl.appends.find? (fun y => decide (y.ref = r) && !y.waiting) = some a → Settled s →
      m.parents = [] → m.exportOn = [] → a.recs.length ≤ a.pos →
      (a.pos = 0 → sigsFailed s.ctl d = false ∧ sigsPassed s.ctl d = true) → (a.recs.map AppendRec.seq).Nodup →
      ∃ t, exec (.atAppendPublish r) s = .next t ∧ Executed t r m ∧ t.ctl.appends = s.ctl.appends.erase a ∧
        (∀ x e, x ∈ a.recs → e = getSeq s.ctl x.seq →
          getSeq t.ctl x.seq =
            if x.skipped then e
            else if x.faulted then { e with appendBusy := false, state := .faulted }
            else if x.exhausted then { e with appendBusy := false, state := .exhausted }
            else
              { e with
                appendBusy := false
                head := listIdx e x.recycle
                pages := e.pages + x.taken.length
                length := e.length + x.len - 16 * x.recycle
                posBase := (e.posBase + 16 * x.recycle) % 2 ^ 32 }) ∧
        (∀ n, n ∉ a.recs.map AppendRec.seq → getSeq t.ctl n = getSeq s.ctl n) ∧
        Touches ([.blocks, .listCache, .walks, .links] ++ settlePieces)
          (fun i k => settleEntry i k ∨ engineEntry i k ∨ (i = 0x2B40 + a.set ∧ (k = 5 ∨ k = 6 ∨ k = 7)) ∨
            ∃ x, x ∈ a.recs ∧ messageEntry (owner s.part s.ctl .queue (getSeq s.ctl x.seq).queue) i k)
          [(64 * effVal s.part s.ctl (0x2B40 + a.set) 4 + 4 * odVal s.part s.ctl (0x2B40 + a.set) 5,
            4 * (a.recs.flatMap AppendRec.taken).length)]
          (a.recs.map fun x => ringSpan s.part s.ctl (owner s.part s.ctl .queue (getSeq s.ctl x.seq).queue)) s t)

/-- O55. The seven operations of AT.SEQ (06 R177, R178), accepted from the entry's state, with no reader and no
append under way, extents in device memory and powered domains: each changes its entry as the table of
operations says and no other entry, the look-aside buffers and walks forget the sequence, CLOSE returns all
its page sets and DROP_OLDEST the oldest to the pool's stack, and PARK writes the image that RESUME reads. -/
def Obligations.SequenceOperationsChangeTheirEntry : Prop :=
  ∀ (s : State) (r : Ref) (m : Cmd) (i : Instr) (op n k : Nat) (d : Desc) (e : Seq) (ps : List Nat)
    (ws : List (Nat × List Byte)), Undisturbed s → Turn s r 0 7 m →
    (op, i) ∈ [(0, .atSeqOpen r .none), (1, .atSeqClose r .none), (2, .atSeqPark r .none), (3, .atSeqResume r .none),
      (4, .atSeqRearm r .none), (5, .atSeqDropOldest r .none), (6, .atSeqSetScale r .none)] →
    d = m.desc → fld d 64 3 = op → n = fld d 80 12 → e = getSeq s.ctl n → e.readers = 0 → e.appendBusy = false →
    inDevice s.part s.ctl (seqExtent d op).1 (seqExtent d op).2 = true → spanOff m.off (seqExtent d op) = false →
    seqAccepts op e.state = true →
    (op = 3 → 0 < bitsN (devNat s.mems (64 * fld d 192 48) 32) 0 3 ∧
      bitsN (devNat s.mems (64 * fld d 192 48) 32) 0 3 < 4 ∧
      bitsN (devNat s.mems (64 * fld d 192 48) 32) 6 6 = fld d 96 6) →
    k = min (numF d (160, 13, 1, 4096)) e.pages →
    ps = (if op = 1 then ((List.range e.pages).map fun j => listed s.mems e j).reverse
      else if op = 5 then (List.range k).map (fun j => listed s.mems e j) else []) →
    ws = (if op = 2 then [(64 * fld d 192 48, seqImage e 0 0)]
      else if ps = [] then []
      else [(64 * effVal s.part s.ctl (0x2B40 + e.set) 4 + 4 * odVal s.part s.ctl (0x2B40 + e.set) 5, ps.flatMap (leBytes 4))]) →
    ∃ t, exec i s = .next t ∧ Executed t r m ∧ Wrote s t ws ∧ (∀ j, j ≠ n → getSeq t.ctl j = getSeq s.ctl j) ∧
      (op = 0 → getSeq t.ctl n =
        { state := .live
          cls := fld d 102 2
          window := fld d 104 1
          set := fld d 96 6
          client := fld d 240 8
          listCap := numF d (112, 13, 1, 4096)
          posBase := fld d 256 32
          kScale := clampScale (fld d 128 16)
          vScale := clampScale (fld d 144 16)
          listAddr := fld d 192 48
          queue := r.q }) ∧
      (op = 1 ∨ op = 2 → getSeq t.ctl n = {}) ∧
      (op = 3 → getSeq t.ctl n = ofImage (devNat s.mems (64 * fld d 192 48) 32) r.q) ∧
      (op = 4 → getSeq t.ctl n = { e with state := .live }) ∧
      (op = 5 → getSeq t.ctl n =
        { e with
          head := listIdx e k
          pages := e.pages - k
          length := e.length - min (16 * k) e.length
          posBase := (e.posBase + min (16 * k) e.length) % 2 ^ 32 }) ∧
      (op = 6 → getSeq t.ctl n =
        { e with
          kScale := clampScale (fld d 128 16)
          vScale := clampScale (fld d 144 16) }) ∧
      (∀ b x, x ∈ (getB t.ctl b).lab → x.1 ≠ n) ∧
      (tidy {} s.ctl.blocks = true → ∀ b, { getB t.ctl b with lab := (getB s.ctl b).lab } = getB s.ctl b) ∧
      odVal s.part t.ctl (0x2B40 + e.set) 5 = odVal s.part s.ctl (0x2B40 + e.set) 5 + ps.length ∧
      Touches ([.seqs, .blocks, .listCache, .walks] ++ enginePieces)
        (fun x y => engineEntry x y ∨ (x = 0x2B40 + e.set ∧ y = 5)) (ws.map fun w => (w.1, w.2.length)) [] s t

/-! ## The set and graph engine (07) -/

/-- O56. The eight descriptors of an SG half with their checks passed, on undisturbed operands (07 R215-R230): each
executes, writes its results in stream order with their signature, and changes nothing else of memory but its
work range. GATHER copies the rows that its indices name and writes zeros for a null
index, SCATTER leaves the rows that no index names, and an index that is neither null nor below N2 counts and
sets INDEX_RANGE; SORT and TOPK order
by a stable sort; a kept box of NMS is not suppressed by one kept before it; ASSIGN gives each column to at
most one row. -/
def Obligations.SetGraphDescriptorsExecute : Prop :=
  (∀ (s : State) (r : Ref) (m : Cmd) (d : Desc) (op : Nat) (i : Instr) (job : View → Ctl → Desc → SgJob) (j : SgJob),
    Undisturbed s → Turn s r 1 op m → d = m.desc →
    (op, i, job) ∈ [(0, .sgGather r .none, gatherJob), (1, .sgScatter r .none, scatterJob), (2, .sgSegred r .none, segredJob),
      (3, .sgSort r .none, sortJob), (4, .sgTopk r .none, topkJob), (5, .sgNms r .none, nmsJob),
      (6, .sgAssign r .none, assignJob), (7, .sgMsgpass r .none, msgpassJob)] →
    j = job s.view s.ctl d → sgFmt (fld d 64 4) = true → j.reserved = false → j.fmtOk = true → j.sizeOk = true →
    (∀ x, x ∈ j.srcs ++ j.dsts ++ j.work → inDevice s.part s.ctl x.1 x.2 = true ∧ spanOff m.off x = false) →
    (j.exempt = false → ∀ x y, x ∈ j.dsts → y ∈ j.srcs ++ j.work → ¬ (x.1 < y.1 + y.2 ∧ y.1 < x.1 + x.2)) →
    ∃ t z, exec i s = .next t ∧ Executed t r m ∧
      t.mems = applyOps s.mems ((undefSpans j.work s.ctl.fresh).posted ++ j.out.flatten.map fun w => .dev w.1 w.2) ∧
      findCmd t.ctl r = some z ∧ z.sigValue = BitVec.ofNat 64 (signatureOf j.out) ∧
      (op = 0 → Memory.wf s.mems = true → ∀ k wb, k < sgN d → wb = sgW d * sgSize (fld d 64 4) →
        devBytes t.mems ((sgDst d wb).row k).1 wb =
          if u32At s.mems (sgIdx d) k < sgN2 d then devBytes s.mems ((sgSrc d wb).row (u32At s.mems (sgIdx d) k)).1 wb
          else List.replicate wb 0) ∧
      (op = 0 ∨ op = 1 → ∀ bad, bad = ((List.range (sgN d)).filter fun k => decide (sgN2 d ≤ u32At s.mems (sgIdx d) k) &&
          decide (u32At s.mems (sgIdx d) k ≠ 0xFFFFFFFF)).length →
        (bad = 0 → odVal s.part t.ctl 0x2B80 1 = odVal s.part s.ctl 0x2B80 1 ∧
          odVal s.part t.ctl 0x2B80 2 = odVal s.part s.ctl 0x2B80 2) ∧
        (0 < bad → odVal s.part t.ctl 0x2B80 1 = odVal s.part s.ctl 0x2B80 1 ||| 1 ∧
          odVal s.part t.ctl 0x2B80 2 = satN 64 (odVal s.part s.ctl 0x2B80 2 + bad))) ∧
      (op = 7 → ∀ bad, bad = ((List.range (u32At s.mems (sgIdx d) (sgN d))).filter fun k =>
          decide (sgN2 d ≤ u32At s.mems (sgAux d) k) && decide (u32At s.mems (sgAux d) k ≠ 0xFFFFFFFF)).length →
        (bad = 0 → (odVal s.part t.ctl 0x2B80 1).testBit 0 = (odVal s.part s.ctl 0x2B80 1).testBit 0 ∧
          odVal s.part t.ctl 0x2B80 2 = odVal s.part s.ctl 0x2B80 2) ∧
        (0 < bad → (odVal s.part t.ctl 0x2B80 1).testBit 0 = true ∧
          odVal s.part t.ctl 0x2B80 2 = satN 64 (odVal s.part s.ctl 0x2B80 2 + bad))) ∧
      (op = 1 → ∀ k wb a, k < sgN2 d → (∀ n, n < sgN d → u32At s.mems (sgIdx d) n ≠ k) → wb = sgW d * sgSize (fld d 64 4) →
        ((sgDst d wb).row k).1 ≤ a → a < ((sgDst d wb).row k).1 + wb → sameByte s.mems t.mems a) ∧
      Touches enginePieces (fun x k => engineEntry x k ∨ (x = 0x2B80 ∧ 1 ≤ k ∧ k ≤ 4) ∨ (x = 0x2B00 ∧ k = 2))
        (j.out.flatten.map (fun w => (w.1, w.2.length)) ++ j.work) [] s t) ∧
  (∀ (key : Nat → Int) (n : Nat) (desc : Bool) (k : Nat → Int), k = (fun i => if desc then -(key i) else key i) →
    (sortedIdx key n desc).Perm (List.range n) ∧
      (sortedIdx key n desc).Pairwise (fun a b => k a < k b ∨ (k a = k b ∧ a < b))) ∧
  (∀ lvl rot per thr most n box cls l, 1 ≤ most → l = (nmsRun lvl rot per thr most n box cls).kept →
    l.length ≤ most ∧ (∀ a, a ∈ l → a < n ∧ degenerate rot (box a) = false) ∧
      l.Pairwise (fun a b => a < b ∧ ((per = true → cls b = cls a) → suppresses lvl rot thr (box b) (box a) = false))) ∧
  (∀ (allowed : Nat → Bool) (rows : List (List Nat)) (l : List (Option Nat)), l = (bestAsg allowed rows []).res →
    l.length = rows.length ∧ (l.filterMap id).Nodup ∧
      ∀ i j, l[i]? = some (some j) → allowed ((rows.getD i []).getD j 0) = true)

/-! ## Sensor streams (08, 16) -/

/-- O57. Arming and stopping streams (08 R232-R236, R258): an accepted ARM makes the stream RUNNING with its
descriptor, the queue that armed it and the parameters read now, and restarts SEQ; what a stream that was RUNNING
has in progress goes on under the old arming, and a live point cloud begins at the next whole window. A STOP makes the
stream IDLE at once. No other stream changes, and the admission entries follow. -/
def Obligations.StreamsArmAndStop : Prop :=
  ∀ (s : State) (r : Ref) (m : Cmd) (d : Desc) (cls n : Nat) (on off : Instr) (old : Stream), Undisturbed s →
    Turn s r cls 0 m → d = m.desc → old = getS s.ctl cls n →
    (cls, n, on, off) ∈ [(3, fld d 68 6, .imgProcArm r .none, .imgProcStop r),
      (2, numF d (68, 6, 0, 47), .vdDecodeArm r .none, .vdDecodeStop r),
      (4, fld d 68 3, .ptsVoxelArm r .none, .ptsVoxelStop r)] →
    (cls = 3 → fld d 66 2 = 1 → hasVd s.part = true) →
    (fld d 64 2 = 0 → (cls = 2 → vdCheck s.part s.ctl m.off n d = none) → (cls = 3 → imgCheck s.part s.ctl m.off n d = none) →
      (cls = 4 → ptsCheck s.view s.ctl m.off n d = none) →
      ∃ t x, exec on s = .next t ∧ Executed t r m ∧ getS t.ctl cls n = x ∧ x.state = .running ∧ x.seq = 0 ∧
        x.cause = old.cause ∧
        x.arm =
          { desc := d
            queue := r.q
            number := old.arm.number + 1
            params := if cls = 2 then [] else devBytes s.mems (64 * fld d 320 48) (if cls = 3 then 2176 else 128)
            table := if cls = 3 ∧ fld d 87 1 = 1 then devBytes s.mems (64 * fld d 416 48) (tableBytes d) else [] } ∧
        (old.state ≠ .running → x.cur = none ∧ x.started = false ∧ x.pics = [] ∧ (cls = 3 ∨ x.inbox = [])) ∧
        (cls = 3 → old.state = .running → x.cur = old.cur ∧ x.done = old.done ∧ x.started = false) ∧
        (cls = 2 → old.state = .running → x.done = old.done ∧ x.inbox = old.inbox ∧
          x.units.map Sample.arm = old.units.map Sample.arm ∧ x.started = false ∧
          ((∃ y, y ∈ old.cur.toList ++ old.units ++ old.done ∧ y.arm.number = old.arm.number) → old.present ∈ x.before)) ∧
        (cls = 4 → fromJournal x.arm = false → x.first = nextWindow s.ctl (fullTime s.ctl.time) ∧ x.win = x.first) ∧
        (cls = 4 → old.state = .running → x.done = old.done ∧ x.inbox = old.inbox ∧ x.pts = [] ∧
          x.before = (old.before ++
            [{ old.present with stop := nextWindow s.ctl (eraClock s.ctl (fromJournal old.arm)) }]).filter eraOpen) ∧
        (∀ k, k ≠ n → getS t.ctl cls k = getS s.ctl cls k) ∧ Admitted s t ∧
        Touches (streamPiece cls :: enginePieces) (fun i k => engineEntry i k ∨ (i = 0x2300 ∧ 1 ≤ k ∧ k ≤ 4)) [] [] s t) ∧
    (fld d 64 2 = 1 → BoundaryAhead s.ctl.time →
      ∃ t, exec off s = .next t ∧ Executed t r m ∧
        getS t.ctl cls n =
          { cause := old.cause
            arm := { number := old.arm.number } } ∧
        (∀ k, k ≠ n → getS t.ctl cls k = getS s.ctl cls k) ∧
        t.ctl.journal.ready = s.ctl.journal.ready.filter (fun x => !(decide (x.cls = cls) && decide (x.stream = n))) ∧
        Admitted s t ∧
        Touches ([streamPiece cls, .journal, .time, .links] ++ enginePieces)
          (fun i k => engineEntry i k ∨ (i = 0x2300 ∧ 1 ≤ k ∧ k ≤ 4) ∨ (i = 0x2200 ∧ (k = 0xB ∨ k = 0xC)) ∨ inputEntry i k)
          (journalSpans s.part s.ctl) [ringSpan s.part s.ctl 0] s t)

/-- O58. Camera and video inputs (08 R237-R247, R252), with no injection and no poison in force. A frame start
begins a sample with its corrected stamp, a line joins it, a frame end journals a whole frame and passes it on;
a header or checksum error halts a RUNNING live stream, and of a HALTED one it drops the frame. Packets join access units,
a gap marks those that it hits, and the unit of an old arming ends with it; an access unit is skipped, halts or gives a
picture; a decoded picture is taken as a frame. -/
def Obligations.CameraAndVideoInputsAct : Prop :=
  ∀ (s : State), Undisturbed s →
    (∀ port vc n x0, csiStream s.part s.ctl port vc = some n → x0 = getS s.ctl 3 n → x0.state = .running →
      (∀ num h raw, h ≠ .bad → x0.cur = none →
        ∃ t, exec (.csi2FrameStart port vc num h raw) s = .next t ∧
          getS t.ctl 3 n =
            { x0 with
              cur := some
                { arm := x0.arm
                  seq := x0.seq
                  stamp := csiStamp s.part s.ctl port raw
                  epoch := s.ctl.time.epoch
                  num := num
                  info0 := num }
              seq := x0.seq + 1
              started := true } ∧
          (∀ k, k ≠ n → getS t.ctl 3 k = getS s.ctl 3 k) ∧ Touches [.od, .img] (entries [(0x2300, 5)]) [] [] s t) ∧
      (∀ dtype payload h x, h ≠ .bad → ignoredType dtype = false → x0.cur = some x →
        dtype = dataType (fld x.arm.desc 80 4) → payload.length = lineBytes (fld x.arm.desc 80 4) (inW x.arm.desc) →
        x.lines.length < inH x.arm.desc →
        ∃ t, exec (.csi2LongPacket port vc dtype payload h true) s = .next t ∧
          getS t.ctl 3 n = { x0 with cur := some { x with lines := x.lines ++ [payload] } } ∧
          (∀ k, k ≠ n → getS t.ctl 3 k = getS s.ctl 3 k) ∧
          Touches [.free, .od, .img] (entries [(0x2300, 5)]) [(64 * fld x.arm.desc 368 48, stageBytes x.arm.desc)] [] s t) ∧
      (∀ num h x, h ≠ .bad → x0.cur = some x → num = x.num → x.lines.length = inH x.arm.desc →
        ∃ t, exec (.csi2FrameEnd port vc num h) s = .next t ∧
          getS t.ctl 3 n =
            { x0 with
              cur := none
              done := x0.done ++ [x] } ∧
          (∀ k, k ≠ n → getS t.ctl 3 k = getS s.ctl 3 k) ∧
          TouchesInput [.img] (entries [(0x2300, 5)]) [] [] s t) ∧
      (∀ i num raw dtype payload crcOk, i ∈ [.csi2FrameStart port vc num .bad raw,
          .csi2LongPacket port vc dtype payload .bad crcOk, .csi2FrameEnd port vc num .bad] →
        ∃ t, exec i s = .next t ∧ StreamHalted s t 3 n 1 (standing x0 (now s.ctl)) noEntry) ∧
      (∀ dtype payload h, h ≠ .bad → ignoredType dtype = false → (x0.started = true ∨ x0.cur.isSome = true) →
        ∃ t, exec (.csi2LongPacket port vc dtype payload h false) s = .next t ∧
          StreamHalted s t 3 n 2 (standing x0 (now s.ctl)) (entries [(0x2300, 5)]))) ∧
    (∀ port vc n i num raw dtype payload crcOk, csiStream s.part s.ctl port vc = some n →
      (getS s.ctl 3 n).state = .halted → i ∈ [.csi2FrameStart port vc num .bad raw,
        .csi2LongPacket port vc dtype payload .bad crcOk, .csi2FrameEnd port vc num .bad] →
      ∃ t, exec i s = .next t ∧ getS t.ctl 3 n = { getS s.ctl 3 n with cur := none } ∧
        (∀ k, k ≠ n → getS t.ctl 3 k = getS s.ctl 3 k) ∧ Touches [.img] noEntry [] [] s t) ∧
    (∀ n x0 g rest seq ts, x0 = getS s.ctl 2 n → x0.inbox = g :: rest → ingestRuns s.ctl 40 = true → x0.state = .running →
      isRtp g.bytes = true → seq = fieldBE g.bytes 2 2 → ts = fieldBE g.bytes 4 4 →
      ((ofArm g x0.arm = true ∧ (∀ x, x0.cur = some x → x.arm.number = x0.arm.number ∨ ofArm g x.arm = true)) ∨
          (∃ x, x0.cur = some x ∧ x.arm.number ≠ x0.arm.number ∧ ofArm g x.arm = true ∧ x.num = ts) →
        ∃ t, exec (.rtpPacket n) s = .next t ∧
          getS t.ctl 2 n = addPacket g (decide (x0.last ≠ 0) && decide (x0.last % 65536 ≠ seq))
            { x0 with
              inbox := rest
              last := seq + 1 } ∧
          (∀ k, k ≠ n → getS t.ctl 2 k = getS s.ctl 2 k) ∧ Touches [.vd] noEntry [] [] s t) ∧
      (∀ x, x0.cur = some x → x.arm.number ≠ x0.arm.number → ofArm g x.arm = true → x.num ≠ ts → ofArm g x0.arm = false →
        ∃ t, exec (.rtpPacket n) s = .next t ∧ getS t.ctl 2 n = endUnit { x0 with inbox := rest } ∧
          (∀ k, k ≠ n → getS t.ctl 2 k = getS s.ctl 2 k) ∧ Touches [.vd] noEntry [] [] s t)) ∧
    (∀ n u x0 a rest own begun d, x0 = getS s.ctl 2 n → x0.units = a :: rest → ingestRuns s.ctl 40 = true →
      x0.state = .running → own = decide (a.arm.number = x0.arm.number) → begun = (if own then x0.started else a.begun) →
      d = a.arm.desc →
      (((!begun && !u.randomAccess) || u.rasl) = true →
        ∃ t, exec (.accessUnitEnd n u false) s = .next t ∧
          getS t.ctl 2 n = endEras
            { x0 with
              units := rest
              leading := true } ∧
          odVal s.part t.ctl 0x2300 6 = satN 64 (odVal s.part s.ctl 0x2300 6 + 1) ∧
          (∀ k, k ≠ n → getS t.ctl 2 k = getS s.ctl 2 k) ∧ Touches [.od, .vd] (entries [(0x2300, 6)]) [] [] s t) ∧
      (((!begun && !u.randomAccess) || u.rasl) = false → (dimClaim d u || a.lost || badStream d u) = true →
        fromJournal a.arm = false →
        ∃ t, exec (.accessUnitEnd n u false) s = .next t ∧
          StreamHalted s t 2 n (if dimClaim d u then 4 else if a.lost then 6 else 5)
            { a with seq := x0.seqOf a.arm } noEntry) ∧
      (((!begun && !u.randomAccess) || u.rasl) = false → (dimClaim d u || a.lost || badStream d u) = false →
        ∃ t, exec (.accessUnitEnd n u false) s = .next t ∧
          getS t.ctl 2 n = endEras
            { x0 with
              units := rest
              started := x0.started || own
              pictures := x0.pictures + 1
              done := x0.done ++ (if u.shown then
                [{ a with
                   num := u.order
                   width := u.cropW
                   height := u.cropH
                   depth := u.depth
                   pic := x0.pictures }] else []) } ∧
          (∀ k, k ≠ n → getS t.ctl 2 k = getS s.ctl 2 k) ∧
          Touches [.free, .vd] noEntry [(64 * fld d 320 48, dpbBytes d)] [] s t)) ∧
    (∀ n x0 q rest d b spans, x0 = getS s.ctl 3 n → x0.pics = q :: rest → x0.state = .running → enginesRun s.ctl = true →
      pdOn s.ctl 41 = true → d = x0.arm.desc → q.width = inW d → q.height = inH d → b = (if fld d 80 4 = 7 then 2 else 1) →
      spans = ((List.range q.height).map fun y => (q.addr + q.stride * y, b * q.width)) ++
        (List.range (cdiv q.height 2)).map (fun y => (q.addr + q.stride * q.height + q.stride * y, b * (2 * cdiv q.width 2))) →
      ∃ t, exec (.imgDecodedPicture n) s = .next t ∧
        getS t.ctl 3 n =
          { x0 with
            pics := rest
            seq := x0.seq + 1
            done := x0.done ++
              [{ arm := x0.arm
                 seq := x0.seq
                 stamp := q.stamp
                 epoch := q.epoch
                 info0 := freeWord s.ctl
                 lines := spans.map fun k => devBytes s.mems k.1 k.2 }] } ∧
        (∀ k, k ≠ n → getS t.ctl 3 k = getS s.ctl 3 k) ∧
        Touches [.free, .img] noEntry [(64 * fld d 368 48, stageBytes d)] [] s t)

/-- O59. Lidar, sample output and reflex columns (08 R234, R239, R246-R251, 16 R462, R463, 14 R422-R424), with no
injection and no poison in force. The points of a good datagram join their windows, and a window closes into a
sample. A processed sample of any engine writes its slot and its status entry, or waits for its batch. A frame
with a good datagram reaches the streams whose flow it matches. Columns join the reflex queue, and the voter
writes or counts a result, or enters the safe state. -/
def Obligations.LidarSamplesAndColumnsAct : Prop :=
  ∀ (s : State), Undisturbed s →
    (∀ n x0 g rest k e a q count, x0 = getS s.ctl 4 n → x0.inbox = g :: rest → ingestRuns s.ctl 42 = true →
      x0.state = .running → k = eraAt x0 g.journal (windowStart s.ctl g.stamp) →
      e = x0.eras.getD (k.getD x0.before.length) x0.present → a = e.arm → q = ptsParam a.params →
      fromJournal a = g.journal → count = (if q.seqOff = 0xFFFF then 0 else dgField q g.bytes q.seqOff 2 + 1) →
      (∀ l, readDatagram s.ctl e q g = .inr l →
        ∃ t, exec (.lidarDatagram n) s = .next t ∧
          { getS t.ctl 4 n with
            column := x0.column
            columns := x0.columns } =
            l.foldl (fun x y => placePoint g.journal s.ctl.time.period (eraClock s.ctl g.journal) y x)
              (noteCounter g.flow g.journal count { x0 with inbox := rest }) ∧
          (fld a.desc 74 1 = 0 → t.ctl.safety = s.ctl.safety ∧ (getS t.ctl 4 n).column = x0.column) ∧
          (∀ k, k ≠ n → getS t.ctl 4 k = getS s.ctl 4 k) ∧
          Touches [.free, .pts, .safety] noEntry [(64 * fld a.desc 416 48, 64 * bufPoints a.desc)] [] s t) ∧
      (∀ cause, readDatagram s.ctl e q g = .inl cause → k.isSome = true → g.journal = false →
        ∃ t, exec (.lidarDatagram n) s = .next t ∧
          StreamHalted s t 4 n cause
            { standingWindow x0 false with
              draw := g.draw
              record := g.record } noEntry)) ∧
    (∀ n x0 k e w a motion vec o (due : Option (Nat × Nat)), x0 = getS s.ctl 4 n → x0.state = .running →
      ingestRuns s.ctl 42 = true →
      due = (recordedWindow x0).filter (fun y => decide (y.2 + s.ctl.time.period +
        (ptsParam (x0.eras.getD y.1 x0.present).arm.params).closeLag * us ≤ s.ctl.journal.clock)) →
      (due = some (k, w) ∨ (due = none ∧ x0.eras.findIdx? (fun e => !fromJournal e.arm) = some k ∧ w = e.win)) →
      e = x0.eras.getD k x0.present → a = e.arm →
      motion = decide (fieldAt (devBytes s.mems (64 * fld a.desc 368 48 + 32 * (e.seq % armSlots a)) 32) 0 4 =
        e.seq % 2 ^ 32) →
      vec = (fun i => (List.range 3).map fun j => if motion then
        fieldAt (devBytes s.mems (64 * fld a.desc 368 48 + 32 * (e.seq % armSlots a)) 32) (i + 4 * j) 4 else 0) →
      o = windowOut a (vec 4) (vec 16) motion (w + s.ctl.time.period) (e.pts.filter fun y => decide (y.win = w))
        (e.overs.filter fun x => decide (x = w)).length e.late →
      ∃ t y, exec (.lidarWindowClose n false) s = .next t ∧ (getS t.ctl 4 n).done = x0.done ++ [y] ∧ y.arm = a ∧
        y.seq = e.seq ∧ y.stamp = w % 2 ^ 64 ∧ y.epoch = w / 2 ^ 64 ∧ y.out = o.1 ∧ y.flags = o.2.1 ∧ y.info0 = o.2.2.1 ∧
        y.info1 = o.2.2.2.1 ∧ y.num = o.2.2.2.2 ∧
        getS t.ctl 4 n =
          { x0.modEra k (closedEra w (w + s.ctl.time.period)) with
            before := ((x0.modEra k (closedEra w (w + s.ctl.time.period))).before.filter eraOpen)
            done := x0.done ++ [y] } ∧
        (∀ j, j ≠ n → getS t.ctl 4 j = getS s.ctl 4 j) ∧ Touches [.pts, .time] noEntry [] [] s t) ∧
    (∀ (i : Instr) (cls n : Nat) (x y : Sample) (x0 x1 : Stream) (rest : List Sample) (ws : List (Nat × List Byte))
        (fl : Nat), enginesRun s.ctl = true → x0 = getS s.ctl cls n →
      ((i = .imgSamplePresent n false ∧ cls = 3 ∧ x0.done = x :: rest ∧ pdOn s.ctl 41 = true ∧ y = x ∧
          ws = (imgWrites s.part.arithLevel x).1 ∧ fl = (imgWrites s.part.arithLevel x).2 ∧ x1 = { x0 with done := rest }) ∨
        (i = .lidarSampleWritten n ∧ cls = 4 ∧ x0.done = x :: rest ∧ pdOn s.ctl 42 = true ∧ y = x ∧
          ws = [(armOut x.arm + ptsSlot x.arm.desc * (x.seq % armSlots x.arm), x.out)] ∧ fl = x.num ∧
          x1 = { x0 with done := rest }) ∨
        (i = .vdPictureOutput n ∧ cls = 2 ∧ nextPicture x0.done = some x ∧ x0.state = .running ∧ pdOn s.ctl 40 = true ∧
          y =
            { x with
              seq := x0.seqOf x.arm
              flags := if x.arm.number = x0.arm.number ∧ x0.leading ∧ x0.seqOf x.arm = 0 then 16 else 0
              info0 := x.width
              info1 := x.height + 65536 * x.depth } ∧
          ws = picWrites n y ∧ fl = 0 ∧
          x1 = endEras
            { x0.modEra (x0.eraOf x.arm) (fun e => { e with seq := e.seq + 1 }) with
              done := x0.done.erase x
              leading := if x.arm.number = x0.arm.number then false else x0.leading })) →
      ∃ t, exec i s = .next t ∧ getS t.ctl cls n = x1 ∧ (∀ k, k ≠ n → getS t.ctl cls k = getS s.ctl cls k) ∧
        odVal s.part t.ctl 0x2B00 2 = odVal s.part s.ctl 0x2B00 2 ||| fl ∧
        (armSource y.arm = 2 → Wrote s t ws ∧ t.ctl.journal.ready = s.ctl.journal.ready ++ [⟨cls, n, y⟩] ∧
          Touches [.od, .journal, streamPiece cls] (entries [(0x2B00, 2)]) (ws.map fun w => (w.1, w.2.length)) [] s t) ∧
        (armSource y.arm ≠ 2 → StatusGiven s t y 0 0 ∧
          (∀ a, outside ((armStatus y.arm + 32 * (y.seq % armSlots y.arm), 32) :: looseSpans s.part s.ctl) a →
            devByte t.mems a = devByte (applyOps s.mems (ws.map fun w => .dev w.1 w.2)) a) ∧
          Touches ([streamPiece cls, .img] ++ settlePieces) (fun i k => settleEntry i k ∨ (i = 0x2B00 ∧ k = 2))
            ((armStatus y.arm + 32 * (y.seq % armSlots y.arm), 32) :: ws.map (fun w => (w.1, w.2.length)) ++
              looseSpans s.part s.ctl) [] s t)) ∧
    (∀ mac frame fcsOk rx, macRuns s.part s.ctl mac = true →
      ((fcsOk = false ∨ frame.length < 60 ∨ 9212 < frame.length) →
        ∃ t, exec (.ethernetFrameReceived mac frame fcsOk rx) s = .next t ∧
          odVal s.part t.ctl 0x2912 (mac + 1) = satN 64 (odVal s.part s.ctl 0x2912 (mac + 1) + 1) ∧
          Touches [.od] (entries [(0x2912, mac + 1)]) [] [] s t) ∧
      (∀ u st, fcsOk = true → 60 ≤ frame.length → frame.length ≤ 9212 →
        macAccepts s.part s.ctl mac (fieldBE frame 0 6) = true → udpOf frame = some u → st = rxStamp s.part s.ctl mac rx →
        tidy {} s.ctl.vd = true → tidy {} s.ctl.pts = true →
        ∃ t, exec (.ethernetFrameReceived mac frame fcsOk rx) s = .next t ∧
          (∀ cls k x0, cls = 2 ∨ cls = 4 → x0 = getS s.ctl cls k →
            getS t.ctl cls k =
              if x0.state = .running then
                (match (flowsOf cls false x0).find? (fun f => flowMatches s.part s.ctl f mac u) with
                 | some f => { x0 with inbox := x0.inbox ++ [⟨u.bytes, f, st, false, 0, 0, offsetFor s.ctl false⟩] }
                 | none => x0)
              else x0) ∧
          TouchesInput [.vd, .pts] noEntry [] [] s t)) ∧
    (∀ e rest, s.ctl.safety.columns = e :: rest →
      ∃ t, exec .reflexColumn s = .next t ∧ t.ctl.safety.columns = rest ∧
        (s.ctl.safety.reflex.length < 16 → t.ctl.safety.reflex = s.ctl.safety.reflex ++
          [(e.1, (columnResult s.part s.ctl e.2.2).1, (columnResult s.part s.ctl e.2.2).2.1,
            (columnResult s.part s.ctl e.2.2).2.2, e.2.1)]) ∧
        (16 ≤ s.ctl.safety.reflex.length → t.ctl.safety.reflex = s.ctl.safety.reflex ∧
          odVal s.part t.ctl 0x2710 0xA = satN 64 (odVal s.part s.ctl 0x2710 0xA + 1)) ∧
        Touches [.od, .safety] (entries [(0x2710, 0xA)]) [] [] s t) ∧
    (∀ e rest f, s.ctl.safety.reflex = e :: rest → odVal s.part s.ctl 0x2710 1 ≠ 0 → s.ctl.safety.slice ≠ some .reflexVoter →
      f = effVal s.part s.ctl 0x2710 2 →
      (fifoAgents s.part s.ctl f).1 = 3 → (getFifo s.ctl f).words.length + 2 ≤ 64 →
      (∀ (l : Lanes) (out : Bool), (l = .agree ∧ out = false) ∨ ((∃ k, l = .outvoted k) ∧ out = true) →
        ∃ t, exec (.reflexVote l) s = .next t ∧ t.ctl.safety.reflex = rest ∧
          getFifo t.ctl f =
            { getFifo s.ctl f with
              words := (getFifo s.ctl f).words ++ [((reflexWords e out).1, false), ((reflexWords e out).2, true)] } ∧
          (∀ k, k ≠ f → getFifo t.ctl k = getFifo s.ctl k) ∧
          odVal s.part t.ctl 0x2710 9 = satN 64 (odVal s.part s.ctl 0x2710 9 + 1) ∧
          (out = true → odVal s.part t.ctl 0x2710 0xB = satN 32 (odVal s.part s.ctl 0x2710 0xB + 1)) ∧
          Touches [.od, .safety, .fifos, .faults] (fun i k => (i = 0x2710 ∧ (k = 9 ∨ k = 0xB)) ∨ (i = 0x2800 ∧ k = 0xA)) [] [] s t) ∧
      (s.ctl.safety.mode = .inService →
        (s.ctl.safety.entries.filter fun x => decide (diff (now s.ctl) x < ((60000000 * us : Nat) : Int))).length < 3 →
        ∃ t, exec (.reflexVote .differ) s = .next t ∧ t.ctl.safety.mode = .safeState ∧ t.ctl.safety.phase = 0 ∧
          t.ctl.safety.reflex = rest ∧ odVal s.part t.ctl 0x2700 4 = 4 ∧
          odVal s.part t.ctl 0x2700 3 = satN 32 (odVal s.part s.ctl 0x2700 3 + 1) ∧
          TouchesInput ([.faults, .links, .barrier] ++ settlePieces)
            (fun i k => settleEntry i k ∨ (i = 0x2700 ∧ (k = 3 ∨ k = 4)) ∨ (i = 0x2600 ∧ k = 0xC)) (looseSpans s.part s.ctl) [] s t))

/-! ## Moves, replay and the crypto engine (05, 08, 12, 13, 17) -/

/-- O60. The ferry and the crypto engine with their checks passed, on undisturbed operands (05 R166-R168, 08
R255-R257, 11 R318, 12 R370, 13 R382-R386, 17 R493, R494): DM.COPY moves its rows and a conversion of DM.LAYOUT writes what
its table says, 64 KiB of output at a time, and executes with the last piece; DM.REPLAY begins at its first position
that is not excluded, its deliveries draw samples, deliver records and end samples with the windows that they opened, a GAP
or a wrong CHECK halts the journal pipeline, and a complete batch is emitted; HASH, VERIFY and ATTEST write their digest,
verdict and report. -/
def Obligations.FerryAndCryptoExecute : Prop :=
  ∀ (s : State) (r : Ref) (m : Cmd) (d : Desc), Undisturbed s → d = m.desc →
    (∀ (srcHost dstHost : Bool) n rows ws now_ ops sig total, Turn s r 5 0 m → srcHost = decide (fld d 64 1 = 1) →
      dstHost = decide (fld d 65 1 = 1) → n = numF d (80, 24, 1, 16777215) → rows = copyRows d →
      (m.phase = 0 →
        (∀ x, x ∈ rows →
          (if srcHost then x.1 + n ≤ 2 ^ 64 else inFerry s.part s.ctl x.1 n = true ∧ spanOff m.off (x.1, n) = false) ∧
          (if dstHost then x.2 + n ≤ 2 ^ 64 else inFerry s.part s.ctl x.2 n = true ∧ spanOff m.off (x.2, n) = false)) ∧
        (srcHost = dstHost → ∀ x y, x ∈ rows → y ∈ rows → meet n x.1 y.2 = false) ∧
        (dstHost = false → ringSpoiled s.part s.ctl d rows n = false)) →
      ws = rows.map (fun x => (x.2, readAt s.view srcHost x.1 n)) → total = n * rows.length →
      now_ = slice (pieceBytes * m.phase) pieceBytes ws →
      ops = now_.map (fun w => if dstHost then MemOp.host w.1 w.2 else MemOp.dev w.1 w.2) →
      sig = crc64On (if m.phase = 0 then 0 else m.sigValue.toNat) (now_.flatMap Prod.snd) →
      ∃ t z, exec (.dmCopy r .none) s = .next t ∧ t.mems = applyOps s.mems ops ∧ findCmd t.ctl r = some z ∧
        (total ≤ pieceBytes * (m.phase + 1) → Executed t r m ∧
          z.sigValue = BitVec.ofNat 64 (crc64On sig (leBytes 8 total)) ∧
          (m.phase = 0 → z.sigValue = BitVec.ofNat 64 (signatureOf (ws.map fun w => [w])))) ∧
        (pieceBytes * (m.phase + 1) < total → z =
          { m with
            phase := m.phase + 1
            sigValue := BitVec.ofNat 64 sig
            dst := z.dst }) ∧
        Touches enginePieces engineEntry (if dstHost then [] else rows.map fun x => (x.2, n))
          (if dstHost then rows.map fun x => (x.2, n) else []) s t) ∧
    (∀ (code : Nat) (i : Instr) fmt n h w a b ws now_ total, Turn s r 5 1 m →
      (code, i) ∈ [(0, .planarToCi r .none), (1, .ciToPlanar r .none), (2, .zbtToPlanar r .none), (3, .planarToZbt r .none),
        (4, .zbtRebase r .none), (5, .phaseInterleave r .none)] →
      fld d 64 4 = code → fmt = fld d 68 4 → n = numF d (80, 16, 1, 65535) → h = numF d (96, 16, 1, 8192) →
      w = numF d (112, 16, 1, 8192) → a = layoutSrc d → b = layoutDst d →
      (m.phase = 0 → fmt < 6 ∧
        (∀ x, x ∈ layoutReads d fmt n h w a ++ layoutGroups s.mems fmt n h w a ++ layoutStores d fmt n h w b →
          inFerry s.part s.ctl x.1 x.2 = true ∧ spanOff m.off x = false) ∧
        ((a.zbt || b.zbt) = true → w ≤ 256)) →
      ws = layoutWrites s.mems d fmt n h w a b → total = (ws.map fun x => x.2.length).sum →
      now_ = slice (pieceBytes * m.phase) pieceBytes ws →
      ∃ t z, exec i s = .next t ∧ Wrote s t now_ ∧ findCmd t.ctl r = some z ∧
        (total ≤ pieceBytes * (m.phase + 1) → Executed t r m) ∧
        (pieceBytes * (m.phase + 1) < total → z =
          { m with
            phase := m.phase + 1
            sigValue := z.sigValue
            dst := z.dst }) ∧
        Touches enginePieces engineEntry (ws.map fun x => (x.1, x.2.length)) [] s t) ∧
    (∀ at_, Turn s r 5 3 m → m.phase = 0 → s.ctl.journal.replay = none →
      inFerry s.part s.ctl (repTable d) (16 * repN d) = true → spanOff m.off (repTable d, 16 * repN d) = false →
      at_ = skipTo s.mems d (repCount d) (repStart d) →
      ∃ t z, exec (.dmReplay r .none) s = .next t ∧ findCmd t.ctl r = some z ∧ z.phase = 1 ∧ t.ctl.journal.ready = [] ∧
        t.ctl.journal.offset = none ∧
        (at_ < repStart d + repCount d → z = { m with phase := 1 } ∧
          t.ctl.journal.replay = some
            { ref := r
              pos := at_
              stop := repStart d + repCount d
              base := at_ }) ∧
        (repStart d + repCount d ≤ at_ → z.stage = .executed ∧ z.status = m.status ∧ t.ctl.journal.replay = none) ∧
        t.mems = s.mems ∧ Touches (.journal :: enginePieces) engineEntry [] [] s t) ∧
    (∀ (x : Replay), replaying s.ctl = some (x, d) → enginesRun s.ctl = true → inboxesEmpty s.ctl = true →
      (∀ i first, x.cur = none → i = skipTo s.mems d (x.stop - x.pos) x.pos → x.drawn < repBatch d → i < x.stop →
        (x.drawn = 0 → batchTooBig s.view s.ctl d x = false) → first = devNat s.mems (repEntry d i) 4 →
        ∃ t, exec .replayRecordDelivery s = .next t ∧
          t.ctl.journal =
            { s.ctl.journal with
              replay := some
                { x with
                  pos := i + 1
                  drawn := x.drawn + 1
                  cur := some (i, repPerm d i, first, first + devNat s.mems (repEntry d i + 4) 4) } } ∧
          t.mems = s.mems ∧ Touches [.journal] noEntry [] [] s t) ∧
      (∀ pos idx next last, x.cur = some (pos, idx, next, last) → last ≤ next →
        ∃ t, exec .replayRecordDelivery s = .next t ∧ t.ctl.journal.replay = some { x with cur := none } ∧
          (∀ n, (getS t.ctl 4 n).state = .running → recordedWindow (getS t.ctl 4 n) = none) ∧ t.mems = s.mems ∧ Touches [.journal, .pts] noEntry [] [] s t) ∧
      (∀ pos idx next last (j : JRec), x.cur = some (pos, idx, next, last) → next < last → j = readRec s.view s.ctl next →
        j.kind < 8 → frameTooLong s.ctl j = false →
        (j.kind ≠ 6 → crc32c (payload s.view s.ctl j) = j.check → j.kind = 4 ∨ j.kind = 7 →
          ∃ t, exec .replayRecordDelivery s = .next t ∧ t.ctl.journal.clock = j.epoch * 2 ^ 64 + j.arrival ∧
            t.ctl.journal.offset = some (sgn 64 (fieldAt (payload s.view s.ctl j)
              (if j.kind = 4 then (payload s.view s.ctl j).length - 16 else 8) 8)) ∧
            t.ctl.journal.replay = some
              { x with
                cur := some (pos, idx, next + 1, last)
                start := some (x.start.getD (now s.ctl, j.arrival)) } ∧
            t.mems = s.mems ∧ Touches [.journal, .time] noEntry [] [] s t) ∧
        (j.kind = 6 ∨ crc32c (payload s.view s.ctl j) ≠ j.check →
          tooManyRecs s.part s.ctl j (payload s.view s.ctl j) = false →
          (∀ y, findCmd s.ctl x.ref = some y → y.committed = false) →
          ∃ t z, exec .replayRecordDelivery s = .next t ∧ t.ctl.journal.replay = none ∧ t.ctl.journal.ready = [] ∧
            (∀ cls k, cls = 2 ∨ cls = 3 ∨ cls = 4 → tidy {} (streamsOf s.ctl cls) = true →
              (getS s.ctl cls k).state = .running → armSource (getS s.ctl cls k).arm = 2 →
              (getS t.ctl cls k).state = .halted ∧ (getS t.ctl cls k).cause = 9) ∧
            findCmd t.ctl x.ref = some z ∧ z.status = 5 ∧
            Touches ([.img, .vd, .pts, .journal, .links, .time] ++ settlePieces)
              (fun i k => settleEntry i k ∨ messageEntry 0 i k) (looseSpans s.part s.ctl) [ringSpan s.part s.ctl 0] s t)) ∧
      (∀ at_, x.cur = none → 0 < x.drawn → at_ = skipTo s.mems d (x.stop - x.pos) x.pos →
        (repBatch d ≤ x.drawn ∨ x.stop ≤ at_) → allProcessed s.ctl = true →
        ∃ t, exec .batchEmitted s = .next t ∧ t.ctl.journal.ready = [] ∧
          (at_ < x.stop → t.ctl.journal.replay = some
            { x with
              pos := at_
              base := at_
              drawn := 0 }) ∧
          (x.stop ≤ at_ → t.ctl.journal.replay = none ∧ ∃ z, findCmd t.ctl x.ref = some z ∧ z.stage = .executed) ∧
          (∀ y, y ∈ s.ctl.journal.ready →
            min (getSync s.ctl (armSync y.sample.arm) + 1) (2 ^ 64 - 1) ≤ getSync t.ctl (armSync y.sample.arm)) ∧
          Touches ([.journal, .img] ++ enginePieces ++ settlePieces) (fun i k => settleEntry i k ∨ engineEntry i k)
            (s.ctl.journal.ready.map (fun y =>
              (armStatus y.sample.arm + 32 * (y.sample.seq % armSlots y.sample.arm), 32)) ++ looseSpans s.part s.ctl) [] s t)) ∧
    (∀ (op : Nat) (i : Instr) (nonce : List Byte) (ok : Bool) (rep : List Byte) (n out size : Nat)
        (ws : List (Nat × List Byte)), Turn s r 6 op m →
      (op, i) ∈ [(0, .cryHash r .none), (1, .cryVerify r .none), (2, .cryAttest r .none)] →
      n = numF d (if op = 2 then (128, 32, 0, 64) else (128, 32, 1, 0xFFFFFFFF)) → out = 64 * fld d 160 48 →
      size = (if op = 0 then 64 else if op = 1 then 1 else fld d 224 32) →
      (∀ x, x ∈ [(64 * fld d 64 48, n), (out, size)] ++ (if op = 1 then [(64 * fld d 256 48, 265)] else []) →
        inDevice s.part s.ctl x.1 x.2 = true ∧ spanOff m.off x = false) →
      (op = 2 → 1024 ≤ size) → nonce = devBytes s.mems (64 * fld d 64 48) n →
      ok = ecdsaOk (devBytes s.mems (64 * fld d 256 48) 133) (sha512 nonce) (devBytes s.mems (64 * fld d 256 48 + 133) 132) →
      rep = coseSign1 s.part s.ctl.free (attestPayload s.view nonce s.ctl) →
      ws = (if op = 0 then [(out, sha512 nonce)] else if op = 1 then [(out, [if ok then 1 else 0])]
        else [(out, leBytes 4 rep.length), (out + 64, rep)]) →
      ∃ t, exec i s = .next t ∧ Executed t r m ∧ Wrote s t ws ∧
        Touches enginePieces engineEntry (ws.map fun w => (w.1, w.2.length)) [] s t)
end

