-- ==== Sys2Proof/Laws/Map.lean ====
section
/-! SUPPORT. Sparse tables: a read after an update, and the canonical form kept. -/

namespace Sys2Proof.Machine

variable {β : Type}

@[simp] theorem look_nil (d : β) (k : Nat) : look d k [] = d := rfl

theorem look_filter_ne (d : β) (j k : Nat) (h : j ≠ k) (m : SMap β) :
    look d j (m.filter fun e => decide (e.1 ≠ k)) = look d j m := by
  induction m with
  | nil => rfl
  | cons e m ih =>
    obtain ⟨i, v⟩ := e
    by_cases hi : i = k
    · subst hi; simp [look, Ne.symm h] at ih ⊢; exact ih
    · simp [look, hi] at ih ⊢; rw [ih]

theorem look_filter_self (d : β) (k : Nat) (m : SMap β) :
    look d k (m.filter fun e => decide (e.1 ≠ k)) = d := by
  induction m with
  | nil => rfl
  | cons e m ih =>
    obtain ⟨i, v⟩ := e
    by_cases hi : i = k
    · subst hi; simp at ih ⊢; exact ih
    · simp [look, hi] at ih ⊢; exact ih

theorem look_place_ne (d : β) (j k : Nat) (h : j ≠ k) (v : β) (m : SMap β) :
    look d j (place k v m) = look d j m := by
  induction m with
  | nil => simp [place, look, Ne.symm h]
  | cons e m ih =>
    obtain ⟨i, u⟩ := e
    simp only [place]
    split
    · simp [look, Ne.symm h]
    · simp [look, ih]

theorem look_place_self (d : β) (k : Nat) (v : β) (m : SMap β) (hm : ∀ e ∈ m, e.1 ≠ k) :
    look d k (place k v m) = v := by
  induction m with
  | nil => simp [place, look]
  | cons e m ih =>
    obtain ⟨i, u⟩ := e
    simp only [place]
    split
    · simp [look]
    · have := hm (i, u) (by simp)
      simp only [look]
      rw [if_neg this]
      exact ih fun e he => hm e (by simp [he])

variable [DecidableEq β]

/-- A read of the key just written. -/
@[simp] theorem look_stow_self (d : β) (k : Nat) (v : β) (m : SMap β) : look d k (stow d k v m) = v := by
  simp only [stow]
  split
  · next h => rw [look_filter_self, h]
  · exact look_place_self d k v _ fun e he => by simpa using (List.mem_filter.mp he).2

/-- A read of another key, whose default may be another one. -/
@[simp] theorem look_stow_ne (d d' : β) (j k : Nat) (v : β) (m : SMap β) (h : j ≠ k) :
    look d j (stow d' k v m) = look d j m := by
  simp only [stow]
  split
  · exact look_filter_ne d j k h m
  · rw [look_place_ne d j k h, look_filter_ne d j k h]

theorem look_stow (d : β) (j k : Nat) (v : β) (m : SMap β) :
    look d j (stow d k v m) = if j = k then v else look d j m := by
  split
  · next h => subst h; simp
  · next h => simp [h]

@[simp] theorem look_tweak_self (d : β) (k : Nat) (f : β → β) (m : SMap β) :
    look d k (tweak d k f m) = f (look d k m) := by simp [tweak]

@[simp] theorem look_tweak_ne (d : β) (j k : Nat) (f : β → β) (m : SMap β) (h : j ≠ k) :
    look d j (tweak d k f m) = look d j m := by simp [tweak, h]

theorem tidy_filter (d : β) (q : Nat × β → Bool) (m : SMap β) (h : tidy d m = true) :
    tidy d (m.filter q) = true := by
  induction m with
  | nil => rfl
  | cons e m ih =>
    obtain ⟨j, v⟩ := e
    simp only [tidy, Bool.and_eq_true, decide_eq_true_eq] at h
    obtain ⟨⟨hv, ha⟩, ht⟩ := h
    by_cases hq : q (j, v)
    · simp only [List.filter_cons_of_pos hq, tidy, Bool.and_eq_true, decide_eq_true_eq]
      refine ⟨⟨hv, ?_⟩, ih ht⟩
      rw [List.all_eq_true] at ha ⊢
      exact fun x hx => ha x (List.mem_filter.mp hx).1
    · simpa only [List.filter_cons_of_neg hq] using ih ht

omit [DecidableEq β] in
theorem mem_place (k : Nat) (v : β) (m : SMap β) (e : Nat × β) :
    e ∈ place k v m → e = (k, v) ∨ e ∈ m := by
  induction m with
  | nil => simp [place]
  | cons f m ih =>
    obtain ⟨j, u⟩ := f
    simp only [place]
    split
    · simp
    · simp only [List.mem_cons]
      rintro (h | h)
      · exact .inr (.inl h)
      · rcases ih h with h | h
        · exact .inl h
        · exact .inr (.inr h)

theorem tidy_place (d : β) (k : Nat) (v : β) (m : SMap β) (h : tidy d m = true) (hv : v ≠ d)
    (hk : ∀ e ∈ m, e.1 ≠ k) : tidy d (place k v m) = true := by
  induction m with
  | nil => simp [place, tidy, hv]
  | cons e m ih =>
    obtain ⟨j, u⟩ := e
    have hs := h
    simp only [tidy, Bool.and_eq_true, decide_eq_true_eq, List.all_eq_true] at h
    obtain ⟨⟨hu, ha⟩, ht⟩ := h
    simp only [place]
    split
    · next hlt =>
      simp only [tidy, Bool.and_eq_true, decide_eq_true_eq, List.all_eq_true]
      refine ⟨⟨hv, ?_⟩, ⟨hu, ha⟩, ht⟩
      intro x hx
      rcases List.mem_cons.mp hx with rfl | hx
      · simpa using hlt
      · have := ha x hx; simp at this ⊢; omega
    · next hlt =>
      have hne := hk (j, u) (by simp)
      simp only [tidy, Bool.and_eq_true, decide_eq_true_eq, List.all_eq_true]
      refine ⟨⟨hu, ?_⟩, ih ht fun e he => hk e (by simp [he])⟩
      intro x hx
      rcases mem_place k v m x hx with rfl | hx
      · simp at hne ⊢; omega
      · exact ha x hx

/-- The canonical form is kept. -/
theorem tidy_stow (d : β) (k : Nat) (v : β) (m : SMap β) (h : tidy d m = true) :
    tidy d (stow d k v m) = true := by
  simp only [stow]
  split
  · exact tidy_filter d _ m h
  · next hv =>
    exact tidy_place d k v _ (tidy_filter d _ m h) hv fun e he => by simpa using (List.mem_filter.mp he).2

theorem tidy_tweak (d : β) (k : Nat) (f : β → β) (m : SMap β) (h : tidy d m = true) :
    tidy d (tweak d k f m) = true := tidy_stow d k _ m h

end Sys2Proof.Machine
end

