-- ==== Sys2Proof/Laws/Memory.lean ====
section
/-! SUPPORT. Memory: the canonical form is kept by every effect, a byte just written reads back, and every
other byte is left alone. -/

namespace Sys2Proof.Machine

/-! ### The canonical form -/

theorem mem_putCell (keep : Nat → Byte → Bool) (a : Nat) (b : Byte) (m : Memory) (c : Host.Cell) :
    c ∈ putCell keep a b m → c.1 = a ∨ c ∈ m := by
  induction m with
  | nil => simp only [putCell]; split <;> simp +contextual
  | cons e m ih =>
    obtain ⟨k, x⟩ := e
    simp only [putCell]
    split
    · split <;> simp +contextual [or_imp]
    · split
      · split <;> simp +contextual [or_imp]
      · simp only [List.mem_cons]
        rintro (h | h)
        · exact .inr (.inl h)
        · exact (ih h).imp id .inr

theorem memWf_putCell (keep : Nat → Byte → Bool) (a : Nat) (b : Byte) (m : Memory)
    (h : memWf keep m = true) : memWf keep (putCell keep a b m) = true := by
  induction m with
  | nil => simp only [putCell]; split <;> simp_all [memWf]
  | cons e m ih =>
    obtain ⟨k, x⟩ := e
    simp only [memWf, Bool.and_eq_true, List.all_eq_true, decide_eq_true_eq] at h
    obtain ⟨⟨hk, ha⟩, hm⟩ := h
    simp only [putCell]
    split
    · next hka =>
      subst hka
      split
      · next hb => simp only [memWf, Bool.and_eq_true, List.all_eq_true, decide_eq_true_eq]; exact ⟨⟨hb, ha⟩, hm⟩
      · exact hm
    · split
      · next hlt =>
        split
        · next hb =>
          simp only [memWf, Bool.and_eq_true, List.all_eq_true, decide_eq_true_eq]
          refine ⟨⟨hb, fun c hc => ?_⟩, ⟨hk, ha⟩, hm⟩
          rcases List.mem_cons.mp hc with rfl | hc
          · exact hlt
          · exact Nat.lt_trans hlt (ha c hc)
        · simp only [memWf, Bool.and_eq_true, List.all_eq_true, decide_eq_true_eq]; exact ⟨⟨hk, ha⟩, hm⟩
      · next hne hlt =>
        simp only [memWf, Bool.and_eq_true, List.all_eq_true, decide_eq_true_eq]
        refine ⟨⟨hk, fun c hc => ?_⟩, ih hm⟩
        rcases mem_putCell keep a b m c hc with h | h
        · omega
        · exact ha c h

theorem memWf_putBytes (keep : Nat → Byte → Bool) (a : Nat) (bs : List Byte) (m : Memory)
    (h : memWf keep m = true) : memWf keep (putBytes keep a bs m) = true := by
  induction bs generalizing a m with
  | nil => exact h
  | cons b bs ih => exact ih (a + 1) _ (memWf_putCell keep a b m h)

theorem memWf_filter (keep : Nat → Byte → Bool) (q : Host.Cell → Bool) (m : Memory)
    (h : memWf keep m = true) : memWf keep (m.filter q) = true := by
  induction m with
  | nil => rfl
  | cons e m ih =>
    obtain ⟨k, x⟩ := e
    simp only [memWf, Bool.and_eq_true, List.all_eq_true, decide_eq_true_eq] at h
    obtain ⟨⟨hk, ha⟩, hm⟩ := h
    by_cases hq : q (k, x)
    · simp only [List.filter_cons_of_pos hq, memWf, Bool.and_eq_true, List.all_eq_true, decide_eq_true_eq]
      exact ⟨⟨hk, fun c hc => ha c (List.mem_filter.mp hc).1⟩, ih hm⟩
    · simpa only [List.filter_cons_of_neg hq] using ih hm

theorem memWf_dropSpan (keep : Nat → Byte → Bool) (lo n : Nat) (m : Memory) (h : memWf keep m = true) :
    memWf keep (dropSpan lo n m) = true := memWf_filter keep _ m h

theorem mem_insNat (k : Nat) (l : List Nat) (x : Nat) : x ∈ insNat k l → x = k ∨ x ∈ l := by
  induction l with
  | nil => simp [insNat]
  | cons j l ih =>
    simp only [insNat]
    split
    · exact fun h => .inr h
    · split
      · simp +contextual
      · simp only [List.mem_cons]
        rintro (h | h)
        · exact .inr (.inl h)
        · exact (ih h).imp id .inr

theorem rising_insNat (k : Nat) (l : List Nat) (h : rising l = true) : rising (insNat k l) = true := by
  induction l with
  | nil => rfl
  | cons j l ih =>
    have h0 := h
    simp only [rising, Bool.and_eq_true, List.all_eq_true, decide_eq_true_eq] at h
    simp only [insNat]
    split
    · exact h0
    · split
      · next hlt =>
        simp only [rising, Bool.and_eq_true, List.all_eq_true, decide_eq_true_eq]
        refine ⟨fun b hb => ?_, h⟩
        rcases List.mem_cons.mp hb with rfl | hb
        · exact hlt
        · exact Nat.lt_trans hlt (h.1 b hb)
      · next hne hlt =>
        simp only [rising, Bool.and_eq_true, List.all_eq_true, decide_eq_true_eq]
        refine ⟨fun b hb => ?_, ih h.2⟩
        rcases mem_insNat k l b hb with rfl | hb
        · omega
        · exact h.1 b hb

theorem rising_filter (q : Nat → Bool) (l : List Nat) (h : rising l = true) : rising (l.filter q) = true := by
  induction l with
  | nil => rfl
  | cons j l ih =>
    simp only [rising, Bool.and_eq_true, List.all_eq_true, decide_eq_true_eq] at h
    by_cases hq : q j
    · simp only [List.filter_cons_of_pos hq, rising, Bool.and_eq_true, List.all_eq_true, decide_eq_true_eq]
      exact ⟨fun b hb => h.1 b (List.mem_filter.mp hb).1, ih h.2⟩
    · simpa only [List.filter_cons_of_neg hq] using ih h.2

/-- Every memory effect keeps the canonical form. -/
theorem applyOp_wf (m : Mems) (o : MemOp) (h : Memory.wf m = true) : Memory.wf (applyOp m o) = true := by
  simp only [Memory.wf, Bool.and_eq_true] at h ⊢
  obtain ⟨⟨⟨hd, hh⟩, hp⟩, hg⟩ := h
  cases o with
  | dev a bs => exact ⟨⟨⟨memWf_putBytes _ _ _ _ hd, hh⟩, rising_filter _ _ hp⟩, hg⟩
  | poison a => exact ⟨⟨⟨hd, hh⟩, rising_insNat _ _ hp⟩, hg⟩
  | host a bs => exact ⟨⟨⟨hd, memWf_putBytes _ _ _ _ hh⟩, hp⟩, hg⟩
  | undef a n k => exact ⟨⟨⟨memWf_putBytes _ _ _ _ hd, hh⟩, rising_filter _ _ hp⟩, hg⟩
  | lose g a n => exact ⟨⟨⟨memWf_filter _ _ _ hd, hh⟩, rising_filter _ _ hp⟩, by simp only [applyOp]; exact tidy_tweak 0 g (· + 1) m.gens hg⟩
  | zero a n => exact ⟨⟨⟨memWf_filter _ _ _ hd, hh⟩, rising_filter _ _ hp⟩, hg⟩

/-- Posted effects keep the canonical form. -/
theorem applyOps_wf (m : Mems) (os : List MemOp) (h : Memory.wf m = true) :
    Memory.wf (applyOps m os) = true := by
  induction os generalizing m with
  | nil => exact h
  | cons o os ih => exact ih _ (applyOp_wf m o h)

/-! ### Read after write -/

theorem cellAt_putCell_ne (keep : Nat → Byte → Bool) (a x : Nat) (b : Byte) (m : Memory) (hx : x ≠ a) :
    cellAt x (putCell keep a b m) = cellAt x m := by
  induction m with
  | nil => simp only [putCell]; split <;> simp [cellAt, Ne.symm hx]
  | cons e m ih =>
    obtain ⟨k, c⟩ := e
    simp only [putCell]
    split
    · next h => subst h; split <;> simp [cellAt, Ne.symm hx]
    · split
      · split <;> simp [cellAt, Ne.symm hx]
      · simp [cellAt, ih]

theorem cellAt_none (x : Nat) (m : Memory) (h : ∀ c ∈ m, x < c.1) : cellAt x m = none := by
  induction m with
  | nil => rfl
  | cons e m ih =>
    obtain ⟨k, c⟩ := e
    have := h (k, c) (by simp)
    simp only [cellAt]
    rw [if_neg (by simp at this; omega)]
    exact ih fun c hc => h c (by simp [hc])

theorem cellAt_putCell_self (keep : Nat → Byte → Bool) (a : Nat) (b : Byte) (m : Memory)
    (h : memWf keep m = true) : cellAt a (putCell keep a b m) = if keep a b then some b else none := by
  induction m with
  | nil => simp only [putCell]; split <;> simp [cellAt]
  | cons e m ih =>
    obtain ⟨k, c⟩ := e
    simp only [memWf, Bool.and_eq_true, List.all_eq_true, decide_eq_true_eq] at h
    obtain ⟨⟨hk, ha⟩, hm⟩ := h
    simp only [putCell]
    split
    · next hka =>
      subst hka
      split
      · simp [cellAt]
      · exact cellAt_none k m ha
    · next hne =>
      split
      · next hlt =>
        split
        · simp [cellAt]
        · refine cellAt_none a _ fun c hc => ?_
          rcases List.mem_cons.mp hc with rfl | hc
          · exact hlt
          · exact Nat.lt_trans hlt (ha c hc)
      · simp only [cellAt]; rw [if_neg hne, ih hm]

theorem cellAt_putBytes_out (keep : Nat → Byte → Bool) (a x : Nat) (bs : List Byte) (m : Memory)
    (hx : x < a ∨ a + bs.length ≤ x) : cellAt x (putBytes keep a bs m) = cellAt x m := by
  induction bs generalizing a m with
  | nil => rfl
  | cons b bs ih =>
    simp only [List.length_cons] at hx
    rw [putBytes, ih _ _ (by omega), cellAt_putCell_ne _ _ _ _ _ (by omega)]

theorem cellAt_putBytes_in (keep : Nat → Byte → Bool) (a i : Nat) (bs : List Byte) (m : Memory)
    (hm : memWf keep m = true) (hi : i < bs.length) :
    cellAt (a + i) (putBytes keep a bs m) = if keep (a + i) bs[i] then some bs[i] else none := by
  induction bs generalizing a m i with
  | nil => simp at hi
  | cons b bs ih =>
    cases i with
    | zero =>
      rw [putBytes, cellAt_putBytes_out _ _ _ _ _ (by omega)]
      simpa using cellAt_putCell_self keep a b m hm
    | succ i =>
      have := ih (a + 1) i (putCell keep a b m) (memWf_putCell keep a b m hm) (by simpa using hi)
      rw [putBytes, show a + (i + 1) = a + 1 + i by omega, this]
      simp

/-- A device byte outside the bytes written reads as before. -/
theorem devByte_dev_out (m : Mems) (a x : Nat) (bs : List Byte) (hx : x < a ∨ a + bs.length ≤ x) :
    devByte (applyOp m (.dev a bs)) x = devByte m x := by
  simp only [devByte, applyOp, cellAt_putBytes_out _ _ _ _ _ hx]

/-- A device byte written reads back. -/
theorem devByte_dev_in (m : Mems) (a i : Nat) (bs : List Byte) (hm : Memory.wf m = true) (hi : i < bs.length) :
    devByte (applyOp m (.dev a bs)) (a + i) = bs[i] := by
  simp only [Memory.wf, Bool.and_eq_true] at hm
  simp only [devByte, applyOp, cellAt_putBytes_in _ _ _ _ _ hm.1.1.1 hi, devKeep]
  by_cases h : a + i < dramTop <;> by_cases h0 : bs[i] = 0#8 <;> simp [unlisted, h, h0]

/-- A host byte outside the bytes written reads as before. -/
theorem hostByte_host_out (m : Mems) (a x : Nat) (bs : List Byte) (hx : x < a ∨ a + bs.length ≤ x) :
    hostByte (applyOp m (.host a bs)) x = hostByte m x := by
  simp only [hostByte, applyOp, cellAt_putBytes_out _ _ _ _ _ hx]

/-- A host byte written reads back. -/
theorem hostByte_host_in (m : Mems) (a i : Nat) (bs : List Byte) (hm : Memory.wf m = true)
    (hi : i < bs.length) : hostByte (applyOp m (.host a bs)) (a + i) = bs[i] := by
  simp only [Memory.wf, Bool.and_eq_true] at hm
  simp [hostByte, applyOp, cellAt_putBytes_in _ _ _ _ _ hm.1.1.2 hi, hostKeep]

@[simp] theorem devByte_host (m : Mems) (a x : Nat) (bs : List Byte) :
    devByte (applyOp m (.host a bs)) x = devByte m x := rfl

@[simp] theorem hostByte_dev (m : Mems) (a x : Nat) (bs : List Byte) :
    hostByte (applyOp m (.dev a bs)) x = hostByte m x := rfl

@[simp] theorem applyOps_nil (m : Mems) : applyOps m [] = m := rfl

@[simp] theorem applyOps_cons (m : Mems) (o : MemOp) (os : List MemOp) :
    applyOps m (o :: os) = applyOps (applyOp m o) os := rfl

theorem applyOps_append (m : Mems) (os ps : List MemOp) :
    applyOps m (os ++ ps) = applyOps (applyOps m os) ps := by
  induction os generalizing m with
  | nil => rfl
  | cons o os ih => exact ih _

end Sys2Proof.Machine
end

