-- ==== Sys2Proof/Laws/State.lean ====
section
/-! SUPPORT. What each named update of the control state does to each field: one lemma per field per
update, so that no proof unfolds a record update. -/

namespace Sys2Proof.Machine

/-! ### fresh -/

@[simp] theorem fresh_free (c : Ctl) : (c.fresh).free = c.free := rfl
@[simp] theorem fresh_posted (c : Ctl) : (c.fresh).posted = [] := rfl
@[simp] theorem fresh_out (c : Ctl) : (c.fresh).out = [] := rfl
@[simp] theorem fresh_od (c : Ctl) : (c.fresh).od = c.od := rfl
@[simp] theorem fresh_eff (c : Ctl) : (c.fresh).eff = c.eff := rfl
@[simp] theorem fresh_boot (c : Ctl) : (c.fresh).boot = c.boot := rfl
@[simp] theorem fresh_power (c : Ctl) : (c.fresh).power = c.power := rfl
@[simp] theorem fresh_safety (c : Ctl) : (c.fresh).safety = c.safety := rfl
@[simp] theorem fresh_faults (c : Ctl) : (c.fresh).faults = c.faults := rfl
@[simp] theorem fresh_time (c : Ctl) : (c.fresh).time = c.time := rfl
@[simp] theorem fresh_queues (c : Ctl) : (c.fresh).queues = c.queues := rfl
@[simp] theorem fresh_syncs (c : Ctl) : (c.fresh).syncs = c.syncs := rfl
@[simp] theorem fresh_fifos (c : Ctl) : (c.fresh).fifos = c.fifos := rfl
@[simp] theorem fresh_sched (c : Ctl) : (c.fresh).sched = c.sched := rfl
@[simp] theorem fresh_blocks (c : Ctl) : (c.fresh).blocks = c.blocks := rfl
@[simp] theorem fresh_seqs (c : Ctl) : (c.fresh).seqs = c.seqs := rfl
@[simp] theorem fresh_listCache (c : Ctl) : (c.fresh).listCache = c.listCache := rfl
@[simp] theorem fresh_walks (c : Ctl) : (c.fresh).walks = c.walks := rfl
@[simp] theorem fresh_appends (c : Ctl) : (c.fresh).appends = c.appends := rfl
@[simp] theorem fresh_img (c : Ctl) : (c.fresh).img = c.img := rfl
@[simp] theorem fresh_vd (c : Ctl) : (c.fresh).vd = c.vd := rfl
@[simp] theorem fresh_pts (c : Ctl) : (c.fresh).pts = c.pts := rfl
@[simp] theorem fresh_journal (c : Ctl) : (c.fresh).journal = c.journal := rfl
@[simp] theorem fresh_dram (c : Ctl) : (c.fresh).dram = c.dram := rfl
@[simp] theorem fresh_links (c : Ctl) : (c.fresh).links = c.links := rfl
@[simp] theorem fresh_barrier (c : Ctl) : (c.fresh).barrier = c.barrier := rfl
@[simp] theorem fresh_fleet (c : Ctl) : (c.fresh).fleet = c.fleet := rfl

/-! ### post -/

@[simp] theorem post_free (o : MemOp) (c : Ctl) : (post o c).free = c.free := rfl
@[simp] theorem post_posted (o : MemOp) (c : Ctl) : (post o c).posted = c.posted ++ [o] := rfl
@[simp] theorem post_out (o : MemOp) (c : Ctl) : (post o c).out = c.out := rfl
@[simp] theorem post_od (o : MemOp) (c : Ctl) : (post o c).od = c.od := rfl
@[simp] theorem post_eff (o : MemOp) (c : Ctl) : (post o c).eff = c.eff := rfl
@[simp] theorem post_boot (o : MemOp) (c : Ctl) : (post o c).boot = c.boot := rfl
@[simp] theorem post_power (o : MemOp) (c : Ctl) : (post o c).power = c.power := rfl
@[simp] theorem post_safety (o : MemOp) (c : Ctl) : (post o c).safety = c.safety := rfl
@[simp] theorem post_faults (o : MemOp) (c : Ctl) : (post o c).faults = c.faults := rfl
@[simp] theorem post_time (o : MemOp) (c : Ctl) : (post o c).time = c.time := rfl
@[simp] theorem post_queues (o : MemOp) (c : Ctl) : (post o c).queues = c.queues := rfl
@[simp] theorem post_syncs (o : MemOp) (c : Ctl) : (post o c).syncs = c.syncs := rfl
@[simp] theorem post_fifos (o : MemOp) (c : Ctl) : (post o c).fifos = c.fifos := rfl
@[simp] theorem post_sched (o : MemOp) (c : Ctl) : (post o c).sched = c.sched := rfl
@[simp] theorem post_blocks (o : MemOp) (c : Ctl) : (post o c).blocks = c.blocks := rfl
@[simp] theorem post_seqs (o : MemOp) (c : Ctl) : (post o c).seqs = c.seqs := rfl
@[simp] theorem post_listCache (o : MemOp) (c : Ctl) : (post o c).listCache = c.listCache := rfl
@[simp] theorem post_walks (o : MemOp) (c : Ctl) : (post o c).walks = c.walks := rfl
@[simp] theorem post_appends (o : MemOp) (c : Ctl) : (post o c).appends = c.appends := rfl
@[simp] theorem post_img (o : MemOp) (c : Ctl) : (post o c).img = c.img := rfl
@[simp] theorem post_vd (o : MemOp) (c : Ctl) : (post o c).vd = c.vd := rfl
@[simp] theorem post_pts (o : MemOp) (c : Ctl) : (post o c).pts = c.pts := rfl
@[simp] theorem post_journal (o : MemOp) (c : Ctl) : (post o c).journal = c.journal := rfl
@[simp] theorem post_dram (o : MemOp) (c : Ctl) : (post o c).dram = c.dram := rfl
@[simp] theorem post_links (o : MemOp) (c : Ctl) : (post o c).links = c.links := rfl
@[simp] theorem post_barrier (o : MemOp) (c : Ctl) : (post o c).barrier = c.barrier := rfl
@[simp] theorem post_fleet (o : MemOp) (c : Ctl) : (post o c).fleet = c.fleet := rfl

/-! ### postAll -/

@[simp] theorem postAll_free (os : List MemOp) (c : Ctl) : (postAll os c).free = c.free := rfl
@[simp] theorem postAll_posted (os : List MemOp) (c : Ctl) : (postAll os c).posted = c.posted ++ os := rfl
@[simp] theorem postAll_out (os : List MemOp) (c : Ctl) : (postAll os c).out = c.out := rfl
@[simp] theorem postAll_od (os : List MemOp) (c : Ctl) : (postAll os c).od = c.od := rfl
@[simp] theorem postAll_eff (os : List MemOp) (c : Ctl) : (postAll os c).eff = c.eff := rfl
@[simp] theorem postAll_boot (os : List MemOp) (c : Ctl) : (postAll os c).boot = c.boot := rfl
@[simp] theorem postAll_power (os : List MemOp) (c : Ctl) : (postAll os c).power = c.power := rfl
@[simp] theorem postAll_safety (os : List MemOp) (c : Ctl) : (postAll os c).safety = c.safety := rfl
@[simp] theorem postAll_faults (os : List MemOp) (c : Ctl) : (postAll os c).faults = c.faults := rfl
@[simp] theorem postAll_time (os : List MemOp) (c : Ctl) : (postAll os c).time = c.time := rfl
@[simp] theorem postAll_queues (os : List MemOp) (c : Ctl) : (postAll os c).queues = c.queues := rfl
@[simp] theorem postAll_syncs (os : List MemOp) (c : Ctl) : (postAll os c).syncs = c.syncs := rfl
@[simp] theorem postAll_fifos (os : List MemOp) (c : Ctl) : (postAll os c).fifos = c.fifos := rfl
@[simp] theorem postAll_sched (os : List MemOp) (c : Ctl) : (postAll os c).sched = c.sched := rfl
@[simp] theorem postAll_blocks (os : List MemOp) (c : Ctl) : (postAll os c).blocks = c.blocks := rfl
@[simp] theorem postAll_seqs (os : List MemOp) (c : Ctl) : (postAll os c).seqs = c.seqs := rfl
@[simp] theorem postAll_listCache (os : List MemOp) (c : Ctl) : (postAll os c).listCache = c.listCache := rfl
@[simp] theorem postAll_walks (os : List MemOp) (c : Ctl) : (postAll os c).walks = c.walks := rfl
@[simp] theorem postAll_appends (os : List MemOp) (c : Ctl) : (postAll os c).appends = c.appends := rfl
@[simp] theorem postAll_img (os : List MemOp) (c : Ctl) : (postAll os c).img = c.img := rfl
@[simp] theorem postAll_vd (os : List MemOp) (c : Ctl) : (postAll os c).vd = c.vd := rfl
@[simp] theorem postAll_pts (os : List MemOp) (c : Ctl) : (postAll os c).pts = c.pts := rfl
@[simp] theorem postAll_journal (os : List MemOp) (c : Ctl) : (postAll os c).journal = c.journal := rfl
@[simp] theorem postAll_dram (os : List MemOp) (c : Ctl) : (postAll os c).dram = c.dram := rfl
@[simp] theorem postAll_links (os : List MemOp) (c : Ctl) : (postAll os c).links = c.links := rfl
@[simp] theorem postAll_barrier (os : List MemOp) (c : Ctl) : (postAll os c).barrier = c.barrier := rfl
@[simp] theorem postAll_fleet (os : List MemOp) (c : Ctl) : (postAll os c).fleet = c.fleet := rfl

/-! ### postUndef -/

@[simp] theorem postUndef_free (a n : Nat) (c : Ctl) : (postUndef a n c).free = c.free + 1 := rfl
@[simp] theorem postUndef_posted (a n : Nat) (c : Ctl) : (postUndef a n c).posted = c.posted ++ [.undef a n c.free] := rfl
@[simp] theorem postUndef_out (a n : Nat) (c : Ctl) : (postUndef a n c).out = c.out := rfl
@[simp] theorem postUndef_od (a n : Nat) (c : Ctl) : (postUndef a n c).od = c.od := rfl
@[simp] theorem postUndef_eff (a n : Nat) (c : Ctl) : (postUndef a n c).eff = c.eff := rfl
@[simp] theorem postUndef_boot (a n : Nat) (c : Ctl) : (postUndef a n c).boot = c.boot := rfl
@[simp] theorem postUndef_power (a n : Nat) (c : Ctl) : (postUndef a n c).power = c.power := rfl
@[simp] theorem postUndef_safety (a n : Nat) (c : Ctl) : (postUndef a n c).safety = c.safety := rfl
@[simp] theorem postUndef_faults (a n : Nat) (c : Ctl) : (postUndef a n c).faults = c.faults := rfl
@[simp] theorem postUndef_time (a n : Nat) (c : Ctl) : (postUndef a n c).time = c.time := rfl
@[simp] theorem postUndef_queues (a n : Nat) (c : Ctl) : (postUndef a n c).queues = c.queues := rfl
@[simp] theorem postUndef_syncs (a n : Nat) (c : Ctl) : (postUndef a n c).syncs = c.syncs := rfl
@[simp] theorem postUndef_fifos (a n : Nat) (c : Ctl) : (postUndef a n c).fifos = c.fifos := rfl
@[simp] theorem postUndef_sched (a n : Nat) (c : Ctl) : (postUndef a n c).sched = c.sched := rfl
@[simp] theorem postUndef_blocks (a n : Nat) (c : Ctl) : (postUndef a n c).blocks = c.blocks := rfl
@[simp] theorem postUndef_seqs (a n : Nat) (c : Ctl) : (postUndef a n c).seqs = c.seqs := rfl
@[simp] theorem postUndef_listCache (a n : Nat) (c : Ctl) : (postUndef a n c).listCache = c.listCache := rfl
@[simp] theorem postUndef_walks (a n : Nat) (c : Ctl) : (postUndef a n c).walks = c.walks := rfl
@[simp] theorem postUndef_appends (a n : Nat) (c : Ctl) : (postUndef a n c).appends = c.appends := rfl
@[simp] theorem postUndef_img (a n : Nat) (c : Ctl) : (postUndef a n c).img = c.img := rfl
@[simp] theorem postUndef_vd (a n : Nat) (c : Ctl) : (postUndef a n c).vd = c.vd := rfl
@[simp] theorem postUndef_pts (a n : Nat) (c : Ctl) : (postUndef a n c).pts = c.pts := rfl
@[simp] theorem postUndef_journal (a n : Nat) (c : Ctl) : (postUndef a n c).journal = c.journal := rfl
@[simp] theorem postUndef_dram (a n : Nat) (c : Ctl) : (postUndef a n c).dram = c.dram := rfl
@[simp] theorem postUndef_links (a n : Nat) (c : Ctl) : (postUndef a n c).links = c.links := rfl
@[simp] theorem postUndef_barrier (a n : Nat) (c : Ctl) : (postUndef a n c).barrier = c.barrier := rfl
@[simp] theorem postUndef_fleet (a n : Nat) (c : Ctl) : (postUndef a n c).fleet = c.fleet := rfl

/-! ### postAt -/

@[simp] theorem postAt_free (h : Bool) (a : Nat) (bs : List Byte) (c : Ctl) : (postAt h a bs c).free = c.free := rfl
@[simp] theorem postAt_posted (h : Bool) (a : Nat) (bs : List Byte) (c : Ctl) : (postAt h a bs c).posted = c.posted ++ [if h then .host a bs else .dev a bs] := rfl
@[simp] theorem postAt_out (h : Bool) (a : Nat) (bs : List Byte) (c : Ctl) : (postAt h a bs c).out = c.out := rfl
@[simp] theorem postAt_od (h : Bool) (a : Nat) (bs : List Byte) (c : Ctl) : (postAt h a bs c).od = c.od := rfl
@[simp] theorem postAt_eff (h : Bool) (a : Nat) (bs : List Byte) (c : Ctl) : (postAt h a bs c).eff = c.eff := rfl
@[simp] theorem postAt_boot (h : Bool) (a : Nat) (bs : List Byte) (c : Ctl) : (postAt h a bs c).boot = c.boot := rfl
@[simp] theorem postAt_power (h : Bool) (a : Nat) (bs : List Byte) (c : Ctl) : (postAt h a bs c).power = c.power := rfl
@[simp] theorem postAt_safety (h : Bool) (a : Nat) (bs : List Byte) (c : Ctl) : (postAt h a bs c).safety = c.safety := rfl
@[simp] theorem postAt_faults (h : Bool) (a : Nat) (bs : List Byte) (c : Ctl) : (postAt h a bs c).faults = c.faults := rfl
@[simp] theorem postAt_time (h : Bool) (a : Nat) (bs : List Byte) (c : Ctl) : (postAt h a bs c).time = c.time := rfl
@[simp] theorem postAt_queues (h : Bool) (a : Nat) (bs : List Byte) (c : Ctl) : (postAt h a bs c).queues = c.queues := rfl
@[simp] theorem postAt_syncs (h : Bool) (a : Nat) (bs : List Byte) (c : Ctl) : (postAt h a bs c).syncs = c.syncs := rfl
@[simp] theorem postAt_fifos (h : Bool) (a : Nat) (bs : List Byte) (c : Ctl) : (postAt h a bs c).fifos = c.fifos := rfl
@[simp] theorem postAt_sched (h : Bool) (a : Nat) (bs : List Byte) (c : Ctl) : (postAt h a bs c).sched = c.sched := rfl
@[simp] theorem postAt_blocks (h : Bool) (a : Nat) (bs : List Byte) (c : Ctl) : (postAt h a bs c).blocks = c.blocks := rfl
@[simp] theorem postAt_seqs (h : Bool) (a : Nat) (bs : List Byte) (c : Ctl) : (postAt h a bs c).seqs = c.seqs := rfl
@[simp] theorem postAt_listCache (h : Bool) (a : Nat) (bs : List Byte) (c : Ctl) : (postAt h a bs c).listCache = c.listCache := rfl
@[simp] theorem postAt_walks (h : Bool) (a : Nat) (bs : List Byte) (c : Ctl) : (postAt h a bs c).walks = c.walks := rfl
@[simp] theorem postAt_appends (h : Bool) (a : Nat) (bs : List Byte) (c : Ctl) : (postAt h a bs c).appends = c.appends := rfl
@[simp] theorem postAt_img (h : Bool) (a : Nat) (bs : List Byte) (c : Ctl) : (postAt h a bs c).img = c.img := rfl
@[simp] theorem postAt_vd (h : Bool) (a : Nat) (bs : List Byte) (c : Ctl) : (postAt h a bs c).vd = c.vd := rfl
@[simp] theorem postAt_pts (h : Bool) (a : Nat) (bs : List Byte) (c : Ctl) : (postAt h a bs c).pts = c.pts := rfl
@[simp] theorem postAt_journal (h : Bool) (a : Nat) (bs : List Byte) (c : Ctl) : (postAt h a bs c).journal = c.journal := rfl
@[simp] theorem postAt_dram (h : Bool) (a : Nat) (bs : List Byte) (c : Ctl) : (postAt h a bs c).dram = c.dram := rfl
@[simp] theorem postAt_links (h : Bool) (a : Nat) (bs : List Byte) (c : Ctl) : (postAt h a bs c).links = c.links := rfl
@[simp] theorem postAt_barrier (h : Bool) (a : Nat) (bs : List Byte) (c : Ctl) : (postAt h a bs c).barrier = c.barrier := rfl
@[simp] theorem postAt_fleet (h : Bool) (a : Nat) (bs : List Byte) (c : Ctl) : (postAt h a bs c).fleet = c.fleet := rfl

/-! ### emit -/

@[simp] theorem emit_free (o : Out) (c : Ctl) : (emit o c).free = c.free := rfl
@[simp] theorem emit_posted (o : Out) (c : Ctl) : (emit o c).posted = c.posted := rfl
@[simp] theorem emit_out (o : Out) (c : Ctl) : (emit o c).out = c.out ++ [o] := rfl
@[simp] theorem emit_od (o : Out) (c : Ctl) : (emit o c).od = c.od := rfl
@[simp] theorem emit_eff (o : Out) (c : Ctl) : (emit o c).eff = c.eff := rfl
@[simp] theorem emit_boot (o : Out) (c : Ctl) : (emit o c).boot = c.boot := rfl
@[simp] theorem emit_power (o : Out) (c : Ctl) : (emit o c).power = c.power := rfl
@[simp] theorem emit_safety (o : Out) (c : Ctl) : (emit o c).safety = c.safety := rfl
@[simp] theorem emit_faults (o : Out) (c : Ctl) : (emit o c).faults = c.faults := rfl
@[simp] theorem emit_time (o : Out) (c : Ctl) : (emit o c).time = c.time := rfl
@[simp] theorem emit_queues (o : Out) (c : Ctl) : (emit o c).queues = c.queues := rfl
@[simp] theorem emit_syncs (o : Out) (c : Ctl) : (emit o c).syncs = c.syncs := rfl
@[simp] theorem emit_fifos (o : Out) (c : Ctl) : (emit o c).fifos = c.fifos := rfl
@[simp] theorem emit_sched (o : Out) (c : Ctl) : (emit o c).sched = c.sched := rfl
@[simp] theorem emit_blocks (o : Out) (c : Ctl) : (emit o c).blocks = c.blocks := rfl
@[simp] theorem emit_seqs (o : Out) (c : Ctl) : (emit o c).seqs = c.seqs := rfl
@[simp] theorem emit_listCache (o : Out) (c : Ctl) : (emit o c).listCache = c.listCache := rfl
@[simp] theorem emit_walks (o : Out) (c : Ctl) : (emit o c).walks = c.walks := rfl
@[simp] theorem emit_appends (o : Out) (c : Ctl) : (emit o c).appends = c.appends := rfl
@[simp] theorem emit_img (o : Out) (c : Ctl) : (emit o c).img = c.img := rfl
@[simp] theorem emit_vd (o : Out) (c : Ctl) : (emit o c).vd = c.vd := rfl
@[simp] theorem emit_pts (o : Out) (c : Ctl) : (emit o c).pts = c.pts := rfl
@[simp] theorem emit_journal (o : Out) (c : Ctl) : (emit o c).journal = c.journal := rfl
@[simp] theorem emit_dram (o : Out) (c : Ctl) : (emit o c).dram = c.dram := rfl
@[simp] theorem emit_links (o : Out) (c : Ctl) : (emit o c).links = c.links := rfl
@[simp] theorem emit_barrier (o : Out) (c : Ctl) : (emit o c).barrier = c.barrier := rfl
@[simp] theorem emit_fleet (o : Out) (c : Ctl) : (emit o c).fleet = c.fleet := rfl

/-! ### odSet -/

@[simp] theorem odSet_free (p : Part) (i s v : Nat) (c : Ctl) : (odSet p i s v c).free = c.free := rfl
@[simp] theorem odSet_posted (p : Part) (i s v : Nat) (c : Ctl) : (odSet p i s v c).posted = c.posted := rfl
@[simp] theorem odSet_out (p : Part) (i s v : Nat) (c : Ctl) : (odSet p i s v c).out = c.out := rfl
@[simp] theorem odSet_od (p : Part) (i s v : Nat) (c : Ctl) : (odSet p i s v c).od = stow (odDefault p i s) (odKey i s) v c.od := rfl
@[simp] theorem odSet_eff (p : Part) (i s v : Nat) (c : Ctl) : (odSet p i s v c).eff = c.eff := rfl
@[simp] theorem odSet_boot (p : Part) (i s v : Nat) (c : Ctl) : (odSet p i s v c).boot = c.boot := rfl
@[simp] theorem odSet_power (p : Part) (i s v : Nat) (c : Ctl) : (odSet p i s v c).power = c.power := rfl
@[simp] theorem odSet_safety (p : Part) (i s v : Nat) (c : Ctl) : (odSet p i s v c).safety = c.safety := rfl
@[simp] theorem odSet_faults (p : Part) (i s v : Nat) (c : Ctl) : (odSet p i s v c).faults = c.faults := rfl
@[simp] theorem odSet_time (p : Part) (i s v : Nat) (c : Ctl) : (odSet p i s v c).time = c.time := rfl
@[simp] theorem odSet_queues (p : Part) (i s v : Nat) (c : Ctl) : (odSet p i s v c).queues = c.queues := rfl
@[simp] theorem odSet_syncs (p : Part) (i s v : Nat) (c : Ctl) : (odSet p i s v c).syncs = c.syncs := rfl
@[simp] theorem odSet_fifos (p : Part) (i s v : Nat) (c : Ctl) : (odSet p i s v c).fifos = c.fifos := rfl
@[simp] theorem odSet_sched (p : Part) (i s v : Nat) (c : Ctl) : (odSet p i s v c).sched = c.sched := rfl
@[simp] theorem odSet_blocks (p : Part) (i s v : Nat) (c : Ctl) : (odSet p i s v c).blocks = c.blocks := rfl
@[simp] theorem odSet_seqs (p : Part) (i s v : Nat) (c : Ctl) : (odSet p i s v c).seqs = c.seqs := rfl
@[simp] theorem odSet_listCache (p : Part) (i s v : Nat) (c : Ctl) : (odSet p i s v c).listCache = c.listCache := rfl
@[simp] theorem odSet_walks (p : Part) (i s v : Nat) (c : Ctl) : (odSet p i s v c).walks = c.walks := rfl
@[simp] theorem odSet_appends (p : Part) (i s v : Nat) (c : Ctl) : (odSet p i s v c).appends = c.appends := rfl
@[simp] theorem odSet_img (p : Part) (i s v : Nat) (c : Ctl) : (odSet p i s v c).img = c.img := rfl
@[simp] theorem odSet_vd (p : Part) (i s v : Nat) (c : Ctl) : (odSet p i s v c).vd = c.vd := rfl
@[simp] theorem odSet_pts (p : Part) (i s v : Nat) (c : Ctl) : (odSet p i s v c).pts = c.pts := rfl
@[simp] theorem odSet_journal (p : Part) (i s v : Nat) (c : Ctl) : (odSet p i s v c).journal = c.journal := rfl
@[simp] theorem odSet_dram (p : Part) (i s v : Nat) (c : Ctl) : (odSet p i s v c).dram = c.dram := rfl
@[simp] theorem odSet_links (p : Part) (i s v : Nat) (c : Ctl) : (odSet p i s v c).links = c.links := rfl
@[simp] theorem odSet_barrier (p : Part) (i s v : Nat) (c : Ctl) : (odSet p i s v c).barrier = c.barrier := rfl
@[simp] theorem odSet_fleet (p : Part) (i s v : Nat) (c : Ctl) : (odSet p i s v c).fleet = c.fleet := rfl

/-! ### bump -/

@[simp] theorem bump_free (p : Part) (i s w k : Nat) (c : Ctl) : (bump p i s w k c).free = c.free := rfl
@[simp] theorem bump_posted (p : Part) (i s w k : Nat) (c : Ctl) : (bump p i s w k c).posted = c.posted := rfl
@[simp] theorem bump_out (p : Part) (i s w k : Nat) (c : Ctl) : (bump p i s w k c).out = c.out := rfl
@[simp] theorem bump_od (p : Part) (i s w k : Nat) (c : Ctl) : (bump p i s w k c).od = stow (odDefault p i s) (odKey i s) (satN w (odVal p c i s + k)) c.od := rfl
@[simp] theorem bump_eff (p : Part) (i s w k : Nat) (c : Ctl) : (bump p i s w k c).eff = c.eff := rfl
@[simp] theorem bump_boot (p : Part) (i s w k : Nat) (c : Ctl) : (bump p i s w k c).boot = c.boot := rfl
@[simp] theorem bump_power (p : Part) (i s w k : Nat) (c : Ctl) : (bump p i s w k c).power = c.power := rfl
@[simp] theorem bump_safety (p : Part) (i s w k : Nat) (c : Ctl) : (bump p i s w k c).safety = c.safety := rfl
@[simp] theorem bump_faults (p : Part) (i s w k : Nat) (c : Ctl) : (bump p i s w k c).faults = c.faults := rfl
@[simp] theorem bump_time (p : Part) (i s w k : Nat) (c : Ctl) : (bump p i s w k c).time = c.time := rfl
@[simp] theorem bump_queues (p : Part) (i s w k : Nat) (c : Ctl) : (bump p i s w k c).queues = c.queues := rfl
@[simp] theorem bump_syncs (p : Part) (i s w k : Nat) (c : Ctl) : (bump p i s w k c).syncs = c.syncs := rfl
@[simp] theorem bump_fifos (p : Part) (i s w k : Nat) (c : Ctl) : (bump p i s w k c).fifos = c.fifos := rfl
@[simp] theorem bump_sched (p : Part) (i s w k : Nat) (c : Ctl) : (bump p i s w k c).sched = c.sched := rfl
@[simp] theorem bump_blocks (p : Part) (i s w k : Nat) (c : Ctl) : (bump p i s w k c).blocks = c.blocks := rfl
@[simp] theorem bump_seqs (p : Part) (i s w k : Nat) (c : Ctl) : (bump p i s w k c).seqs = c.seqs := rfl
@[simp] theorem bump_listCache (p : Part) (i s w k : Nat) (c : Ctl) : (bump p i s w k c).listCache = c.listCache := rfl
@[simp] theorem bump_walks (p : Part) (i s w k : Nat) (c : Ctl) : (bump p i s w k c).walks = c.walks := rfl
@[simp] theorem bump_appends (p : Part) (i s w k : Nat) (c : Ctl) : (bump p i s w k c).appends = c.appends := rfl
@[simp] theorem bump_img (p : Part) (i s w k : Nat) (c : Ctl) : (bump p i s w k c).img = c.img := rfl
@[simp] theorem bump_vd (p : Part) (i s w k : Nat) (c : Ctl) : (bump p i s w k c).vd = c.vd := rfl
@[simp] theorem bump_pts (p : Part) (i s w k : Nat) (c : Ctl) : (bump p i s w k c).pts = c.pts := rfl
@[simp] theorem bump_journal (p : Part) (i s w k : Nat) (c : Ctl) : (bump p i s w k c).journal = c.journal := rfl
@[simp] theorem bump_dram (p : Part) (i s w k : Nat) (c : Ctl) : (bump p i s w k c).dram = c.dram := rfl
@[simp] theorem bump_links (p : Part) (i s w k : Nat) (c : Ctl) : (bump p i s w k c).links = c.links := rfl
@[simp] theorem bump_barrier (p : Part) (i s w k : Nat) (c : Ctl) : (bump p i s w k c).barrier = c.barrier := rfl
@[simp] theorem bump_fleet (p : Part) (i s w k : Nat) (c : Ctl) : (bump p i s w k c).fleet = c.fleet := rfl

/-! ### orFlags -/

@[simp] theorem orFlags_free (p : Part) (i s b : Nat) (c : Ctl) : (orFlags p i s b c).free = c.free := rfl
@[simp] theorem orFlags_posted (p : Part) (i s b : Nat) (c : Ctl) : (orFlags p i s b c).posted = c.posted := rfl
@[simp] theorem orFlags_out (p : Part) (i s b : Nat) (c : Ctl) : (orFlags p i s b c).out = c.out := rfl
@[simp] theorem orFlags_od (p : Part) (i s b : Nat) (c : Ctl) : (orFlags p i s b c).od = stow (odDefault p i s) (odKey i s) (odVal p c i s ||| b) c.od := rfl
@[simp] theorem orFlags_eff (p : Part) (i s b : Nat) (c : Ctl) : (orFlags p i s b c).eff = c.eff := rfl
@[simp] theorem orFlags_boot (p : Part) (i s b : Nat) (c : Ctl) : (orFlags p i s b c).boot = c.boot := rfl
@[simp] theorem orFlags_power (p : Part) (i s b : Nat) (c : Ctl) : (orFlags p i s b c).power = c.power := rfl
@[simp] theorem orFlags_safety (p : Part) (i s b : Nat) (c : Ctl) : (orFlags p i s b c).safety = c.safety := rfl
@[simp] theorem orFlags_faults (p : Part) (i s b : Nat) (c : Ctl) : (orFlags p i s b c).faults = c.faults := rfl
@[simp] theorem orFlags_time (p : Part) (i s b : Nat) (c : Ctl) : (orFlags p i s b c).time = c.time := rfl
@[simp] theorem orFlags_queues (p : Part) (i s b : Nat) (c : Ctl) : (orFlags p i s b c).queues = c.queues := rfl
@[simp] theorem orFlags_syncs (p : Part) (i s b : Nat) (c : Ctl) : (orFlags p i s b c).syncs = c.syncs := rfl
@[simp] theorem orFlags_fifos (p : Part) (i s b : Nat) (c : Ctl) : (orFlags p i s b c).fifos = c.fifos := rfl
@[simp] theorem orFlags_sched (p : Part) (i s b : Nat) (c : Ctl) : (orFlags p i s b c).sched = c.sched := rfl
@[simp] theorem orFlags_blocks (p : Part) (i s b : Nat) (c : Ctl) : (orFlags p i s b c).blocks = c.blocks := rfl
@[simp] theorem orFlags_seqs (p : Part) (i s b : Nat) (c : Ctl) : (orFlags p i s b c).seqs = c.seqs := rfl
@[simp] theorem orFlags_listCache (p : Part) (i s b : Nat) (c : Ctl) : (orFlags p i s b c).listCache = c.listCache := rfl
@[simp] theorem orFlags_walks (p : Part) (i s b : Nat) (c : Ctl) : (orFlags p i s b c).walks = c.walks := rfl
@[simp] theorem orFlags_appends (p : Part) (i s b : Nat) (c : Ctl) : (orFlags p i s b c).appends = c.appends := rfl
@[simp] theorem orFlags_img (p : Part) (i s b : Nat) (c : Ctl) : (orFlags p i s b c).img = c.img := rfl
@[simp] theorem orFlags_vd (p : Part) (i s b : Nat) (c : Ctl) : (orFlags p i s b c).vd = c.vd := rfl
@[simp] theorem orFlags_pts (p : Part) (i s b : Nat) (c : Ctl) : (orFlags p i s b c).pts = c.pts := rfl
@[simp] theorem orFlags_journal (p : Part) (i s b : Nat) (c : Ctl) : (orFlags p i s b c).journal = c.journal := rfl
@[simp] theorem orFlags_dram (p : Part) (i s b : Nat) (c : Ctl) : (orFlags p i s b c).dram = c.dram := rfl
@[simp] theorem orFlags_links (p : Part) (i s b : Nat) (c : Ctl) : (orFlags p i s b c).links = c.links := rfl
@[simp] theorem orFlags_barrier (p : Part) (i s b : Nat) (c : Ctl) : (orFlags p i s b c).barrier = c.barrier := rfl
@[simp] theorem orFlags_fleet (p : Part) (i s b : Nat) (c : Ctl) : (orFlags p i s b c).fleet = c.fleet := rfl

/-! ### modQ -/

@[simp] theorem modQ_free (n : Nat) (f : Queue → Queue) (c : Ctl) : (modQ n f c).free = c.free := rfl
@[simp] theorem modQ_posted (n : Nat) (f : Queue → Queue) (c : Ctl) : (modQ n f c).posted = c.posted := rfl
@[simp] theorem modQ_out (n : Nat) (f : Queue → Queue) (c : Ctl) : (modQ n f c).out = c.out := rfl
@[simp] theorem modQ_od (n : Nat) (f : Queue → Queue) (c : Ctl) : (modQ n f c).od = c.od := rfl
@[simp] theorem modQ_eff (n : Nat) (f : Queue → Queue) (c : Ctl) : (modQ n f c).eff = c.eff := rfl
@[simp] theorem modQ_boot (n : Nat) (f : Queue → Queue) (c : Ctl) : (modQ n f c).boot = c.boot := rfl
@[simp] theorem modQ_power (n : Nat) (f : Queue → Queue) (c : Ctl) : (modQ n f c).power = c.power := rfl
@[simp] theorem modQ_safety (n : Nat) (f : Queue → Queue) (c : Ctl) : (modQ n f c).safety = c.safety := rfl
@[simp] theorem modQ_faults (n : Nat) (f : Queue → Queue) (c : Ctl) : (modQ n f c).faults = c.faults := rfl
@[simp] theorem modQ_time (n : Nat) (f : Queue → Queue) (c : Ctl) : (modQ n f c).time = c.time := rfl
@[simp] theorem modQ_queues (n : Nat) (f : Queue → Queue) (c : Ctl) : (modQ n f c).queues = tweak {} n f c.queues := rfl
@[simp] theorem modQ_syncs (n : Nat) (f : Queue → Queue) (c : Ctl) : (modQ n f c).syncs = c.syncs := rfl
@[simp] theorem modQ_fifos (n : Nat) (f : Queue → Queue) (c : Ctl) : (modQ n f c).fifos = c.fifos := rfl
@[simp] theorem modQ_sched (n : Nat) (f : Queue → Queue) (c : Ctl) : (modQ n f c).sched = c.sched := rfl
@[simp] theorem modQ_blocks (n : Nat) (f : Queue → Queue) (c : Ctl) : (modQ n f c).blocks = c.blocks := rfl
@[simp] theorem modQ_seqs (n : Nat) (f : Queue → Queue) (c : Ctl) : (modQ n f c).seqs = c.seqs := rfl
@[simp] theorem modQ_listCache (n : Nat) (f : Queue → Queue) (c : Ctl) : (modQ n f c).listCache = c.listCache := rfl
@[simp] theorem modQ_walks (n : Nat) (f : Queue → Queue) (c : Ctl) : (modQ n f c).walks = c.walks := rfl
@[simp] theorem modQ_appends (n : Nat) (f : Queue → Queue) (c : Ctl) : (modQ n f c).appends = c.appends := rfl
@[simp] theorem modQ_img (n : Nat) (f : Queue → Queue) (c : Ctl) : (modQ n f c).img = c.img := rfl
@[simp] theorem modQ_vd (n : Nat) (f : Queue → Queue) (c : Ctl) : (modQ n f c).vd = c.vd := rfl
@[simp] theorem modQ_pts (n : Nat) (f : Queue → Queue) (c : Ctl) : (modQ n f c).pts = c.pts := rfl
@[simp] theorem modQ_journal (n : Nat) (f : Queue → Queue) (c : Ctl) : (modQ n f c).journal = c.journal := rfl
@[simp] theorem modQ_dram (n : Nat) (f : Queue → Queue) (c : Ctl) : (modQ n f c).dram = c.dram := rfl
@[simp] theorem modQ_links (n : Nat) (f : Queue → Queue) (c : Ctl) : (modQ n f c).links = c.links := rfl
@[simp] theorem modQ_barrier (n : Nat) (f : Queue → Queue) (c : Ctl) : (modQ n f c).barrier = c.barrier := rfl
@[simp] theorem modQ_fleet (n : Nat) (f : Queue → Queue) (c : Ctl) : (modQ n f c).fleet = c.fleet := rfl

/-! ### modB -/

@[simp] theorem modB_free (n : Nat) (f : Block → Block) (c : Ctl) : (modB n f c).free = c.free := rfl
@[simp] theorem modB_posted (n : Nat) (f : Block → Block) (c : Ctl) : (modB n f c).posted = c.posted := rfl
@[simp] theorem modB_out (n : Nat) (f : Block → Block) (c : Ctl) : (modB n f c).out = c.out := rfl
@[simp] theorem modB_od (n : Nat) (f : Block → Block) (c : Ctl) : (modB n f c).od = c.od := rfl
@[simp] theorem modB_eff (n : Nat) (f : Block → Block) (c : Ctl) : (modB n f c).eff = c.eff := rfl
@[simp] theorem modB_boot (n : Nat) (f : Block → Block) (c : Ctl) : (modB n f c).boot = c.boot := rfl
@[simp] theorem modB_power (n : Nat) (f : Block → Block) (c : Ctl) : (modB n f c).power = c.power := rfl
@[simp] theorem modB_safety (n : Nat) (f : Block → Block) (c : Ctl) : (modB n f c).safety = c.safety := rfl
@[simp] theorem modB_faults (n : Nat) (f : Block → Block) (c : Ctl) : (modB n f c).faults = c.faults := rfl
@[simp] theorem modB_time (n : Nat) (f : Block → Block) (c : Ctl) : (modB n f c).time = c.time := rfl
@[simp] theorem modB_queues (n : Nat) (f : Block → Block) (c : Ctl) : (modB n f c).queues = c.queues := rfl
@[simp] theorem modB_syncs (n : Nat) (f : Block → Block) (c : Ctl) : (modB n f c).syncs = c.syncs := rfl
@[simp] theorem modB_fifos (n : Nat) (f : Block → Block) (c : Ctl) : (modB n f c).fifos = c.fifos := rfl
@[simp] theorem modB_sched (n : Nat) (f : Block → Block) (c : Ctl) : (modB n f c).sched = c.sched := rfl
@[simp] theorem modB_blocks (n : Nat) (f : Block → Block) (c : Ctl) : (modB n f c).blocks = tweak {} n f c.blocks := rfl
@[simp] theorem modB_seqs (n : Nat) (f : Block → Block) (c : Ctl) : (modB n f c).seqs = c.seqs := rfl
@[simp] theorem modB_listCache (n : Nat) (f : Block → Block) (c : Ctl) : (modB n f c).listCache = c.listCache := rfl
@[simp] theorem modB_walks (n : Nat) (f : Block → Block) (c : Ctl) : (modB n f c).walks = c.walks := rfl
@[simp] theorem modB_appends (n : Nat) (f : Block → Block) (c : Ctl) : (modB n f c).appends = c.appends := rfl
@[simp] theorem modB_img (n : Nat) (f : Block → Block) (c : Ctl) : (modB n f c).img = c.img := rfl
@[simp] theorem modB_vd (n : Nat) (f : Block → Block) (c : Ctl) : (modB n f c).vd = c.vd := rfl
@[simp] theorem modB_pts (n : Nat) (f : Block → Block) (c : Ctl) : (modB n f c).pts = c.pts := rfl
@[simp] theorem modB_journal (n : Nat) (f : Block → Block) (c : Ctl) : (modB n f c).journal = c.journal := rfl
@[simp] theorem modB_dram (n : Nat) (f : Block → Block) (c : Ctl) : (modB n f c).dram = c.dram := rfl
@[simp] theorem modB_links (n : Nat) (f : Block → Block) (c : Ctl) : (modB n f c).links = c.links := rfl
@[simp] theorem modB_barrier (n : Nat) (f : Block → Block) (c : Ctl) : (modB n f c).barrier = c.barrier := rfl
@[simp] theorem modB_fleet (n : Nat) (f : Block → Block) (c : Ctl) : (modB n f c).fleet = c.fleet := rfl

/-! ### modSeq -/

@[simp] theorem modSeq_free (n : Nat) (f : Seq → Seq) (c : Ctl) : (modSeq n f c).free = c.free := rfl
@[simp] theorem modSeq_posted (n : Nat) (f : Seq → Seq) (c : Ctl) : (modSeq n f c).posted = c.posted := rfl
@[simp] theorem modSeq_out (n : Nat) (f : Seq → Seq) (c : Ctl) : (modSeq n f c).out = c.out := rfl
@[simp] theorem modSeq_od (n : Nat) (f : Seq → Seq) (c : Ctl) : (modSeq n f c).od = c.od := rfl
@[simp] theorem modSeq_eff (n : Nat) (f : Seq → Seq) (c : Ctl) : (modSeq n f c).eff = c.eff := rfl
@[simp] theorem modSeq_boot (n : Nat) (f : Seq → Seq) (c : Ctl) : (modSeq n f c).boot = c.boot := rfl
@[simp] theorem modSeq_power (n : Nat) (f : Seq → Seq) (c : Ctl) : (modSeq n f c).power = c.power := rfl
@[simp] theorem modSeq_safety (n : Nat) (f : Seq → Seq) (c : Ctl) : (modSeq n f c).safety = c.safety := rfl
@[simp] theorem modSeq_faults (n : Nat) (f : Seq → Seq) (c : Ctl) : (modSeq n f c).faults = c.faults := rfl
@[simp] theorem modSeq_time (n : Nat) (f : Seq → Seq) (c : Ctl) : (modSeq n f c).time = c.time := rfl
@[simp] theorem modSeq_queues (n : Nat) (f : Seq → Seq) (c : Ctl) : (modSeq n f c).queues = c.queues := rfl
@[simp] theorem modSeq_syncs (n : Nat) (f : Seq → Seq) (c : Ctl) : (modSeq n f c).syncs = c.syncs := rfl
@[simp] theorem modSeq_fifos (n : Nat) (f : Seq → Seq) (c : Ctl) : (modSeq n f c).fifos = c.fifos := rfl
@[simp] theorem modSeq_sched (n : Nat) (f : Seq → Seq) (c : Ctl) : (modSeq n f c).sched = c.sched := rfl
@[simp] theorem modSeq_blocks (n : Nat) (f : Seq → Seq) (c : Ctl) : (modSeq n f c).blocks = c.blocks := rfl
@[simp] theorem modSeq_seqs (n : Nat) (f : Seq → Seq) (c : Ctl) : (modSeq n f c).seqs = tweak {} n f c.seqs := rfl
@[simp] theorem modSeq_listCache (n : Nat) (f : Seq → Seq) (c : Ctl) : (modSeq n f c).listCache = c.listCache := rfl
@[simp] theorem modSeq_walks (n : Nat) (f : Seq → Seq) (c : Ctl) : (modSeq n f c).walks = c.walks := rfl
@[simp] theorem modSeq_appends (n : Nat) (f : Seq → Seq) (c : Ctl) : (modSeq n f c).appends = c.appends := rfl
@[simp] theorem modSeq_img (n : Nat) (f : Seq → Seq) (c : Ctl) : (modSeq n f c).img = c.img := rfl
@[simp] theorem modSeq_vd (n : Nat) (f : Seq → Seq) (c : Ctl) : (modSeq n f c).vd = c.vd := rfl
@[simp] theorem modSeq_pts (n : Nat) (f : Seq → Seq) (c : Ctl) : (modSeq n f c).pts = c.pts := rfl
@[simp] theorem modSeq_journal (n : Nat) (f : Seq → Seq) (c : Ctl) : (modSeq n f c).journal = c.journal := rfl
@[simp] theorem modSeq_dram (n : Nat) (f : Seq → Seq) (c : Ctl) : (modSeq n f c).dram = c.dram := rfl
@[simp] theorem modSeq_links (n : Nat) (f : Seq → Seq) (c : Ctl) : (modSeq n f c).links = c.links := rfl
@[simp] theorem modSeq_barrier (n : Nat) (f : Seq → Seq) (c : Ctl) : (modSeq n f c).barrier = c.barrier := rfl
@[simp] theorem modSeq_fleet (n : Nat) (f : Seq → Seq) (c : Ctl) : (modSeq n f c).fleet = c.fleet := rfl

/-! ### modFifo -/

@[simp] theorem modFifo_free (n : Nat) (f : Fifo → Fifo) (c : Ctl) : (modFifo n f c).free = c.free := rfl
@[simp] theorem modFifo_posted (n : Nat) (f : Fifo → Fifo) (c : Ctl) : (modFifo n f c).posted = c.posted := rfl
@[simp] theorem modFifo_out (n : Nat) (f : Fifo → Fifo) (c : Ctl) : (modFifo n f c).out = c.out := rfl
@[simp] theorem modFifo_od (n : Nat) (f : Fifo → Fifo) (c : Ctl) : (modFifo n f c).od = c.od := rfl
@[simp] theorem modFifo_eff (n : Nat) (f : Fifo → Fifo) (c : Ctl) : (modFifo n f c).eff = c.eff := rfl
@[simp] theorem modFifo_boot (n : Nat) (f : Fifo → Fifo) (c : Ctl) : (modFifo n f c).boot = c.boot := rfl
@[simp] theorem modFifo_power (n : Nat) (f : Fifo → Fifo) (c : Ctl) : (modFifo n f c).power = c.power := rfl
@[simp] theorem modFifo_safety (n : Nat) (f : Fifo → Fifo) (c : Ctl) : (modFifo n f c).safety = c.safety := rfl
@[simp] theorem modFifo_faults (n : Nat) (f : Fifo → Fifo) (c : Ctl) : (modFifo n f c).faults = c.faults := rfl
@[simp] theorem modFifo_time (n : Nat) (f : Fifo → Fifo) (c : Ctl) : (modFifo n f c).time = c.time := rfl
@[simp] theorem modFifo_queues (n : Nat) (f : Fifo → Fifo) (c : Ctl) : (modFifo n f c).queues = c.queues := rfl
@[simp] theorem modFifo_syncs (n : Nat) (f : Fifo → Fifo) (c : Ctl) : (modFifo n f c).syncs = c.syncs := rfl
@[simp] theorem modFifo_fifos (n : Nat) (f : Fifo → Fifo) (c : Ctl) : (modFifo n f c).fifos = tweak {} n f c.fifos := rfl
@[simp] theorem modFifo_sched (n : Nat) (f : Fifo → Fifo) (c : Ctl) : (modFifo n f c).sched = c.sched := rfl
@[simp] theorem modFifo_blocks (n : Nat) (f : Fifo → Fifo) (c : Ctl) : (modFifo n f c).blocks = c.blocks := rfl
@[simp] theorem modFifo_seqs (n : Nat) (f : Fifo → Fifo) (c : Ctl) : (modFifo n f c).seqs = c.seqs := rfl
@[simp] theorem modFifo_listCache (n : Nat) (f : Fifo → Fifo) (c : Ctl) : (modFifo n f c).listCache = c.listCache := rfl
@[simp] theorem modFifo_walks (n : Nat) (f : Fifo → Fifo) (c : Ctl) : (modFifo n f c).walks = c.walks := rfl
@[simp] theorem modFifo_appends (n : Nat) (f : Fifo → Fifo) (c : Ctl) : (modFifo n f c).appends = c.appends := rfl
@[simp] theorem modFifo_img (n : Nat) (f : Fifo → Fifo) (c : Ctl) : (modFifo n f c).img = c.img := rfl
@[simp] theorem modFifo_vd (n : Nat) (f : Fifo → Fifo) (c : Ctl) : (modFifo n f c).vd = c.vd := rfl
@[simp] theorem modFifo_pts (n : Nat) (f : Fifo → Fifo) (c : Ctl) : (modFifo n f c).pts = c.pts := rfl
@[simp] theorem modFifo_journal (n : Nat) (f : Fifo → Fifo) (c : Ctl) : (modFifo n f c).journal = c.journal := rfl
@[simp] theorem modFifo_dram (n : Nat) (f : Fifo → Fifo) (c : Ctl) : (modFifo n f c).dram = c.dram := rfl
@[simp] theorem modFifo_links (n : Nat) (f : Fifo → Fifo) (c : Ctl) : (modFifo n f c).links = c.links := rfl
@[simp] theorem modFifo_barrier (n : Nat) (f : Fifo → Fifo) (c : Ctl) : (modFifo n f c).barrier = c.barrier := rfl
@[simp] theorem modFifo_fleet (n : Nat) (f : Fifo → Fifo) (c : Ctl) : (modFifo n f c).fleet = c.fleet := rfl

/-! ### modFn -/

@[simp] theorem modFn_free (n : Nat) (f : Fn → Fn) (c : Ctl) : (modFn n f c).free = c.free := rfl
@[simp] theorem modFn_posted (n : Nat) (f : Fn → Fn) (c : Ctl) : (modFn n f c).posted = c.posted := rfl
@[simp] theorem modFn_out (n : Nat) (f : Fn → Fn) (c : Ctl) : (modFn n f c).out = c.out := rfl
@[simp] theorem modFn_od (n : Nat) (f : Fn → Fn) (c : Ctl) : (modFn n f c).od = c.od := rfl
@[simp] theorem modFn_eff (n : Nat) (f : Fn → Fn) (c : Ctl) : (modFn n f c).eff = c.eff := rfl
@[simp] theorem modFn_boot (n : Nat) (f : Fn → Fn) (c : Ctl) : (modFn n f c).boot = c.boot := rfl
@[simp] theorem modFn_power (n : Nat) (f : Fn → Fn) (c : Ctl) : (modFn n f c).power = c.power := rfl
@[simp] theorem modFn_safety (n : Nat) (f : Fn → Fn) (c : Ctl) : (modFn n f c).safety = c.safety := rfl
@[simp] theorem modFn_faults (n : Nat) (f : Fn → Fn) (c : Ctl) : (modFn n f c).faults = c.faults := rfl
@[simp] theorem modFn_time (n : Nat) (f : Fn → Fn) (c : Ctl) : (modFn n f c).time = c.time := rfl
@[simp] theorem modFn_queues (n : Nat) (f : Fn → Fn) (c : Ctl) : (modFn n f c).queues = c.queues := rfl
@[simp] theorem modFn_syncs (n : Nat) (f : Fn → Fn) (c : Ctl) : (modFn n f c).syncs = c.syncs := rfl
@[simp] theorem modFn_fifos (n : Nat) (f : Fn → Fn) (c : Ctl) : (modFn n f c).fifos = c.fifos := rfl
@[simp] theorem modFn_sched (n : Nat) (f : Fn → Fn) (c : Ctl) : (modFn n f c).sched = c.sched := rfl
@[simp] theorem modFn_blocks (n : Nat) (f : Fn → Fn) (c : Ctl) : (modFn n f c).blocks = c.blocks := rfl
@[simp] theorem modFn_seqs (n : Nat) (f : Fn → Fn) (c : Ctl) : (modFn n f c).seqs = c.seqs := rfl
@[simp] theorem modFn_listCache (n : Nat) (f : Fn → Fn) (c : Ctl) : (modFn n f c).listCache = c.listCache := rfl
@[simp] theorem modFn_walks (n : Nat) (f : Fn → Fn) (c : Ctl) : (modFn n f c).walks = c.walks := rfl
@[simp] theorem modFn_appends (n : Nat) (f : Fn → Fn) (c : Ctl) : (modFn n f c).appends = c.appends := rfl
@[simp] theorem modFn_img (n : Nat) (f : Fn → Fn) (c : Ctl) : (modFn n f c).img = c.img := rfl
@[simp] theorem modFn_vd (n : Nat) (f : Fn → Fn) (c : Ctl) : (modFn n f c).vd = c.vd := rfl
@[simp] theorem modFn_pts (n : Nat) (f : Fn → Fn) (c : Ctl) : (modFn n f c).pts = c.pts := rfl
@[simp] theorem modFn_journal (n : Nat) (f : Fn → Fn) (c : Ctl) : (modFn n f c).journal = c.journal := rfl
@[simp] theorem modFn_dram (n : Nat) (f : Fn → Fn) (c : Ctl) : (modFn n f c).dram = c.dram := rfl
@[simp] theorem modFn_links (n : Nat) (f : Fn → Fn) (c : Ctl) : (modFn n f c).links = { c.links with fns := tweak {} n f c.links.fns } := rfl
@[simp] theorem modFn_barrier (n : Nat) (f : Fn → Fn) (c : Ctl) : (modFn n f c).barrier = c.barrier := rfl
@[simp] theorem modFn_fleet (n : Nat) (f : Fn → Fn) (c : Ctl) : (modFn n f c).fleet = c.fleet := rfl

/-! ### modTime -/

@[simp] theorem modTime_free (f : Time → Time) (c : Ctl) : (modTime f c).free = c.free := rfl
@[simp] theorem modTime_posted (f : Time → Time) (c : Ctl) : (modTime f c).posted = c.posted := rfl
@[simp] theorem modTime_out (f : Time → Time) (c : Ctl) : (modTime f c).out = c.out := rfl
@[simp] theorem modTime_od (f : Time → Time) (c : Ctl) : (modTime f c).od = c.od := rfl
@[simp] theorem modTime_eff (f : Time → Time) (c : Ctl) : (modTime f c).eff = c.eff := rfl
@[simp] theorem modTime_boot (f : Time → Time) (c : Ctl) : (modTime f c).boot = c.boot := rfl
@[simp] theorem modTime_power (f : Time → Time) (c : Ctl) : (modTime f c).power = c.power := rfl
@[simp] theorem modTime_safety (f : Time → Time) (c : Ctl) : (modTime f c).safety = c.safety := rfl
@[simp] theorem modTime_faults (f : Time → Time) (c : Ctl) : (modTime f c).faults = c.faults := rfl
@[simp] theorem modTime_time (f : Time → Time) (c : Ctl) : (modTime f c).time = f c.time := rfl
@[simp] theorem modTime_queues (f : Time → Time) (c : Ctl) : (modTime f c).queues = c.queues := rfl
@[simp] theorem modTime_syncs (f : Time → Time) (c : Ctl) : (modTime f c).syncs = c.syncs := rfl
@[simp] theorem modTime_fifos (f : Time → Time) (c : Ctl) : (modTime f c).fifos = c.fifos := rfl
@[simp] theorem modTime_sched (f : Time → Time) (c : Ctl) : (modTime f c).sched = c.sched := rfl
@[simp] theorem modTime_blocks (f : Time → Time) (c : Ctl) : (modTime f c).blocks = c.blocks := rfl
@[simp] theorem modTime_seqs (f : Time → Time) (c : Ctl) : (modTime f c).seqs = c.seqs := rfl
@[simp] theorem modTime_listCache (f : Time → Time) (c : Ctl) : (modTime f c).listCache = c.listCache := rfl
@[simp] theorem modTime_walks (f : Time → Time) (c : Ctl) : (modTime f c).walks = c.walks := rfl
@[simp] theorem modTime_appends (f : Time → Time) (c : Ctl) : (modTime f c).appends = c.appends := rfl
@[simp] theorem modTime_img (f : Time → Time) (c : Ctl) : (modTime f c).img = c.img := rfl
@[simp] theorem modTime_vd (f : Time → Time) (c : Ctl) : (modTime f c).vd = c.vd := rfl
@[simp] theorem modTime_pts (f : Time → Time) (c : Ctl) : (modTime f c).pts = c.pts := rfl
@[simp] theorem modTime_journal (f : Time → Time) (c : Ctl) : (modTime f c).journal = c.journal := rfl
@[simp] theorem modTime_dram (f : Time → Time) (c : Ctl) : (modTime f c).dram = c.dram := rfl
@[simp] theorem modTime_links (f : Time → Time) (c : Ctl) : (modTime f c).links = c.links := rfl
@[simp] theorem modTime_barrier (f : Time → Time) (c : Ctl) : (modTime f c).barrier = c.barrier := rfl
@[simp] theorem modTime_fleet (f : Time → Time) (c : Ctl) : (modTime f c).fleet = c.fleet := rfl

/-! ### modSafety -/

@[simp] theorem modSafety_free (f : Safety → Safety) (c : Ctl) : (modSafety f c).free = c.free := rfl
@[simp] theorem modSafety_posted (f : Safety → Safety) (c : Ctl) : (modSafety f c).posted = c.posted := rfl
@[simp] theorem modSafety_out (f : Safety → Safety) (c : Ctl) : (modSafety f c).out = c.out := rfl
@[simp] theorem modSafety_od (f : Safety → Safety) (c : Ctl) : (modSafety f c).od = c.od := rfl
@[simp] theorem modSafety_eff (f : Safety → Safety) (c : Ctl) : (modSafety f c).eff = c.eff := rfl
@[simp] theorem modSafety_boot (f : Safety → Safety) (c : Ctl) : (modSafety f c).boot = c.boot := rfl
@[simp] theorem modSafety_power (f : Safety → Safety) (c : Ctl) : (modSafety f c).power = c.power := rfl
@[simp] theorem modSafety_safety (f : Safety → Safety) (c : Ctl) : (modSafety f c).safety = f c.safety := rfl
@[simp] theorem modSafety_faults (f : Safety → Safety) (c : Ctl) : (modSafety f c).faults = c.faults := rfl
@[simp] theorem modSafety_time (f : Safety → Safety) (c : Ctl) : (modSafety f c).time = c.time := rfl
@[simp] theorem modSafety_queues (f : Safety → Safety) (c : Ctl) : (modSafety f c).queues = c.queues := rfl
@[simp] theorem modSafety_syncs (f : Safety → Safety) (c : Ctl) : (modSafety f c).syncs = c.syncs := rfl
@[simp] theorem modSafety_fifos (f : Safety → Safety) (c : Ctl) : (modSafety f c).fifos = c.fifos := rfl
@[simp] theorem modSafety_sched (f : Safety → Safety) (c : Ctl) : (modSafety f c).sched = c.sched := rfl
@[simp] theorem modSafety_blocks (f : Safety → Safety) (c : Ctl) : (modSafety f c).blocks = c.blocks := rfl
@[simp] theorem modSafety_seqs (f : Safety → Safety) (c : Ctl) : (modSafety f c).seqs = c.seqs := rfl
@[simp] theorem modSafety_listCache (f : Safety → Safety) (c : Ctl) : (modSafety f c).listCache = c.listCache := rfl
@[simp] theorem modSafety_walks (f : Safety → Safety) (c : Ctl) : (modSafety f c).walks = c.walks := rfl
@[simp] theorem modSafety_appends (f : Safety → Safety) (c : Ctl) : (modSafety f c).appends = c.appends := rfl
@[simp] theorem modSafety_img (f : Safety → Safety) (c : Ctl) : (modSafety f c).img = c.img := rfl
@[simp] theorem modSafety_vd (f : Safety → Safety) (c : Ctl) : (modSafety f c).vd = c.vd := rfl
@[simp] theorem modSafety_pts (f : Safety → Safety) (c : Ctl) : (modSafety f c).pts = c.pts := rfl
@[simp] theorem modSafety_journal (f : Safety → Safety) (c : Ctl) : (modSafety f c).journal = c.journal := rfl
@[simp] theorem modSafety_dram (f : Safety → Safety) (c : Ctl) : (modSafety f c).dram = c.dram := rfl
@[simp] theorem modSafety_links (f : Safety → Safety) (c : Ctl) : (modSafety f c).links = c.links := rfl
@[simp] theorem modSafety_barrier (f : Safety → Safety) (c : Ctl) : (modSafety f c).barrier = c.barrier := rfl
@[simp] theorem modSafety_fleet (f : Safety → Safety) (c : Ctl) : (modSafety f c).fleet = c.fleet := rfl

/-! ### modFaults -/

@[simp] theorem modFaults_free (f : Faults → Faults) (c : Ctl) : (modFaults f c).free = c.free := rfl
@[simp] theorem modFaults_posted (f : Faults → Faults) (c : Ctl) : (modFaults f c).posted = c.posted := rfl
@[simp] theorem modFaults_out (f : Faults → Faults) (c : Ctl) : (modFaults f c).out = c.out := rfl
@[simp] theorem modFaults_od (f : Faults → Faults) (c : Ctl) : (modFaults f c).od = c.od := rfl
@[simp] theorem modFaults_eff (f : Faults → Faults) (c : Ctl) : (modFaults f c).eff = c.eff := rfl
@[simp] theorem modFaults_boot (f : Faults → Faults) (c : Ctl) : (modFaults f c).boot = c.boot := rfl
@[simp] theorem modFaults_power (f : Faults → Faults) (c : Ctl) : (modFaults f c).power = c.power := rfl
@[simp] theorem modFaults_safety (f : Faults → Faults) (c : Ctl) : (modFaults f c).safety = c.safety := rfl
@[simp] theorem modFaults_faults (f : Faults → Faults) (c : Ctl) : (modFaults f c).faults = f c.faults := rfl
@[simp] theorem modFaults_time (f : Faults → Faults) (c : Ctl) : (modFaults f c).time = c.time := rfl
@[simp] theorem modFaults_queues (f : Faults → Faults) (c : Ctl) : (modFaults f c).queues = c.queues := rfl
@[simp] theorem modFaults_syncs (f : Faults → Faults) (c : Ctl) : (modFaults f c).syncs = c.syncs := rfl
@[simp] theorem modFaults_fifos (f : Faults → Faults) (c : Ctl) : (modFaults f c).fifos = c.fifos := rfl
@[simp] theorem modFaults_sched (f : Faults → Faults) (c : Ctl) : (modFaults f c).sched = c.sched := rfl
@[simp] theorem modFaults_blocks (f : Faults → Faults) (c : Ctl) : (modFaults f c).blocks = c.blocks := rfl
@[simp] theorem modFaults_seqs (f : Faults → Faults) (c : Ctl) : (modFaults f c).seqs = c.seqs := rfl
@[simp] theorem modFaults_listCache (f : Faults → Faults) (c : Ctl) : (modFaults f c).listCache = c.listCache := rfl
@[simp] theorem modFaults_walks (f : Faults → Faults) (c : Ctl) : (modFaults f c).walks = c.walks := rfl
@[simp] theorem modFaults_appends (f : Faults → Faults) (c : Ctl) : (modFaults f c).appends = c.appends := rfl
@[simp] theorem modFaults_img (f : Faults → Faults) (c : Ctl) : (modFaults f c).img = c.img := rfl
@[simp] theorem modFaults_vd (f : Faults → Faults) (c : Ctl) : (modFaults f c).vd = c.vd := rfl
@[simp] theorem modFaults_pts (f : Faults → Faults) (c : Ctl) : (modFaults f c).pts = c.pts := rfl
@[simp] theorem modFaults_journal (f : Faults → Faults) (c : Ctl) : (modFaults f c).journal = c.journal := rfl
@[simp] theorem modFaults_dram (f : Faults → Faults) (c : Ctl) : (modFaults f c).dram = c.dram := rfl
@[simp] theorem modFaults_links (f : Faults → Faults) (c : Ctl) : (modFaults f c).links = c.links := rfl
@[simp] theorem modFaults_barrier (f : Faults → Faults) (c : Ctl) : (modFaults f c).barrier = c.barrier := rfl
@[simp] theorem modFaults_fleet (f : Faults → Faults) (c : Ctl) : (modFaults f c).fleet = c.fleet := rfl

/-! ### modBoot -/

@[simp] theorem modBoot_free (f : Boot → Boot) (c : Ctl) : (modBoot f c).free = c.free := rfl
@[simp] theorem modBoot_posted (f : Boot → Boot) (c : Ctl) : (modBoot f c).posted = c.posted := rfl
@[simp] theorem modBoot_out (f : Boot → Boot) (c : Ctl) : (modBoot f c).out = c.out := rfl
@[simp] theorem modBoot_od (f : Boot → Boot) (c : Ctl) : (modBoot f c).od = c.od := rfl
@[simp] theorem modBoot_eff (f : Boot → Boot) (c : Ctl) : (modBoot f c).eff = c.eff := rfl
@[simp] theorem modBoot_boot (f : Boot → Boot) (c : Ctl) : (modBoot f c).boot = f c.boot := rfl
@[simp] theorem modBoot_power (f : Boot → Boot) (c : Ctl) : (modBoot f c).power = c.power := rfl
@[simp] theorem modBoot_safety (f : Boot → Boot) (c : Ctl) : (modBoot f c).safety = c.safety := rfl
@[simp] theorem modBoot_faults (f : Boot → Boot) (c : Ctl) : (modBoot f c).faults = c.faults := rfl
@[simp] theorem modBoot_time (f : Boot → Boot) (c : Ctl) : (modBoot f c).time = c.time := rfl
@[simp] theorem modBoot_queues (f : Boot → Boot) (c : Ctl) : (modBoot f c).queues = c.queues := rfl
@[simp] theorem modBoot_syncs (f : Boot → Boot) (c : Ctl) : (modBoot f c).syncs = c.syncs := rfl
@[simp] theorem modBoot_fifos (f : Boot → Boot) (c : Ctl) : (modBoot f c).fifos = c.fifos := rfl
@[simp] theorem modBoot_sched (f : Boot → Boot) (c : Ctl) : (modBoot f c).sched = c.sched := rfl
@[simp] theorem modBoot_blocks (f : Boot → Boot) (c : Ctl) : (modBoot f c).blocks = c.blocks := rfl
@[simp] theorem modBoot_seqs (f : Boot → Boot) (c : Ctl) : (modBoot f c).seqs = c.seqs := rfl
@[simp] theorem modBoot_listCache (f : Boot → Boot) (c : Ctl) : (modBoot f c).listCache = c.listCache := rfl
@[simp] theorem modBoot_walks (f : Boot → Boot) (c : Ctl) : (modBoot f c).walks = c.walks := rfl
@[simp] theorem modBoot_appends (f : Boot → Boot) (c : Ctl) : (modBoot f c).appends = c.appends := rfl
@[simp] theorem modBoot_img (f : Boot → Boot) (c : Ctl) : (modBoot f c).img = c.img := rfl
@[simp] theorem modBoot_vd (f : Boot → Boot) (c : Ctl) : (modBoot f c).vd = c.vd := rfl
@[simp] theorem modBoot_pts (f : Boot → Boot) (c : Ctl) : (modBoot f c).pts = c.pts := rfl
@[simp] theorem modBoot_journal (f : Boot → Boot) (c : Ctl) : (modBoot f c).journal = c.journal := rfl
@[simp] theorem modBoot_dram (f : Boot → Boot) (c : Ctl) : (modBoot f c).dram = c.dram := rfl
@[simp] theorem modBoot_links (f : Boot → Boot) (c : Ctl) : (modBoot f c).links = c.links := rfl
@[simp] theorem modBoot_barrier (f : Boot → Boot) (c : Ctl) : (modBoot f c).barrier = c.barrier := rfl
@[simp] theorem modBoot_fleet (f : Boot → Boot) (c : Ctl) : (modBoot f c).fleet = c.fleet := rfl

/-! ### modPower -/

@[simp] theorem modPower_free (f : Power → Power) (c : Ctl) : (modPower f c).free = c.free := rfl
@[simp] theorem modPower_posted (f : Power → Power) (c : Ctl) : (modPower f c).posted = c.posted := rfl
@[simp] theorem modPower_out (f : Power → Power) (c : Ctl) : (modPower f c).out = c.out := rfl
@[simp] theorem modPower_od (f : Power → Power) (c : Ctl) : (modPower f c).od = c.od := rfl
@[simp] theorem modPower_eff (f : Power → Power) (c : Ctl) : (modPower f c).eff = c.eff := rfl
@[simp] theorem modPower_boot (f : Power → Power) (c : Ctl) : (modPower f c).boot = c.boot := rfl
@[simp] theorem modPower_power (f : Power → Power) (c : Ctl) : (modPower f c).power = f c.power := rfl
@[simp] theorem modPower_safety (f : Power → Power) (c : Ctl) : (modPower f c).safety = c.safety := rfl
@[simp] theorem modPower_faults (f : Power → Power) (c : Ctl) : (modPower f c).faults = c.faults := rfl
@[simp] theorem modPower_time (f : Power → Power) (c : Ctl) : (modPower f c).time = c.time := rfl
@[simp] theorem modPower_queues (f : Power → Power) (c : Ctl) : (modPower f c).queues = c.queues := rfl
@[simp] theorem modPower_syncs (f : Power → Power) (c : Ctl) : (modPower f c).syncs = c.syncs := rfl
@[simp] theorem modPower_fifos (f : Power → Power) (c : Ctl) : (modPower f c).fifos = c.fifos := rfl
@[simp] theorem modPower_sched (f : Power → Power) (c : Ctl) : (modPower f c).sched = c.sched := rfl
@[simp] theorem modPower_blocks (f : Power → Power) (c : Ctl) : (modPower f c).blocks = c.blocks := rfl
@[simp] theorem modPower_seqs (f : Power → Power) (c : Ctl) : (modPower f c).seqs = c.seqs := rfl
@[simp] theorem modPower_listCache (f : Power → Power) (c : Ctl) : (modPower f c).listCache = c.listCache := rfl
@[simp] theorem modPower_walks (f : Power → Power) (c : Ctl) : (modPower f c).walks = c.walks := rfl
@[simp] theorem modPower_appends (f : Power → Power) (c : Ctl) : (modPower f c).appends = c.appends := rfl
@[simp] theorem modPower_img (f : Power → Power) (c : Ctl) : (modPower f c).img = c.img := rfl
@[simp] theorem modPower_vd (f : Power → Power) (c : Ctl) : (modPower f c).vd = c.vd := rfl
@[simp] theorem modPower_pts (f : Power → Power) (c : Ctl) : (modPower f c).pts = c.pts := rfl
@[simp] theorem modPower_journal (f : Power → Power) (c : Ctl) : (modPower f c).journal = c.journal := rfl
@[simp] theorem modPower_dram (f : Power → Power) (c : Ctl) : (modPower f c).dram = c.dram := rfl
@[simp] theorem modPower_links (f : Power → Power) (c : Ctl) : (modPower f c).links = c.links := rfl
@[simp] theorem modPower_barrier (f : Power → Power) (c : Ctl) : (modPower f c).barrier = c.barrier := rfl
@[simp] theorem modPower_fleet (f : Power → Power) (c : Ctl) : (modPower f c).fleet = c.fleet := rfl

/-! ### modSched -/

@[simp] theorem modSched_free (f : Sched → Sched) (c : Ctl) : (modSched f c).free = c.free := rfl
@[simp] theorem modSched_posted (f : Sched → Sched) (c : Ctl) : (modSched f c).posted = c.posted := rfl
@[simp] theorem modSched_out (f : Sched → Sched) (c : Ctl) : (modSched f c).out = c.out := rfl
@[simp] theorem modSched_od (f : Sched → Sched) (c : Ctl) : (modSched f c).od = c.od := rfl
@[simp] theorem modSched_eff (f : Sched → Sched) (c : Ctl) : (modSched f c).eff = c.eff := rfl
@[simp] theorem modSched_boot (f : Sched → Sched) (c : Ctl) : (modSched f c).boot = c.boot := rfl
@[simp] theorem modSched_power (f : Sched → Sched) (c : Ctl) : (modSched f c).power = c.power := rfl
@[simp] theorem modSched_safety (f : Sched → Sched) (c : Ctl) : (modSched f c).safety = c.safety := rfl
@[simp] theorem modSched_faults (f : Sched → Sched) (c : Ctl) : (modSched f c).faults = c.faults := rfl
@[simp] theorem modSched_time (f : Sched → Sched) (c : Ctl) : (modSched f c).time = c.time := rfl
@[simp] theorem modSched_queues (f : Sched → Sched) (c : Ctl) : (modSched f c).queues = c.queues := rfl
@[simp] theorem modSched_syncs (f : Sched → Sched) (c : Ctl) : (modSched f c).syncs = c.syncs := rfl
@[simp] theorem modSched_fifos (f : Sched → Sched) (c : Ctl) : (modSched f c).fifos = c.fifos := rfl
@[simp] theorem modSched_sched (f : Sched → Sched) (c : Ctl) : (modSched f c).sched = f c.sched := rfl
@[simp] theorem modSched_blocks (f : Sched → Sched) (c : Ctl) : (modSched f c).blocks = c.blocks := rfl
@[simp] theorem modSched_seqs (f : Sched → Sched) (c : Ctl) : (modSched f c).seqs = c.seqs := rfl
@[simp] theorem modSched_listCache (f : Sched → Sched) (c : Ctl) : (modSched f c).listCache = c.listCache := rfl
@[simp] theorem modSched_walks (f : Sched → Sched) (c : Ctl) : (modSched f c).walks = c.walks := rfl
@[simp] theorem modSched_appends (f : Sched → Sched) (c : Ctl) : (modSched f c).appends = c.appends := rfl
@[simp] theorem modSched_img (f : Sched → Sched) (c : Ctl) : (modSched f c).img = c.img := rfl
@[simp] theorem modSched_vd (f : Sched → Sched) (c : Ctl) : (modSched f c).vd = c.vd := rfl
@[simp] theorem modSched_pts (f : Sched → Sched) (c : Ctl) : (modSched f c).pts = c.pts := rfl
@[simp] theorem modSched_journal (f : Sched → Sched) (c : Ctl) : (modSched f c).journal = c.journal := rfl
@[simp] theorem modSched_dram (f : Sched → Sched) (c : Ctl) : (modSched f c).dram = c.dram := rfl
@[simp] theorem modSched_links (f : Sched → Sched) (c : Ctl) : (modSched f c).links = c.links := rfl
@[simp] theorem modSched_barrier (f : Sched → Sched) (c : Ctl) : (modSched f c).barrier = c.barrier := rfl
@[simp] theorem modSched_fleet (f : Sched → Sched) (c : Ctl) : (modSched f c).fleet = c.fleet := rfl

/-! ### modLinks -/

@[simp] theorem modLinks_free (f : Links → Links) (c : Ctl) : (modLinks f c).free = c.free := rfl
@[simp] theorem modLinks_posted (f : Links → Links) (c : Ctl) : (modLinks f c).posted = c.posted := rfl
@[simp] theorem modLinks_out (f : Links → Links) (c : Ctl) : (modLinks f c).out = c.out := rfl
@[simp] theorem modLinks_od (f : Links → Links) (c : Ctl) : (modLinks f c).od = c.od := rfl
@[simp] theorem modLinks_eff (f : Links → Links) (c : Ctl) : (modLinks f c).eff = c.eff := rfl
@[simp] theorem modLinks_boot (f : Links → Links) (c : Ctl) : (modLinks f c).boot = c.boot := rfl
@[simp] theorem modLinks_power (f : Links → Links) (c : Ctl) : (modLinks f c).power = c.power := rfl
@[simp] theorem modLinks_safety (f : Links → Links) (c : Ctl) : (modLinks f c).safety = c.safety := rfl
@[simp] theorem modLinks_faults (f : Links → Links) (c : Ctl) : (modLinks f c).faults = c.faults := rfl
@[simp] theorem modLinks_time (f : Links → Links) (c : Ctl) : (modLinks f c).time = c.time := rfl
@[simp] theorem modLinks_queues (f : Links → Links) (c : Ctl) : (modLinks f c).queues = c.queues := rfl
@[simp] theorem modLinks_syncs (f : Links → Links) (c : Ctl) : (modLinks f c).syncs = c.syncs := rfl
@[simp] theorem modLinks_fifos (f : Links → Links) (c : Ctl) : (modLinks f c).fifos = c.fifos := rfl
@[simp] theorem modLinks_sched (f : Links → Links) (c : Ctl) : (modLinks f c).sched = c.sched := rfl
@[simp] theorem modLinks_blocks (f : Links → Links) (c : Ctl) : (modLinks f c).blocks = c.blocks := rfl
@[simp] theorem modLinks_seqs (f : Links → Links) (c : Ctl) : (modLinks f c).seqs = c.seqs := rfl
@[simp] theorem modLinks_listCache (f : Links → Links) (c : Ctl) : (modLinks f c).listCache = c.listCache := rfl
@[simp] theorem modLinks_walks (f : Links → Links) (c : Ctl) : (modLinks f c).walks = c.walks := rfl
@[simp] theorem modLinks_appends (f : Links → Links) (c : Ctl) : (modLinks f c).appends = c.appends := rfl
@[simp] theorem modLinks_img (f : Links → Links) (c : Ctl) : (modLinks f c).img = c.img := rfl
@[simp] theorem modLinks_vd (f : Links → Links) (c : Ctl) : (modLinks f c).vd = c.vd := rfl
@[simp] theorem modLinks_pts (f : Links → Links) (c : Ctl) : (modLinks f c).pts = c.pts := rfl
@[simp] theorem modLinks_journal (f : Links → Links) (c : Ctl) : (modLinks f c).journal = c.journal := rfl
@[simp] theorem modLinks_dram (f : Links → Links) (c : Ctl) : (modLinks f c).dram = c.dram := rfl
@[simp] theorem modLinks_links (f : Links → Links) (c : Ctl) : (modLinks f c).links = f c.links := rfl
@[simp] theorem modLinks_barrier (f : Links → Links) (c : Ctl) : (modLinks f c).barrier = c.barrier := rfl
@[simp] theorem modLinks_fleet (f : Links → Links) (c : Ctl) : (modLinks f c).fleet = c.fleet := rfl

/-! ### modJournal -/

@[simp] theorem modJournal_free (f : Journal → Journal) (c : Ctl) : (modJournal f c).free = c.free := rfl
@[simp] theorem modJournal_posted (f : Journal → Journal) (c : Ctl) : (modJournal f c).posted = c.posted := rfl
@[simp] theorem modJournal_out (f : Journal → Journal) (c : Ctl) : (modJournal f c).out = c.out := rfl
@[simp] theorem modJournal_od (f : Journal → Journal) (c : Ctl) : (modJournal f c).od = c.od := rfl
@[simp] theorem modJournal_eff (f : Journal → Journal) (c : Ctl) : (modJournal f c).eff = c.eff := rfl
@[simp] theorem modJournal_boot (f : Journal → Journal) (c : Ctl) : (modJournal f c).boot = c.boot := rfl
@[simp] theorem modJournal_power (f : Journal → Journal) (c : Ctl) : (modJournal f c).power = c.power := rfl
@[simp] theorem modJournal_safety (f : Journal → Journal) (c : Ctl) : (modJournal f c).safety = c.safety := rfl
@[simp] theorem modJournal_faults (f : Journal → Journal) (c : Ctl) : (modJournal f c).faults = c.faults := rfl
@[simp] theorem modJournal_time (f : Journal → Journal) (c : Ctl) : (modJournal f c).time = c.time := rfl
@[simp] theorem modJournal_queues (f : Journal → Journal) (c : Ctl) : (modJournal f c).queues = c.queues := rfl
@[simp] theorem modJournal_syncs (f : Journal → Journal) (c : Ctl) : (modJournal f c).syncs = c.syncs := rfl
@[simp] theorem modJournal_fifos (f : Journal → Journal) (c : Ctl) : (modJournal f c).fifos = c.fifos := rfl
@[simp] theorem modJournal_sched (f : Journal → Journal) (c : Ctl) : (modJournal f c).sched = c.sched := rfl
@[simp] theorem modJournal_blocks (f : Journal → Journal) (c : Ctl) : (modJournal f c).blocks = c.blocks := rfl
@[simp] theorem modJournal_seqs (f : Journal → Journal) (c : Ctl) : (modJournal f c).seqs = c.seqs := rfl
@[simp] theorem modJournal_listCache (f : Journal → Journal) (c : Ctl) : (modJournal f c).listCache = c.listCache := rfl
@[simp] theorem modJournal_walks (f : Journal → Journal) (c : Ctl) : (modJournal f c).walks = c.walks := rfl
@[simp] theorem modJournal_appends (f : Journal → Journal) (c : Ctl) : (modJournal f c).appends = c.appends := rfl
@[simp] theorem modJournal_img (f : Journal → Journal) (c : Ctl) : (modJournal f c).img = c.img := rfl
@[simp] theorem modJournal_vd (f : Journal → Journal) (c : Ctl) : (modJournal f c).vd = c.vd := rfl
@[simp] theorem modJournal_pts (f : Journal → Journal) (c : Ctl) : (modJournal f c).pts = c.pts := rfl
@[simp] theorem modJournal_journal (f : Journal → Journal) (c : Ctl) : (modJournal f c).journal = f c.journal := rfl
@[simp] theorem modJournal_dram (f : Journal → Journal) (c : Ctl) : (modJournal f c).dram = c.dram := rfl
@[simp] theorem modJournal_links (f : Journal → Journal) (c : Ctl) : (modJournal f c).links = c.links := rfl
@[simp] theorem modJournal_barrier (f : Journal → Journal) (c : Ctl) : (modJournal f c).barrier = c.barrier := rfl
@[simp] theorem modJournal_fleet (f : Journal → Journal) (c : Ctl) : (modJournal f c).fleet = c.fleet := rfl

/-! ### The state around the control state -/

@[simp] theorem settleMem_part (s : State) : s.settleMem.part = s.part := rfl
@[simp] theorem settleMem_fuses (s : State) : s.settleMem.fuses = s.fuses := rfl
@[simp] theorem settleMem_pending (s : State) : s.settleMem.pending = s.pending := rfl
@[simp] theorem settleMem_mems (s : State) : s.settleMem.mems = applyOps s.mems s.ctl.posted := rfl
@[simp] theorem settleMem_ctl (s : State) : s.settleMem.ctl = { s.ctl with posted := [] } := rfl
@[simp] theorem view_part (s : State) : s.view.part = s.part := rfl
@[simp] theorem view_fuses (s : State) : s.view.fuses = s.fuses := rfl
@[simp] theorem view_mems (s : State) : s.view.mems = s.mems := rfl

end Sys2Proof.Machine
end

