-- ==== Sys2Proof/Laws/Frame.lean ====
section
/-! SUPPORT. How operations compose: what they touch adds up, and `act` turns it into what a step touches. A
proof about a meaning carries `Does … c d` from operation to operation with the lemmas named `…_step`. -/

namespace Sys2Proof.Machine

variable {l : List Piece} {may : Nat → Nat → Prop} {dev host : List (Nat × Nat)} {p : Part} {c c0 d e : Ctl}

/-! ### Composition -/

theorem same_refl (c : Ctl) (k : Piece) : same c c k := by cases k <;> first | rfl | exact fun _ => rfl

theorem same_trans {k : Piece} (h : same c d k) (h' : same d e k) : same c e k := by
  cases k <;> first | exact Eq.trans h' h | exact fun b => (h' b).trans (h b)

theorem does_refl : Does l may dev host p c c :=
  ⟨fun k _ => same_refl c k, fun _ _ _ _ => rfl, ⟨[], by simp, by simp⟩, fun _ h => .inl h⟩

/-- The ring of a function stands where it stood. -/
theorem ringSpan_kept (o : OdKept may p c d) {fn : Nat} (h9 : ¬ may (0x2410 + fn) 9) (hA : ¬ may (0x2410 + fn) 0xA) :
    ringSpan p d fn = ringSpan p c fn := by
  simp only [ringSpan, o _ 9 (by decide) h9, o _ 0xA (by decide) hA]

theorem does_trans (h : Does l may dev host p c d) (h' : Does l may dev host p d e) :
    Does l may dev host p c e := by
  obtain ⟨f, o, ⟨xs, hx, wx⟩, g⟩ := h
  obtain ⟨f', o', ⟨ys, hy, wy⟩, g'⟩ := h'
  refine ⟨fun k hk => same_trans (f k hk) (f' k hk), fun i s hs hm => (o' i s hs hm).trans (o i s hs hm), ⟨xs ++ ys, ?_, ?_⟩, ?_⟩
  · rw [hy, hx, List.append_assoc]
  · intro x hx
    rcases List.mem_append.mp hx with h | h
    · exact wx x h
    · exact wy x h
  · intro m hm
    rcases g' m hm with h | ⟨a, b, hm, h9, hA, hr⟩
    · exact g m h
    · exact .inr ⟨a, b, hm, h9, hA, ringSpan_kept o h9 hA ▸ hr⟩

theorem outside_mono {a b : List (Nat × Nat)} (h : ∀ x ∈ a, x ∈ b) {x : Nat} (ho : outside b x) : outside a x :=
  fun y hy => ho y (h y hy)

theorem covered_mono {a b : List (Nat × Nat)} (h : ∀ x ∈ a, x ∈ b) {x n : Nat} (hc : covered a x n) :
    covered b x n := fun y h1 h2 ho => hc y h1 h2 (outside_mono h ho)

theorem inSpans_mono {a b g k : List (Nat × Nat)} (h : ∀ x ∈ a, x ∈ b) (h' : ∀ x ∈ g, x ∈ k) {o : MemOp}
    (ho : inSpans a g o) : inSpans b k o := by
  cases o with
  | host _ _ => exact covered_mono h' ho
  | lose _ _ _ => exact ⟨covered_mono h ho.1, fun x h1 h2 h3 => ho.2 x h1 h2 (outside_mono h h3)⟩
  | _ => exact covered_mono h ho

/-- What an operation touches, said of more; the places of the rings stay out of it. -/
theorem does_mono {l' : List Piece} {may' : Nat → Nat → Prop} {dev' host' : List (Nat × Nat)}
    (h : Does l may dev host p c d) (hl : ∀ k ∈ l, k ∈ l') (hm : ∀ i s, may i s → may' i s)
    (hr : ∀ fn s, s = 9 ∨ s = 0xA → may' (0x2410 + fn) s → may (0x2410 + fn) s)
    (hd : ∀ x ∈ dev, x ∈ dev') (hh : ∀ x ∈ host, x ∈ host') : Does l' may' dev' host' p c d := by
  obtain ⟨f, o, ⟨xs, hx, wx⟩, g⟩ := h
  refine ⟨fun k hk => f k fun h => hk (hl k h), fun i s hs hn => o i s hs fun h => hn (hm i s h), ⟨xs, hx,
    fun x hx => inSpans_mono hd hh (wx x hx)⟩, fun m h => (g m h).imp id ?_⟩
  rintro ⟨a, b, me, h9, hA, hr'⟩
  exact ⟨hl _ a, hl _ b, fun i s h => hm i s (me i s h), fun h => h9 (hr _ _ (.inl rfl) h),
    fun h => hA (hr _ _ (.inr rfl) h), hh _ hr'⟩

/-- A span covers what lies in it. -/
theorem covered_of_mem {x : Nat × Nat} (h : x ∈ dev) {a n : Nat} (h1 : x.1 ≤ a) (h2 : a + n ≤ x.1 + x.2) :
    covered dev a n := fun y hy hy' ho => ho x h ⟨by omega, by omega⟩

/-! ### Primitive operations -/

/-- Any change of pieces that are allowed to change, with nothing posted and no dictionary entry changed. -/
theorem does_of_frame (hf : Frame l c d) (ho : d.od = c.od) (hp : d.posted = c.posted) (hm : d.msgs = c.msgs) :
    Does l may dev host p c d :=
  ⟨hf, fun _ _ _ _ => by simp [odVal, ho], ⟨[], by simp [hp], by simp⟩, fun m h => .inl (hm ▸ h)⟩

theorem post_step (h : Does l may dev host p c0 c) (o : MemOp) (hw : inSpans dev host o) :
    Does l may dev host p c0 (post o c) :=
  does_trans h ⟨fun k _ => by cases k <;> first | rfl | exact fun _ => rfl, fun _ _ _ _ => rfl, ⟨[o], rfl, by simpa using hw⟩, fun _ h => .inl h⟩

theorem emit_step (h : Does l may dev host p c0 c) (o : Out) : Does l may dev host p c0 (emit o c) :=
  does_trans h (does_of_frame (fun k _ => by cases k <;> first | rfl | exact fun _ => rfl) rfl rfl rfl)

theorem odKey_inj {i j s t : Nat} (hs : s < 256) (ht : t < 256) (h : odKey i s = odKey j t) : i = j ∧ s = t := by
  simp only [odKey] at h; omega

/-- A dictionary entry just stored. -/
@[simp] theorem odVal_odSet (p : Part) (c : Ctl) (i s v : Nat) : odVal p (odSet p i s v c) i s = v := by
  simp [odVal, odSet]

/-- Another entry. -/
theorem odVal_odSet_ne (p : Part) (c : Ctl) {i j s t : Nat} (v : Nat) (hs : s < 256) (ht : t < 256)
    (h : ¬(i = j ∧ s = t)) : odVal p (odSet p i s v c) j t = odVal p c j t := by
  simp only [odVal, odSet_od]
  by_cases hk : odKey j t = odKey i s
  · exact absurd (odKey_inj ht hs hk) fun ⟨a, b⟩ => h ⟨a.symm, b.symm⟩
  · rw [look_stow_ne _ _ _ _ _ _ hk]

theorem odSet_step (h : Does l may dev host p c0 c) (i s v : Nat) (hs : s < 256) (hm : may i s)
    (hl : Piece.od ∈ l) : Does l may dev host p c0 (odSet p i s v c) :=
  does_trans h ⟨fun k hk => by cases k <;> first | rfl | exact fun _ => rfl | exact absurd hl hk,
    fun j t ht hn => odVal_odSet_ne p c v hs ht fun ⟨a, b⟩ => hn (a ▸ b ▸ hm), ⟨[], by simp, by simp⟩,
    fun _ h => .inl h⟩

theorem bump_step (h : Does l may dev host p c0 c) (i s w k : Nat) (hs : s < 256) (hm : may i s)
    (hl : Piece.od ∈ l) : Does l may dev host p c0 (bump p i s w k c) := odSet_step h i s _ hs hm hl

/-- A change of one piece other than the dictionary. -/
theorem piece_step (h : Does l may dev host p c0 c) (hf : Frame l c d) (ho : d.od = c.od) (hp : d.posted = c.posted)
    (hm : d.msgs = c.msgs := by rfl) : Does l may dev host p c0 d := does_trans h (does_of_frame hf ho hp hm)

theorem modQ_step (h : Does l may dev host p c0 c) (n : Nat) (f : Queue → Queue) (hl : Piece.queues ∈ l) :
    Does l may dev host p c0 (modQ n f c) :=
  piece_step h (fun k hk => by cases k <;> first | rfl | exact fun _ => rfl | exact absurd hl hk) rfl rfl

theorem getB_modB (n k : Nat) (f : Block → Block) (c : Ctl) : getB (modB n f c) k = if k = n then f (getB c k) else getB c k := by
  by_cases h : k = n
  · subst h; simp [getB, modB]
  · simp [getB, modB, h]

theorem modB_step (h : Does l may dev host p c0 c) (n : Nat) (f : Block → Block) (hl : Piece.blocks ∈ l)
    (hr : Piece.readers ∈ l ∨ (f (getB c n)).readers = (getB c n).readers) : Does l may dev host p c0 (modB n f c) := by
  refine piece_step h (fun k hk => ?_) rfl rfl
  cases k with
  | blocks => exact absurd hl hk
  | readers =>
    intro b
    rw [getB_modB]
    split
    · next h => subst h; exact hr.elim (fun h => absurd h hk) id
    · rfl
  | _ => rfl

/-- A change of the sequences whose counts a block holds. -/
theorem readers_step (h : Does l may dev host p c0 c) (n : Nat) (x : List Nat) (hl : Piece.readers ∈ l) :
    Does l may dev host p c0 (modB n (fun b => { b with readers := x }) c) := by
  refine piece_step h (fun k hk => ?_) rfl rfl
  cases k with
  | readers => exact absurd hl hk
  | blocks =>
    intro b
    rw [getB_modB]
    split <;> rfl
  | _ => rfl

theorem modSeq_step (h : Does l may dev host p c0 c) (n : Nat) (f : Seq → Seq) (hl : Piece.seqs ∈ l) :
    Does l may dev host p c0 (modSeq n f c) :=
  piece_step h (fun k hk => by cases k <;> first | rfl | exact fun _ => rfl | exact absurd hl hk) rfl rfl

theorem modFifo_step (h : Does l may dev host p c0 c) (n : Nat) (f : Fifo → Fifo) (hl : Piece.fifos ∈ l) :
    Does l may dev host p c0 (modFifo n f c) :=
  piece_step h (fun k hk => by cases k <;> first | rfl | exact fun _ => rfl | exact absurd hl hk) rfl rfl

theorem modFn_step (h : Does l may dev host p c0 c) (n : Nat) (f : Fn → Fn) (hl : Piece.links ∈ l) :
    Does l may dev host p c0 (modFn n f c) :=
  piece_step h (fun k hk => by cases k <;> first | rfl | exact fun _ => rfl | exact absurd hl hk) rfl rfl

theorem modLinks_step (h : Does l may dev host p c0 c) (f : Links → Links) (hl : Piece.links ∈ l) :
    Does l may dev host p c0 (modLinks f c) :=
  piece_step h (fun k hk => by cases k <;> first | rfl | exact fun _ => rfl | exact absurd hl hk) rfl rfl

theorem modTime_step (h : Does l may dev host p c0 c) (f : Time → Time) (hl : Piece.time ∈ l) :
    Does l may dev host p c0 (modTime f c) :=
  piece_step h (fun k hk => by cases k <;> first | rfl | exact fun _ => rfl | exact absurd hl hk) rfl rfl

theorem modSafety_step (h : Does l may dev host p c0 c) (f : Safety → Safety) (hl : Piece.safety ∈ l) :
    Does l may dev host p c0 (modSafety f c) :=
  piece_step h (fun k hk => by cases k <;> first | rfl | exact fun _ => rfl | exact absurd hl hk) rfl rfl

theorem modFaults_step (h : Does l may dev host p c0 c) (f : Faults → Faults) (hl : Piece.faults ∈ l) :
    Does l may dev host p c0 (modFaults f c) :=
  piece_step h (fun k hk => by cases k <;> first | rfl | exact fun _ => rfl | exact absurd hl hk) rfl rfl

theorem modBoot_step (h : Does l may dev host p c0 c) (f : Boot → Boot) (hl : Piece.boot ∈ l) :
    Does l may dev host p c0 (modBoot f c) :=
  piece_step h (fun k hk => by cases k <;> first | rfl | exact fun _ => rfl | exact absurd hl hk) rfl rfl

theorem modPower_step (h : Does l may dev host p c0 c) (f : Power → Power) (hl : Piece.power ∈ l) :
    Does l may dev host p c0 (modPower f c) :=
  piece_step h (fun k hk => by cases k <;> first | rfl | exact fun _ => rfl | exact absurd hl hk) rfl rfl

theorem modSched_step (h : Does l may dev host p c0 c) (f : Sched → Sched) (hl : Piece.sched ∈ l) :
    Does l may dev host p c0 (modSched f c) :=
  piece_step h (fun k hk => by cases k <;> first | rfl | exact fun _ => rfl | exact absurd hl hk) rfl rfl

theorem modJournal_step (h : Does l may dev host p c0 c) (f : Journal → Journal) (hl : Piece.journal ∈ l) :
    Does l may dev host p c0 (modJournal f c) :=
  piece_step h (fun k hk => by cases k <;> first | rfl | exact fun _ => rfl | exact absurd hl hk) rfl rfl

theorem modCmd_step (h : Does l may dev host p c0 c) (r : Ref) (f : Cmd → Cmd) (hl : Piece.queues ∈ l) :
    Does l may dev host p c0 (modCmd r f c) := modQ_step h _ _ hl

theorem free_step (h : Does l may dev host p c0 c) (n : Nat) (hl : Piece.free ∈ l) :
    Does l may dev host p c0 { c with free := n } :=
  piece_step h (fun k hk => by cases k <;> first | rfl | exact fun _ => rfl | exact absurd hl hk) rfl rfl

theorem syncs_step (h : Does l may dev host p c0 c) (m : SMap Nat) (hl : Piece.syncs ∈ l) :
    Does l may dev host p c0 { c with syncs := m } :=
  piece_step h (fun k hk => by cases k <;> first | rfl | exact fun _ => rfl | exact absurd hl hk) rfl rfl

theorem postUndef_step (h : Does l may dev host p c0 c) (a n : Nat) (hl : Piece.free ∈ l)
    (hw : covered dev a n) : Does l may dev host p c0 (postUndef a n c) :=
  post_step (free_step h _ hl) _ hw

theorem ite_step {q : Prop} [Decidable q] (h : Does l may dev host p c0 d) (h' : Does l may dev host p c0 e) :
    Does l may dev host p c0 (if q then d else e) := by split <;> assumption

/-- A fold keeps what each of its steps keeps. -/
theorem foldl_step {α : Type} (f : Ctl → α → Ctl) (xs : List α)
    (hf : ∀ c, ∀ x ∈ xs, Does l may dev host p c0 c → Does l may dev host p c0 (f c x)) (h : Does l may dev host p c0 c) :
    Does l may dev host p c0 (xs.foldl f c) := by
  induction xs generalizing c with
  | nil => exact h
  | cons x xs ih =>
    exact ih (fun c y hy => hf c y (List.mem_cons_of_mem _ hy)) (hf c x (by simp) h)

/-! ### What stays -/

/-- The value of an entry that may not change. -/
theorem does_odVal (h : Does l may dev host p c d) {i s : Nat} (hs : s < 256) (hn : ¬ may i s) :
    odVal p d i s = odVal p c i s := h.2.1 i s hs hn

theorem does_eff (h : Does l may dev host p c d) (hn : Piece.eff ∉ l) : d.eff = c.eff := h.1 .eff hn

theorem does_effVal (h : Does l may dev host p c d) (hn : Piece.eff ∉ l) (i s : Nat) :
    effVal p d i s = effVal p c i s := by simp only [effVal, does_eff h hn]

/-! ### From the control state to memory and to the step -/

theorem sameByte_refl (m : Mems) (a : Nat) : sameByte m m a := ⟨rfl, rfl⟩

theorem memKept_refl (m : Mems) : MemKept dev host m m := ⟨fun a _ => sameByte_refl m a, fun _ _ => rfl⟩

theorem memKept_trans {m n k : Mems} (h : MemKept dev host m n) (h' : MemKept dev host n k) :
    MemKept dev host m k :=
  ⟨fun a ha => ⟨(h'.1 a ha).1.trans (h.1 a ha).1, (h'.1 a ha).2.trans (h.1 a ha).2⟩,
    fun a ha => (h'.2 a ha).trans (h.2 a ha)⟩

theorem unpoison_any (a n x : Nat) (ps : List Nat) (hx : x < a ∨ a + n ≤ x) :
    ((unpoison a n ps).any fun w => decide (w < x + 1) && decide (x < w + wordSize w)) =
      ps.any fun w => decide (w < x + 1) && decide (x < w + wordSize w) := by
  induction ps with
  | nil => rfl
  | cons w ps ih =>
    simp only [unpoison] at ih ⊢
    rw [List.filter_cons]
    split
    · simp only [List.any_cons, ih]
    · next hw =>
      rw [ih, List.any_cons]
      simp only [Bool.not_eq_true, Bool.not_eq_false', Bool.and_eq_true, decide_eq_true_eq] at hw
      have : (decide (w < x + 1) && decide (x < w + wordSize w)) = false := by
        rw [Bool.and_eq_false_iff]; simp only [decide_eq_false_iff_not]; omega
      rw [this, Bool.false_or]

theorem insNat_any (k x : Nat) (ps : List Nat) (hk : ¬(k ≤ x ∧ x < k + wordSize k)) :
    ((insNat k ps).any fun w => decide (w < x + 1) && decide (x < w + wordSize w)) =
      ps.any fun w => decide (w < x + 1) && decide (x < w + wordSize w) := by
  have hf : (decide (k < x + 1) && decide (x < k + wordSize k)) = false := by
    rw [Bool.and_eq_false_iff]; simp only [decide_eq_false_iff_not]; omega
  induction ps with
  | nil => simp only [insNat, List.any_cons, List.any_nil, hf, Bool.or_false]
  | cons w ps ih =>
    simp only [insNat]
    split
    · rfl
    · split
      · rw [List.any_cons, hf, Bool.false_or]
      · simp only [List.any_cons, ih]

theorem cellAt_dropSpan_out (lo n x : Nat) (m : Memory) (hx : x < lo ∨ lo + n ≤ x) :
    cellAt x (dropSpan lo n m) = cellAt x m := by
  induction m with
  | nil => rfl
  | cons e m ih =>
    obtain ⟨k, b⟩ := e
    simp only [dropSpan] at ih ⊢
    by_cases hk : inSpan lo n k = true
    · rw [List.filter_cons_of_neg (by simp [hk]), ih]
      simp only [inSpan, Bool.and_eq_true, decide_eq_true_eq] at hk
      simp only [cellAt]; rw [if_neg (by omega)]
    · rw [List.filter_cons_of_pos (by simpa using hk)]
      simp only [cellAt, ih]

/-- An effect within the spans leaves every byte outside them alone. -/
theorem applyOp_kept (m : Mems) (o : MemOp) (h : inSpans dev host o) : MemKept dev host m (applyOp m o) := by
  have out : ∀ {a n x : Nat} {sp : List (Nat × Nat)}, covered sp a n → outside sp x → x < a ∨ a + n ≤ x := by
    intro a n x sp hc ho
    by_contra hn
    exact hc x (by omega) (by omega) ho
  cases o with
  | dev a bs =>
    refine ⟨fun x hx => ?_, fun _ _ => rfl⟩
    have := out h hx
    exact ⟨devByte_dev_out m a x bs this, unpoison_any a bs.length x m.poison this⟩
  | poison a =>
    refine ⟨fun x hx => ⟨rfl, insNat_any _ x m.poison ?_⟩, fun _ _ => rfl⟩
    have := out h hx
    omega
  | host a bs => exact ⟨fun x _ => ⟨rfl, rfl⟩, fun x hx => hostByte_host_out m a x bs (out h hx)⟩
  | undef a n k =>
    refine ⟨fun x hx => ?_, fun _ _ => rfl⟩
    have := out h hx
    exact ⟨by simpa [applyOp, devByte] using devByte_dev_out m a x (tab n fun i => Config.freeByte k (a + i)) (by simpa [tab] using this),
      unpoison_any a n x m.poison this⟩
  | lose g a n =>
    refine ⟨fun x hx => ?_, fun _ _ => rfl⟩
    have := out h.1 hx
    refine ⟨?_, unpoison_any a n x m.poison this⟩
    simp only [devByte, applyOp, cellAt_dropSpan_out a n x m.dev this]
    split
    · rfl
    · simp only [unlisted]
      split
      · rfl
      · next hd =>
        have hg : regionKey (regionOf x) ≠ g := fun hg => h.2 x (by omega) hg hx
        simp only [tweak]
        rw [look_stow_ne _ _ _ _ _ _ hg]
  | zero a n =>
    refine ⟨fun x hx => ?_, fun _ _ => rfl⟩
    have := out h hx
    refine ⟨?_, unpoison_any a n x m.poison this⟩
    simp only [devByte, applyOp, cellAt_dropSpan_out a n x m.dev this]

theorem applyOps_kept (m : Mems) (os : List MemOp) (h : ∀ o ∈ os, inSpans dev host o) :
    MemKept dev host m (applyOps m os) := by
  induction os generalizing m with
  | nil => exact memKept_refl m
  | cons o os ih =>
    exact memKept_trans (applyOp_kept m o (h o (by simp))) (ih _ fun x hx => h x (by simp [hx]))

/-- A meaning that does no more than this makes a step that touches no more than this. -/
theorem settleMem_touches (s : State) (d : Ctl) (h : Does l may dev host s.part s.ctl.fresh d) :
    Touches l may dev host s ({ s with ctl := d } : State).settleMem := by
  obtain ⟨f, o, ⟨os, hp, hw⟩, -⟩ := h
  refine ⟨rfl, rfl, rfl, fun k hk => ?_, o, ?_⟩
  · have := f k hk
    cases k <;> exact this
  · have : d.posted = os := by simpa using hp
    simp only [settleMem_mems, this]
    exact applyOps_kept s.mems os hw

end Sys2Proof.Machine
end

