-- ==== Sys2Proof/Laws/Dram.lean ====
section
/-! SUPPORT. What the DRAM controllers do (12 R360-R368): they change what they keep of the accesses that they serve, and
nothing else. -/

namespace Sys2Proof.Machine

variable {l : List Piece} {may : Nat → Nat → Prop} {dev host : List (Nat × Nat)} {p : Part} {c c0 d e : Ctl}

/-- Nothing but what the DRAM controllers keep changes. -/
def TrafficOnly (c d : Ctl) : Prop := ∃ t, d = { c with traffic := t }

theorem modTraffic_traffic (f : Traffic → Traffic) (c : Ctl) : TrafficOnly c (modTraffic f c) := ⟨_, rfl⟩

theorem flushCodes_traffic (p : Part) (half : Nat) (c : Ctl) : TrafficOnly c (flushCodes p half c) := ⟨_, rfl⟩

theorem dramReads_traffic (p : Part) (u : Nat) (l : List (Nat × Nat)) (c : Ctl) : TrafficOnly c (dramReads p u l c) := ⟨_, rfl⟩

theorem serveWrites_traffic (p : Part) (c : Ctl) : TrafficOnly c (serveWrites p c) := ⟨_, rfl⟩

theorem traffic_step (h : Does l may dev host p c0 c) (ht : TrafficOnly c d) : Does l may dev host p c0 d := by
  obtain ⟨t, rfl⟩ := ht
  exact piece_step h (fun k _ => by cases k <;> first | rfl | exact fun _ => rfl) rfl rfl

end Sys2Proof.Machine
end

