-- ==== Sys2Proof/Laws/Settle.lean ====
section
/-! SUPPORT. What the operations shared by all commands touch: messages, journal records, fault records,
signals, outcomes, and the settling of commands. One lemma per operation, in the form that composes. -/

namespace Sys2Proof.Machine

variable {l : List Piece} {may : Nat → Nat → Prop} {dev host : List (Nat × Nat)} {p : Part} {c c0 d e : Ctl}

/-! ### Lengths -/

@[simp] theorem leBytes_length (n v : Nat) : (leBytes n v).length = n := by
  induction n generalizing v with
  | zero => rfl
  | succ n ih => simp [leBytes, ih]

@[simp] theorem msgRecord_length (ph ty se ti : Nat) (pay : List Byte) : (msgRecord ph ty se ti pay).length = 64 := by
  simp only [msgRecord, List.length_append, leBytes_length, List.length_take, List.length_replicate]; omega

@[simp] theorem journalRecord_length (k s n a e ck ad : Nat) : (journalRecord k s n a e ck ad).length = 32 := by
  simp [journalRecord]

@[simp] theorem cplRecord_length (a b c d e : Nat) : (cplRecord a b c d e).length = 16 := by simp [cplRecord]

/-! ### Messages (10 R310-R315) -/

theorem sendEmcy_step (h : Does l may dev host p c0 c) (hod : Piece.od ∈ l) (hli : Piece.links ∈ l)
    (hm : may 0x2401 7) (ty se : Nat) (pay : List Byte) : Does l may dev host p c0 (sendEmcy p ty se pay c) := by
  unfold sendEmcy
  dsimp only
  exact ite_step (ite_step (bump_step h _ _ _ _ (by decide) hm hod) (emit_step (modLinks_step h _ hli) _)) h

theorem sendMsix_step (h : Does l may dev host p c0 c) (hli : Piece.links ∈ l) (fn n : Nat) :
    Does l may dev host p c0 (sendMsix fn n c) := by
  unfold sendMsix
  dsimp only
  exact ite_step h (ite_step (modFn_step h _ _ hli) (emit_step h _))

/-- A message is written: its ring, its function's entries, and its EMCY. -/
theorem writeMsg_step (h : Does l may dev host p c0 c) (m : Msg) (ha : AllowsMsg l may host p c0 m.fn) :
    Does l may dev host p c0 (writeMsg p m c) := by
  obtain ⟨hod, hli, hme, h9, hA, hh⟩ := ha
  have e9 := does_odVal h (s := 9) (by decide) h9
  have eA := does_odVal h (s := 0xA) (by decide) hA
  have hD := hme _ 0xD (.inl ⟨rfl, .inl rfl⟩)
  have hE := hme _ 0xE (.inl ⟨rfl, .inr rfl⟩)
  have hs : Does l may dev host p c0 (modFn m.fn (fun f => { f with serial := ((getFn c m.fn).serial + 1) % 2 ^ 32 }) c) :=
    modFn_step h _ _ hli
  unfold writeMsg
  dsimp only
  have key : ∀ e, Does l may dev host p c0 e → Does l may dev host p c0
      (if m.fn = 0 then sendEmcy p m.type (getFn c m.fn).serial m.pay e else e) := fun e he =>
    ite_step (sendEmcy_step he hod hli (hme _ _ (.inr ⟨rfl, rfl⟩)) _ _ _) he
  apply key
  split
  · next hok =>
    refine sendMsix_step (odSet_step (post_step hs _ ?_) _ _ _ (by decide) hD hod) hli _ _
    simp only [Bool.and_eq_true, decide_eq_true_eq] at hok
    have hlt := Nat.mod_lt (odVal p c (0x2410 + m.fn) 0xD) hok.1
    refine covered_of_mem hh ?_ ?_ <;> simp only [ringSpan, msgRecord_length]
    · rw [e9]; omega
    · rw [e9]; rw [eA] at hlt ⊢; omega
  · exact bump_step hs _ _ _ _ (by decide) hE hod

theorem writeMsgs_step (ms : List Msg) (h : Does l may dev host p c0 c)
    (ha : ∀ m ∈ ms, AllowsMsg l may host p c0 m.fn) : Does l may dev host p c0 (ms.foldl (fun c m => writeMsg p m c) c) :=
  foldl_step _ ms (fun _ m hm h => writeMsg_step h m (ha m hm)) h

/-- The messages that wait are written, each allowed since the start. -/
theorem flushMsgs_step (h : Does l may dev host p c0 c) (h0 : ∀ m ∈ c0.msgs, AllowsMsg l may host p c0 m.fn) :
    Does l may dev host p c0 (flushMsgs p c) := by
  refine writeMsgs_step c.msgs (c := { c with msgs := [] }) ?_ fun m hm => (h.2.2.2 m hm).elim (h0 m) id
  exact ⟨fun k hk => by have := h.1 k hk; cases k <;> exact this, h.2.1, h.2.2.1, fun m hm => by cases hm⟩

theorem mem_placeMsg (m x : Msg) (ms : List Msg) : x ∈ placeMsg m ms → x = m ∨ x ∈ ms := by
  induction ms with
  | nil => simp [placeMsg]
  | cons y ms ih =>
    simp only [placeMsg]
    split
    · simp
    · intro h
      rcases List.mem_cons.mp h with h | h
      · exact .inr (by simp [h])
      · exact (ih h).imp id fun h => List.mem_cons_of_mem _ h

theorem sendMsg_step (h : Does l may dev host p c0 c) (h0 : c0.msgs = []) {fn : Nat} (ha : AllowsMsg l may host p c0 fn)
    (ty : Nat) (pay : List Byte) : Does l may dev host p c0 (sendMsg p fn ty pay c) := by
  have h1 : Does l may dev host p c0 (if (c.msgs.any fun m => decide (m.time ≠ now c)) = true then flushMsgs p c else c) :=
    ite_step (flushMsgs_step h fun m hm => by rw [h0] at hm; cases hm) h
  unfold sendMsg
  dsimp only
  refine ⟨fun k hk => ?_, h1.2.1, h1.2.2.1, fun m hm => ?_⟩
  · have := h1.1 k hk
    cases k <;> exact this
  · rcases mem_placeMsg _ _ _ hm with h | h
    · subst h; exact .inr ha
    · exact h1.2.2.2 m h

/-- The end of a step keeps within the same bounds. -/
theorem endStep_step (h : Does l may dev host p c0 c) (h0 : c0.msgs = []) : Does l may dev host p c0 (endStep p c) :=
  traffic_step (flushMsgs_step h fun m hm => by rw [h0] at hm; cases hm) (serveWrites_traffic ..)

/-- A step that sends no message ends as it stands, but for what the DRAM controllers keep. -/
theorem endStep_quiet (p : Part) (h : c.msgs = []) : ∃ t, endStep p c = { c with traffic := t } := by
  have : flushMsgs p c = c := by
    obtain ⟨⟩ := c
    simp only at h
    subst h
    rfl
  rw [endStep, this]
  exact serveWrites_traffic ..

theorem frame_trans {l : List Piece} (h : Frame l c d) (h' : Frame l d e) : Frame l c e :=
  fun k hk => same_trans (h k hk) (h' k hk)

theorem frame_ite {q : Prop} [Decidable q] (h : Frame l c d) (h' : Frame l c e) : Frame l c (if q then d else e) := by
  split <;> assumption

theorem writeMsg_frame (p : Part) (m : Msg) (c : Ctl) : Frame [.od, .links] c (writeMsg p m c) := by
  have prim : ∀ c d : Ctl, (∀ k, k ≠ Piece.od → k ≠ Piece.links → same c d k) → Frame [.od, .links] c d :=
    fun c d h k hk => by simp only [List.mem_cons, List.not_mem_nil, or_false, not_or] at hk; exact h k hk.1 hk.2
  have od : ∀ (c : Ctl) i s v, Frame [.od, .links] c (odSet p i s v c) := fun c i s v => prim _ _ fun k h _ => by
    cases k <;> first | rfl | exact fun _ => rfl | exact absurd rfl h
  have fn : ∀ (c : Ctl) n f, Frame [.od, .links] c (modFn n f c) := fun c n f => prim _ _ fun k _ h => by
    cases k <;> first | rfl | exact fun _ => rfl | exact absurd rfl h
  have links : ∀ (c : Ctl) f, Frame [.od, .links] c (modLinks f c) := fun c f => prim _ _ fun k _ h => by
    cases k <;> first | rfl | exact fun _ => rfl | exact absurd rfl h
  have out : ∀ (c : Ctl) o, Frame [.od, .links] c (emit o c) := fun c o => prim _ _ fun k _ _ => by
    cases k <;> first | rfl | exact fun _ => rfl
  have put : ∀ (c : Ctl) o, Frame [.od, .links] c (post o c) := fun c o => prim _ _ fun k _ _ => by
    cases k <;> first | rfl | exact fun _ => rfl
  have id_ : ∀ c : Ctl, Frame [.od, .links] c c := fun c k _ => same_refl c k
  have emcy : ∀ (c : Ctl) t s x, Frame [.od, .links] c (sendEmcy p t s x c) := fun c t s x => by
    unfold sendEmcy
    dsimp only
    exact frame_ite (frame_ite (od _ _ _ _) (frame_trans (links _ _) (out _ _))) (id_ c)
  have msix : ∀ (c : Ctl) f n, Frame [.od, .links] c (sendMsix f n c) := fun c f n => by
    unfold sendMsix
    dsimp only
    exact frame_ite (id_ c) (frame_ite (fn _ _ _) (out _ _))
  unfold writeMsg
  dsimp only
  have h2 : ∀ q : Bool, ∀ d e, Frame [.od, .links] c d → Frame [.od, .links] c e →
      Frame [.od, .links] c (if m.fn = 0 then sendEmcy p m.type (getFn c m.fn).serial m.pay (if q then d else e)
        else if q then d else e) := fun q d e hd he =>
    frame_ite (frame_trans (frame_ite hd he) (emcy _ _ _ _)) (frame_ite hd he)
  refine h2 _ _ _ (frame_trans (frame_trans (frame_trans (fn c m.fn fun f => { f with serial := ((getFn c m.fn).serial + 1) % 2 ^ 32 }) (put _ _)) (od _ _ _ _)) (msix _ _ _))
    (frame_trans (fn c m.fn fun f => { f with serial := ((getFn c m.fn).serial + 1) % 2 ^ 32 }) ?_)
  unfold bump
  exact od _ _ _ _

/-- The end of a step changes nothing but the dictionary's and the functions' records of messages. -/
theorem endStep_frame (p : Part) (c : Ctl) : Frame [.od, .links] c (endStep p c) := by
  have key : ∀ (ms : List Msg) (c : Ctl), Frame [.od, .links] c (ms.foldl (fun c m => writeMsg p m c) c) := by
    intro ms
    induction ms with
    | nil => exact fun c k _ => same_refl c k
    | cons m ms ih => exact fun c => frame_trans (writeMsg_frame p m c) (ih _)
  have h0 : Frame [.od, .links] c { c with msgs := [] } := fun k _ => by cases k <;> first | rfl | exact fun _ => rfl
  refine frame_trans (d := flushMsgs p c) (frame_trans h0 (key c.msgs _)) ?_
  obtain ⟨t, ht⟩ := serveWrites_traffic p (flushMsgs p c)
  rw [endStep, ht]
  exact fun k _ => by cases k <;> first | rfl | exact fun _ => rfl

theorem act_touches (s : State) (f : View → Ctl → Ctl)
    (h : Does l may dev host s.part s.ctl.fresh (f s.view s.ctl.fresh)) :
    ∃ t, act s f = .next t ∧ Touches l may dev host s t := ⟨_, rfl, settleMem_touches s _ (endStep_step h rfl)⟩

/-! ### The journal (08 R257) -/

/-- A statement that allows what the record of an input does. -/
def AllowsInput (l : List Piece) (may : Nat → Nat → Prop) (dev host : List (Nat × Nat)) (p : Part) (c0 : Ctl) : Prop :=
  Piece.journal ∈ l ∧ Piece.eff ∉ l ∧ (∀ i s, inputEntry i s → may i s) ∧ ¬ may 0x2310 1 ∧
    (∀ x ∈ journalSpans p c0, x ∈ dev) ∧ AllowsMsg l may host p c0 0

theorem payRoom_le (n : Nat) : n ≤ payRoom n := by simp only [payRoom, cdiv]; omega

theorem postRing_step (h : Does l may dev host p c0 c) (base size off : Nat) (bs : List Byte)
    (hm : (base, size) ∈ dev) (hn : bs.length ≤ size) : Does l may dev host p c0 (postRing base size off bs c) := by
  unfold postRing
  split
  · exact h
  · next hz =>
    have hlt := Nat.mod_lt off (Nat.pos_of_ne_zero hz)
    have h1 : Does l may dev host p c0 (post (.dev (base + off % size) (bs.take (size - off % size))) c) := by
      refine post_step h _ (covered_of_mem hm ?_ ?_)
      · dsimp only; omega
      · simp only [List.length_take]; omega
    dsimp only
    split
    · exact h1
    · refine post_step h1 _ (covered_of_mem hm ?_ ?_)
      · dsimp only; omega
      · simp only [List.length_drop]; omega

theorem putRecord_step (h : Does l may dev host p c0 c) (ha : AllowsInput l may dev host p c0)
    (hen : odVal p c 0x2310 1 ≠ 0) (k so n ar ep : Nat) (pay : List Byte) (hp : pay.length ≤ effVal p c 0x2310 5) :
    Does l may dev host p c0 (putRecord p k so n ar ep pay c) := by
  obtain ⟨hj, hef, hme, h1, hsp, hod, hli, -⟩ := ha
  have e1 : odVal p c0 0x2310 1 ≠ 0 := by rw [← does_odVal h (by decide) h1]; exact hen
  have e2 := does_effVal h hef 0x2310 2
  have e3 := does_effVal h hef 0x2310 3
  have e4 := does_effVal h hef 0x2310 4
  have e5 := does_effVal h hef 0x2310 5
  have hs1 : (64 * effVal p c0 0x2310 2, 32 * max 1 (effVal p c0 0x2310 3)) ∈ dev := hsp _ (by simp [journalSpans, e1])
  have hs2 : (64 * effVal p c0 0x2310 4, effVal p c0 0x2310 5) ∈ dev := hsp _ (by simp [journalSpans, e1])
  unfold putRecord
  dsimp only
  refine odSet_step (modJournal_step (post_step ?_ _ ?_) _ hj) _ _ _ (by decide) (hme _ _ (.inl ⟨rfl, .inl rfl⟩)) hod
  · exact postRing_step h _ _ _ _ (by rw [e4, e5]; exact hs2) hp
  · have hlt := Nat.mod_lt (odVal p c 0x2310 6) (show 0 < max 1 (effVal p c 0x2310 3) by omega)
    refine covered_of_mem hs1 ?_ ?_ <;> dsimp only
    · rw [e2]; omega
    · rw [journalRecord_length, e2]; rw [e3] at hlt ⊢; omega

theorem record_step (h : Does l may dev host p c0 c) (h0 : c0.msgs = []) (ha : AllowsInput l may dev host p c0) (k so ar ep : Nat)
    (pay : List Byte) : Does l may dev host p c0 (record p k so ar ep pay c) := by
  have ha' := ha
  obtain ⟨hj, hef, hme, h1, hsp, hmsg⟩ := ha'
  unfold record
  split
  · exact h
  · next hen =>
    have hlen := payRoom_le pay.length
    dsimp only
    by_cases hroom : sumN c.journal.sizes + payRoom pay.length ≤ effVal p c 0x2310 5
    · refine ite_step ?_ ?_
      · split
        · exact putRecord_step h ha hen _ _ _ _ _ _ (by omega)
        · have hg := modJournal_step (putRecord_step h ha hen 6 0 c.journal.gap ar ep [] (by simp))
            (fun j => { j with gap := 0 }) hj
          refine putRecord_step hg ha ?_ _ _ _ _ _ _ ?_
          · rw [does_odVal hg (by decide) h1, ← does_odVal h (by decide) h1]; exact hen
          · rw [does_effVal hg hef, ← does_effVal h hef]; omega
      · exact sendMsg_step (h0 := h0) (bump_step (modJournal_step h _ hj) _ _ _ _ (by decide) (hme _ _ (.inl ⟨rfl, .inr rfl⟩)) hmsg.1) hmsg _ _
    · rw [if_neg (by simp [hroom])]
      exact sendMsg_step (h0 := h0) (bump_step (modJournal_step h _ hj) _ _ _ _ (by decide) (hme _ _ (.inl ⟨rfl, .inr rfl⟩)) hmsg.1) hmsg _ _

theorem recordNow_step (h : Does l may dev host p c0 c) (h0 : c0.msgs = []) (ha : AllowsInput l may dev host p c0)
    (k so : Nat) (pay : List Byte) : Does l may dev host p c0 (recordNow p k so pay c) := record_step h h0 ha _ _ _ _ _

/-! ### Signals (10 R295) -/

theorem signal_step (h : Does l may dev host p c0 c) (hsy : Piece.syncs ∈ l) (hod : Piece.od ∈ l)
    (hm : may 0x2401 5) (s a : Nat) : Does l may dev host p c0 (signal p s a c) := by
  unfold signal
  dsimp only
  split
  · exact bump_step (syncs_step h _ hsy) _ _ _ _ (by decide) hm hod
  · exact syncs_step h _ hsy

/-- The sync object signalled. -/
theorem signal_self (p : Part) (s a : Nat) (c : Ctl) : getSync (signal p s a c) s = min (getSync c s + a) (2 ^ 64 - 1) := by
  unfold signal getSync
  dsimp only
  split <;> simp

/-- Another sync object. -/
theorem signal_ne (p : Part) (s t a : Nat) (c : Ctl) (h : t ≠ s) : getSync (signal p s a c) t = getSync c t := by
  unfold signal getSync
  dsimp only
  split <;> simp [h]

/-! ### Fault records (15 R432, R433) -/

theorem toInbox_step (h : Does l may dev host p c0 c) (hf : Piece.faults ∈ l) (r : Rec) :
    Does l may dev host p c0 (toInbox r c) := modFaults_step h _ hf

theorem toIsle_step (h : Does l may dev host p c0 c) (hf : Piece.faults ∈ l) (hod : Piece.od ∈ l)
    (hm : may 0x2800 0xA) (i : Nat) (r : Rec) : Does l may dev host p c0 (toIsle p i r c) := by
  unfold toIsle
  dsimp only
  split
  · exact bump_step (modFaults_step h _ hf) _ _ _ _ (by decide) hm hod
  · exact modFaults_step h _ hf

theorem toBlock_step (h : Does l may dev host p c0 c) (hf : Piece.faults ∈ l) (hod : Piece.od ∈ l)
    (hm : may 0x2800 0xA) (b : Nat) (r : Rec) : Does l may dev host p c0 (toBlock p b r c) := by
  unfold toBlock
  dsimp only
  exact ite_step (bump_step (modFaults_step h _ hf) _ _ _ _ (by decide) hm hod) (modFaults_step h _ hf)

theorem raise_step (h : Does l may dev host p c0 c) (hf : Piece.faults ∈ l) (hod : Piece.od ∈ l)
    (hm : may 0x2800 0xA) (r : Rec) : Does l may dev host p c0 (raise p r c) := by
  unfold raise
  dsimp only
  split
  · exact toBlock_step h hf hod hm _ _
  · exact toIsle_step h hf hod hm _ _
  · exact toInbox_step h hf _

/-! ### Settling (10 R296, R297, R303, 14 R409, R410, 06 R200) -/

/-- The spans that settling may rewrite lie where the statement allows. -/
def LooseIn (dev : List (Nat × Nat)) (p : Part) (c : Ctl) : Prop := ∀ x ∈ looseSpans p c, covered dev x.1 x.2

theorem covered_empty (a : Nat) : covered dev a 0 := fun x h1 h2 => by omega

theorem covered_sub {a n b k : Nat} (h : covered dev a n) (h1 : a ≤ b) (h2 : b + k ≤ a + n) : covered dev b k :=
  fun x hx hx' => h x (by omega) (by omega)

/-- Spans that become undefined when commands are discarded. -/
def cmdSpans (c : Ctl) : List (Nat × Nat) := (allCmds c).flatMap fun e => looseOf e.2

/-- Keeps every place of a command: nothing is added to what commands have written, nor to the appends. -/
structure Calm (c d : Ctl) : Prop where
  spans : ∀ x ∈ cmdSpans d, x ∈ cmdSpans c
  appends : d.appends = c.appends

theorem calm_refl : Calm c c := ⟨fun _ h => h, rfl⟩
theorem calm_trans (h : Calm c d) (h' : Calm d e) : Calm c e :=
  ⟨fun x hx => h.spans x (h'.spans x hx), h'.appends.trans h.appends⟩

theorem calm_of_eq (hq : d.queues = c.queues) (ha : d.appends = c.appends) : Calm c d :=
  ⟨fun x hx => by simpa [cmdSpans, allCmds, hq] using hx, ha⟩

/-- Whatever leaves the commands' places, the pools and the values in effect alone leaves the loose spans
where they are. -/
theorem looseIn_calm (h : LooseIn dev p c) (hc : Calm c d) (he : d.eff = c.eff)
    (ho : ∀ s, odVal p d (0x2B40 + s) 5 = odVal p c (0x2B40 + s) 5) : LooseIn dev p d := by
  intro x hx
  apply h x
  simp only [looseSpans, List.mem_append] at hx ⊢
  rcases hx with hx | hx
  · exact .inl (hc.spans x hx)
  · right
    simpa only [hc.appends, effVal, he, ho] using hx

/-- A queue-wise change that adds nothing to what commands have written. -/
theorem mem_stow {β : Type} [DecidableEq β] (dv : β) (k : Nat) (v : β) (m : SMap β) (x : Nat × β) :
    x ∈ stow dv k v m → x = (k, v) ∨ x ∈ m := by
  simp only [stow]
  split
  · exact fun h => .inr (List.mem_filter.mp h).1
  · intro h
    exact (mem_place k v _ x h).imp id fun h => (List.mem_filter.mp h).1

theorem look_mem {β : Type} (dv : β) (k : Nat) (m : SMap β) : look dv k m = dv ∨ (k, look dv k m) ∈ m := by
  induction m with
  | nil => exact .inl rfl
  | cons e m ih =>
    obtain ⟨j, v⟩ := e
    simp only [look]
    split
    · next h => subst h; exact .inr (by simp)
    · exact ih.imp id fun h => List.mem_cons_of_mem _ h

theorem modQ_calm (n : Nat) (f : Queue → Queue) (c : Ctl) (hf : ∀ q, ∀ m ∈ (f q).cmds, ∃ k ∈ q.cmds, ∀ x ∈ looseOf m, x ∈ looseOf k) :
    Calm c (modQ n f c) := by
  refine ⟨fun x hx => ?_, rfl⟩
  simp only [cmdSpans, allCmds, modQ_queues, List.mem_flatMap, List.mem_map] at hx ⊢
  obtain ⟨⟨q, m⟩, ⟨⟨k, u⟩, hu, m', hm', heq⟩, hx⟩ := hx
  obtain ⟨rfl, rfl⟩ := Prod.mk.inj heq
  rcases mem_stow _ _ _ _ _ hu with h | h
  · obtain ⟨rfl, rfl⟩ := Prod.mk.inj h
    obtain ⟨j, hj, hd⟩ := hf _ m' hm'
    rcases look_mem {} k c.queues with h0 | h0
    · rw [h0] at hj; exact absurd hj (by simp)
    · exact ⟨(k, j), ⟨(k, _), h0, j, hj, rfl⟩, hd x hx⟩
  · exact ⟨(k, m'), ⟨(k, u), h, m', hm', rfl⟩, hx⟩

theorem modCmd_calm (r : Ref) (f : Cmd → Cmd) (c : Ctl) (hf : ∀ m, ∀ x ∈ looseOf (f m), x ∈ looseOf m) :
    Calm c (modCmd r f c) := by
  refine modQ_calm _ _ _ fun q m hm => ?_
  obtain ⟨k, hk, rfl⟩ := List.mem_map.mp hm
  refine ⟨k, hk, ?_⟩
  split
  · exact hf k
  · exact fun _ h => h

theorem forget_calm (r : Ref) (c : Ctl) : Calm c (forget r c) := by
  refine ⟨fun x hx => ?_, rfl⟩
  simp only [cmdSpans, allCmds, forget, List.mem_flatMap, List.mem_map] at hx ⊢
  obtain ⟨⟨q, m⟩, ⟨⟨k, u⟩, ⟨⟨k', u'⟩, hu', heq'⟩, m', hm', heq⟩, hx⟩ := hx
  obtain ⟨rfl, rfl⟩ := Prod.mk.inj heq
  obtain ⟨rfl, rfl⟩ := Prod.mk.inj heq'
  obtain ⟨m'', hm'', rfl⟩ := List.mem_map.mp hm'
  exact ⟨(k', m''), ⟨(k', u'), hu', m'', hm'', rfl⟩, hx⟩

/-- What settling needs of a statement. -/
def AllowsSettle (l : List Piece) (may : Nat → Nat → Prop) : Prop :=
  (∀ k ∈ settlePieces, k ∈ l) ∧ (∀ i s, settleEntry i s → may i s) ∧ Piece.eff ∉ l

/-- An operation of settling before the appends are swept: within bounds, and calm. -/
def Mild (l : List Piece) (may : Nat → Nat → Prop) (dev host : List (Nat × Nat)) (p : Part) (c0 c d : Ctl) : Prop :=
  Does l may dev host p c0 d ∧ Calm c d ∧ d.eff = c.eff ∧ ∀ s, odVal p d (0x2B40 + s) 5 = odVal p c (0x2B40 + s) 5

theorem mild_refl (h : Does l may dev host p c0 c) : Mild l may dev host p c0 c c :=
  ⟨h, calm_refl, rfl, fun _ => rfl⟩

theorem mild_trans (h : Mild l may dev host p c0 c d) (h' : Mild l may dev host p c0 d e) :
    Mild l may dev host p c0 c e :=
  ⟨h'.1, calm_trans h.2.1 h'.2.1, h'.2.2.1.trans h.2.2.1, fun s => (h'.2.2.2 s).trans (h.2.2.2 s)⟩

theorem mild_loose (h : LooseIn dev p c) (hm : Mild l may dev host p c0 c d) : LooseIn dev p d :=
  looseIn_calm h hm.2.1 hm.2.2.1 hm.2.2.2

theorem modCmd_mild (h : Does l may dev host p c0 c) (hl : Piece.queues ∈ l) (r : Ref) (f : Cmd → Cmd)
    (hf : ∀ m, ∀ x ∈ looseOf (f m), x ∈ looseOf m) : Mild l may dev host p c0 c (modCmd r f c) :=
  ⟨modCmd_step h r f hl, modCmd_calm r f c hf, rfl, fun _ => rfl⟩

theorem signal_mild (h : Does l may dev host p c0 c) (ha : AllowsSettle l may) (s a : Nat) :
    Mild l may dev host p c0 c (signal p s a c) := by
  refine ⟨signal_step h (ha.1 _ (by decide)) (ha.1 _ (by decide)) (ha.2.1 _ _ (.inl ⟨rfl, rfl⟩)) s a, ?_, ?_, ?_⟩
  · apply calm_of_eq <;> (unfold signal; dsimp only; split <;> rfl)
  · unfold signal; dsimp only; split <;> rfl
  · intro n
    unfold signal; dsimp only
    split
    · exact odVal_odSet_ne _ _ _ (by decide) (by decide) (by omega)
    · rfl

theorem forget_mild (h : Does l may dev host p c0 c) (ha : AllowsSettle l may) (r : Ref) :
    Mild l may dev host p c0 c (forget r c) :=
  ⟨piece_step h (fun k hk => by
      cases k <;> first | rfl | exact fun _ => rfl | exact absurd (ha.1 _ (by decide)) hk) rfl rfl,
    forget_calm r c, rfl, fun _ => rfl⟩

theorem applyDone_mild (h : Does l may dev host p c0 c) (ha : AllowsSettle l may) (r : Ref) (m : Cmd) :
    Mild l may dev host p c0 c (applyDone p r m c) := by
  unfold applyDone
  have h1 := signal_mild h ha (fld m.desc 32 15) 1
  have h2 := mild_trans h1 (modCmd_mild h1.1 (ha.1 _ (by decide)) r (fun x => { x with doneSig := .applied }) fun _ _ h => h)
  dsimp only
  split
  · exact h2
  · exact mild_trans h2 ⟨modSafety_step h2.1 _ (ha.1 _ (by decide)), calm_of_eq rfl rfl, rfl, fun _ => rfl⟩

theorem modSeq_mild (h : Does l may dev host p c0 c) (hl : Piece.seqs ∈ l) (n : Nat) (f : Seq → Seq) :
    Mild l may dev host p c0 c (modSeq n f c) := ⟨modSeq_step h n f hl, calm_of_eq rfl rfl, rfl, fun _ => rfl⟩

theorem dropReaders_mild (xs : List Nat) (h : Does l may dev host p c0 c) (hl : Piece.seqs ∈ l) :
    Mild l may dev host p c0 c (dropReaders xs c) := by
  induction xs generalizing c with
  | nil => exact mild_refl h
  | cons x xs ih =>
    have h1 := modSeq_mild h hl x (fun x => { x with readers := x.readers - 1 })
    exact mild_trans h1 (ih h1.1)

theorem releaseWork_mild (h : Does l may dev host p c0 c) (hq : Piece.queues ∈ l) (hs : Piece.seqs ∈ l) (r : Ref) :
    Mild l may dev host p c0 c (releaseWork r c) := by
  unfold releaseWork
  split
  · next m _ =>
    split
    · exact mild_refl h
    · have h1 := dropReaders_mild (c := c) m.work h hs
      exact mild_trans h1 (modCmd_mild h1.1 hq r _ fun _ _ h => h)
  · exact mild_refl h

theorem releaseHalted_mild (h : Does l may dev host p c0 c) (hs : Piece.seqs ∈ l) (hr : Piece.readers ∈ l) (b : Nat) (r : Ref) :
    Mild l may dev host p c0 c (releaseHalted b r c) := by
  unfold releaseHalted
  split
  · have h1 := dropReaders_mild (c := c) (getB c b).readers h hs
    exact mild_trans h1 ⟨readers_step h1.1 b [] hr, calm_of_eq rfl rfl, rfl, fun _ => rfl⟩
  · exact mild_refl h

theorem mild_ite {q : Prop} [Decidable q] (h : Mild l may dev host p c0 c d) (h' : Mild l may dev host p c0 c e) :
    Mild l may dev host p c0 c (if q then d else e) := by split <;> assumption

theorem resolve_mild (h : Does l may dev host p c0 c) (ha : AllowsSettle l may) (r : Ref) (s t : Nat) (b : Bool) :
    Mild l may dev host p c0 c (resolve r s t b c) := by
  unfold resolve
  split
  · exact mild_refl h
  · split
    · exact mild_refl h
    · next m _ _ =>
      dsimp only
      have h1 := mild_ite (q := s = 3) (releaseHalted_mild h (ha.1 _ (by decide)) (ha.1 _ (by decide)) (unitOfDesc m.desc) r)
        (mild_refl h)
      have h2 := mild_trans h1 (releaseWork_mild h1.1 (ha.1 _ (by decide)) (ha.1 _ (by decide)) r)
      refine mild_trans h2 (modCmd_mild h2.1 (ha.1 _ (by decide)) r _ fun m x hx => ?_)
      simp only [looseOf, reduceCtorEq, and_false, if_false, List.append_nil] at hx
      simp only [looseOf, List.mem_append]
      exact .inl hx

theorem commit_mild (h : Does l may dev host p c0 c) (ha : AllowsSettle l may) (r : Ref) :
    Mild l may dev host p c0 c (commit p r c) := by
  unfold commit
  split
  · exact mild_refl h
  · next m _ =>
    have h1 := modCmd_mild h (ha.1 _ (by decide)) r (fun x => { x with committed := true }) fun _ _ h => h
    dsimp only
    split
    · have h2 := mild_trans h1 (applyDone_mild h1.1 ha r { m with committed := true })
      exact mild_trans h2 (forget_mild h2.1 ha r)
    · exact mild_trans h1 (forget_mild h1.1 ha r)

theorem findCmd_mem {r : Ref} {m : Cmd} (h : findCmd c r = some m) : m ∈ (getQ c r.q).cmds ∧ m.idx = r.i := by
  refine ⟨List.mem_of_find?_eq_some h, ?_⟩
  simpa using List.find?_some h

theorem findCmd_spans {r : Ref} {m : Cmd} (h : findCmd c r = some m) : ∀ x ∈ looseOf m, x ∈ cmdSpans c := by
  intro x hx
  have hm := (findCmd_mem h).1
  rcases look_mem {} r.q c.queues with h0 | h0
  · simp only [getQ, h0] at hm; exact absurd hm (by simp)
  · simp only [cmdSpans, allCmds, List.mem_flatMap, List.mem_map]
    exact ⟨(r.q, m), ⟨(r.q, _), h0, m, hm, rfl⟩, hx⟩

theorem spoil_mild (h : Does l may dev host p c0 c) (ha : AllowsSettle l may) (m : Cmd)
    (hm : ∀ x ∈ looseOf m, covered dev x.1 x.2) : Mild l may dev host p c0 c (spoil m c) := by
  have key : ∀ (xs : List (Nat × Nat)) (c : Ctl), Does l may dev host p c0 c → (∀ x ∈ xs, covered dev x.1 x.2) →
      Mild l may dev host p c0 c (xs.foldl (fun c d => postUndef d.1 d.2 c) c) := by
    intro xs
    induction xs with
    | nil => exact fun c h _ => mild_refl h
    | cons x xs ih =>
      intro c h hx
      have h1 : Mild l may dev host p c0 c (postUndef x.1 x.2 c) :=
        ⟨postUndef_step h _ _ (ha.1 _ (by decide)) (hx x (by simp)), calm_of_eq rfl rfl, rfl, fun _ => rfl⟩
      exact mild_trans h1 (ih _ h1.1 fun y hy => hx y (by simp [hy]))
  unfold spoil
  refine key _ c h fun x hx => hm x ?_
  simp only [looseOf, List.mem_append] at hx ⊢
  refine hx.imp id fun hx => ?_
  split at hx
  · next hc => rw [if_pos ⟨hc.1, hc.2.1⟩]; exact hx
  · cases hx

theorem settleCmd_mild (h : Does l may dev host p c0 c) (ha : AllowsSettle l may) (hl : LooseIn dev p c) (r : Ref) :
    Mild l may dev host p c0 c (settleCmd p r c) := by
  unfold settleCmd
  split
  · exact mild_refl h
  · next m hm =>
    have hsp : ∀ x ∈ looseOf m, covered dev x.1 x.2 := fun x hx =>
      hl x (by simp only [looseSpans, List.mem_append]; exact .inl (findCmd_spans hm x hx))
    split
    · exact mild_refl h
    · split
      · have h1 := spoil_mild h ha m hsp
        have h2 := mild_trans h1 (resolve_mild h1.1 ha r 3 0 true)
        exact mild_trans h2 ⟨modQ_step h2.1 _ _ (ha.1 _ (by decide)), modQ_calm _ _ _ fun q m hm => ⟨m, hm, fun _ h => h⟩, rfl, fun _ => rfl⟩
      · split
        · exact mild_refl h
        · split
          · exact commit_mild h ha r
          · split
            · exact applyDone_mild h ha r m
            · exact mild_refl h

theorem settleOnce_mild (h : Does l may dev host p c0 c) (ha : AllowsSettle l may) (hl : LooseIn dev p c) :
    Mild l may dev host p c0 c (settleOnce p c) := by
  unfold settleOnce
  generalize allCmds c = xs
  induction xs generalizing c with
  | nil => exact mild_refl h
  | cons x xs ih =>
    have h1 := settleCmd_mild h ha hl ⟨x.1, x.2.idx⟩
    exact mild_trans h1 (ih h1.1 (mild_loose hl h1))

theorem settleN_mild (n : Nat) (h : Does l may dev host p c0 c) (ha : AllowsSettle l may) (hl : LooseIn dev p c) :
    Mild l may dev host p c0 c (settleN p n c) := by
  induction n generalizing c with
  | zero => exact mild_refl h
  | succ n ih =>
    have h1 := settleOnce_mild h ha hl
    exact mild_trans h1 (ih h1.1 (mild_loose hl h1))

/-- Page sets of appends. -/
def takenOf (l : List Append) : List Nat := l.flatMap fun b => b.recs.flatMap AppendRec.taken

theorem flatMap_leBytes_length (n : Nat) (xs : List Nat) : (xs.flatMap (leBytes n)).length = n * xs.length := by
  induction xs with
  | nil => simp
  | cons x xs ih => simp [ih]; ring

theorem releaseSeqs_step (h : Does l may dev host p c0 c) (hl : Piece.seqs ∈ l) (xs : List AppendRec) :
    Does l may dev host p c0 (xs.foldl (fun c r => modSeq r.seq (fun x => { x with appendBusy := false }) c) c) :=
  foldl_step _ xs (fun _ _ _ h => modSeq_step h _ _ hl) h

theorem releaseSeqs_same (xs : List AppendRec) (c : Ctl) :
    let d := xs.foldl (fun c r => modSeq r.seq (fun x => { x with appendBusy := false }) c) c
    d.od = c.od ∧ d.eff = c.eff ∧ d.queues = c.queues ∧ d.appends = c.appends := by
  induction xs generalizing c with
  | nil => exact ⟨rfl, rfl, rfl, rfl⟩
  | cons x xs ih => exact ih _

theorem pushPool_od (p : Part) (set : Nat) (xs : List Nat) (c : Ctl) (s : Nat) :
    odVal p (pushPool p set xs c) (0x2B40 + s) 5 =
      odVal p c (0x2B40 + s) 5 + (if s = set then xs.length else 0) := by
  unfold pushPool
  dsimp only
  split
  · next h => simp only [List.isEmpty_iff] at h; subst h; simp
  · split
    · next h => subst h; simp
    · next h => rw [odVal_odSet_ne _ _ _ (by decide) (by decide) (by omega)]; rfl

theorem pushPool_same (p : Part) (set : Nat) (xs : List Nat) (c : Ctl) :
    (pushPool p set xs c).eff = c.eff ∧ (pushPool p set xs c).queues = c.queues ∧ (pushPool p set xs c).appends = c.appends := by
  unfold pushPool
  dsimp only
  split <;> exact ⟨rfl, rfl, rfl⟩

/-- What is left to release fits where the statement allows. -/
def PoolsFit (dev : List (Nat × Nat)) (p : Part) (xs ys : List Append) (c : Ctl) : Prop :=
  ∀ a ∈ xs, covered dev (64 * effVal p c (0x2B40 + a.set) 4 + 4 * odVal p c (0x2B40 + a.set) 5) (4 * (takenOf ys).length)

theorem releaseAppend_step (h : Does l may dev host p c0 c) (ha : AllowsSettle l may) (a : Append) (xs ys : List Append)
    (hy : (takenOf (a :: xs)).length ≤ (takenOf ys).length)
    (hf : PoolsFit dev p ys ys c) (hm : a ∈ ys) : Does l may dev host p c0 (releaseAppend p c a) := by
  unfold releaseAppend
  refine releaseSeqs_step ?_ (ha.1 _ (by decide)) _
  unfold pushPool
  dsimp only
  split
  · exact h
  · refine odSet_step (post_step h _ ?_) _ _ _ (by decide) (ha.2.1 _ _ (.inr (.inl ⟨by omega, rfl⟩))) (ha.1 _ (by decide))
    refine covered_sub (hf a hm) (Nat.le_refl _) ?_
    rw [flatMap_leBytes_length, List.length_reverse]
    have : (a.recs.flatMap AppendRec.taken).length ≤ (takenOf (a :: xs)).length := by simp [takenOf]
    omega

theorem releaseAll_step (xs : List Append) (h : Does l may dev host p c0 c) (ha : AllowsSettle l may)
    (hf : PoolsFit dev p xs xs c) : Does l may dev host p c0 (xs.foldl (releaseAppend p) c) := by
  induction xs generalizing c with
  | nil => exact h
  | cons a xs ih =>
    refine ih (releaseAppend_step h ha a xs (a :: xs) (Nat.le_refl _) hf (by simp)) ?_
    intro b hb
    have hb' := hf b (by simp [hb])
    have hod : odVal p (releaseAppend p c a) (0x2B40 + b.set) 5 =
        odVal p c (0x2B40 + b.set) 5 + (if b.set = a.set then (a.recs.flatMap AppendRec.taken).length else 0) := by
      unfold releaseAppend
      have := (releaseSeqs_same a.recs (pushPool p a.set (a.recs.flatMap AppendRec.taken).reverse c)).1
      simp only [odVal, this]
      have h2 := pushPool_od p a.set (a.recs.flatMap AppendRec.taken).reverse c b.set
      simpa only [odVal, List.length_reverse] using h2
    have heff : (releaseAppend p c a).eff = c.eff := by
      unfold releaseAppend
      rw [(releaseSeqs_same a.recs _).2.1, (pushPool_same _ _ _ _).1]
    refine covered_sub hb' ?_ ?_
    · simp only [effVal, heff, hod]; omega
    · simp only [effVal, heff, hod, takenOf, List.flatMap_cons, List.length_append] at *
      split <;> omega

theorem releaseAll_same (xs : List Append) (c : Ctl) :
    (xs.foldl (releaseAppend p) c).eff = c.eff ∧ (xs.foldl (releaseAppend p) c).queues = c.queues ∧
      (xs.foldl (releaseAppend p) c).appends = c.appends := by
  induction xs generalizing c with
  | nil => exact ⟨rfl, rfl, rfl⟩
  | cons a xs ih =>
    have h1 := releaseSeqs_same a.recs (pushPool p a.set (a.recs.flatMap AppendRec.taken).reverse c)
    have h2 := pushPool_same p a.set (a.recs.flatMap AppendRec.taken).reverse c
    have h3 := ih (releaseAppend p c a)
    exact ⟨h3.1.trans (h1.2.1.trans h2.1), h3.2.1.trans (h1.2.2.1.trans h2.2.1), h3.2.2.trans (h1.2.2.2.trans h2.2.2)⟩

theorem takenOf_filter (q : Append → Bool) (xs : List Append) : (takenOf (xs.filter q)).length + (takenOf (xs.filter fun a => !q a)).length = (takenOf xs).length := by
  induction xs with
  | nil => rfl
  | cons a xs ih =>
    simp only [takenOf] at ih
    by_cases h : q a <;>
      simp only [takenOf, List.filter_cons, h, Bool.not_true, Bool.not_false, Bool.false_eq_true, if_true, if_false,
        List.flatMap_cons, List.length_append] <;> omega

theorem releaseAll_od (xs : List Append) (c : Ctl) (s : Nat) :
    odVal p c (0x2B40 + s) 5 ≤ odVal p (xs.foldl (releaseAppend p) c) (0x2B40 + s) 5 ∧
      odVal p (xs.foldl (releaseAppend p) c) (0x2B40 + s) 5 ≤ odVal p c (0x2B40 + s) 5 + (takenOf xs).length := by
  induction xs generalizing c with
  | nil => simp [takenOf]
  | cons a xs ih =>
    have := ih (releaseAppend p c a)
    have hod : odVal p (releaseAppend p c a) (0x2B40 + s) 5 =
        odVal p c (0x2B40 + s) 5 + (if s = a.set then (a.recs.flatMap AppendRec.taken).length else 0) := by
      unfold releaseAppend
      have h1 := (releaseSeqs_same a.recs (pushPool p a.set (a.recs.flatMap AppendRec.taken).reverse c)).1
      simp only [odVal, h1]
      have h2 := pushPool_od p a.set (a.recs.flatMap AppendRec.taken).reverse c s
      simpa only [odVal, List.length_reverse] using h2
    simp only [List.foldl_cons, takenOf, List.flatMap_cons, List.length_append] at *
    split at hod <;> omega

/-- The sweep of ended appends keeps within bounds, and what is loose afterwards was loose before. -/
theorem sweepAppends_step (h : Does l may dev host p c0 c) (ha : AllowsSettle l may) (hl : LooseIn dev p c) :
    Does l may dev host p c0 (sweepAppends p c) ∧ LooseIn dev p (sweepAppends p c) := by
  have hfit : ∀ a ∈ c.appends, covered dev (64 * effVal p c (0x2B40 + a.set) 4 + 4 * odVal p c (0x2B40 + a.set) 5)
      (4 * (takenOf c.appends).length) := fun a hm =>
    hl _ (by simp only [looseSpans, List.mem_append, List.mem_map]; exact .inr ⟨a, hm, rfl⟩)
  have hcount := takenOf_filter (appendEnded c) c.appends
  have hd : Does l may dev host p c0 { c with appends := c.appends.filter fun a => !appendEnded c a } :=
    piece_step h (fun k hk => by cases k <;> first | rfl | exact fun _ => rfl | exact absurd (ha.1 _ (by decide)) hk) rfl rfl
  refine ⟨releaseAll_step _ hd ha fun a hm => ?_, ?_⟩
  · exact covered_sub (hfit a (List.mem_filter.mp hm).1) (Nat.le_refl _) (by
      show _ ≤ 64 * effVal p c _ 4 + _ + _; simp only [effVal, odVal]; omega)
  · intro x hx
    have hs := releaseAll_same (p := p) (c.appends.filter (appendEnded c)) { c with appends := c.appends.filter fun a => !appendEnded c a }
    simp only [looseSpans, List.mem_append] at hx
    rcases hx with hx | hx
    · apply hl x
      simp only [looseSpans, List.mem_append]
      left
      simpa only [allCmds, sweepAppends, hs.2.1] using hx
    · simp only [sweepAppends, hs.2.2, List.mem_map] at hx
      obtain ⟨a, hm, rfl⟩ := hx
      have hod := releaseAll_od (p := p) (c.appends.filter (appendEnded c)) { c with appends := c.appends.filter fun a => !appendEnded c a } a.set
      refine covered_sub (hfit a (List.mem_filter.mp hm).1) ?_ ?_
      · simp only [effVal, hs.1]
        have : odVal p { c with appends := c.appends.filter fun a => !appendEnded c a } (0x2B40 + a.set) 5 = odVal p c (0x2B40 + a.set) 5 := rfl
        omega
      · simp only [effVal, hs.1]
        have : odVal p { c with appends := c.appends.filter fun a => !appendEnded c a } (0x2B40 + a.set) 5 = odVal p c (0x2B40 + a.set) 5 := rfl
        simp only [takenOf] at *
        omega

theorem becomeReady_same (p : Part) (u cl : Nat) (c : Ctl) :
    ∃ v, becomeReady p u cl c = modSched (fun s => { s with vtime := v }) c := by
  unfold becomeReady
  dsimp only
  split
  · exact ⟨c.sched.vtime, rfl⟩
  · split
    · exact ⟨_, rfl⟩
    · exact ⟨c.sched.vtime, rfl⟩

theorem modSched_mild (h : Does l may dev host p c0 c) (hs : Piece.sched ∈ l) (f : Sched → Sched) :
    Mild l may dev host p c0 c (modSched f c) := ⟨modSched_step h f hs, calm_of_eq rfl rfl, rfl, fun _ => rfl⟩

theorem modSafety_mild (h : Does l may dev host p c0 c) (hs : Piece.safety ∈ l) (f : Safety → Safety) :
    Mild l may dev host p c0 c (modSafety f c) := ⟨modSafety_step h f hs, calm_of_eq rfl rfl, rfl, fun _ => rfl⟩

theorem free_mild (h : Does l may dev host p c0 c) (hs : Piece.free ∈ l) (n : Nat) :
    Mild l may dev host p c0 c { c with free := n } := ⟨free_step h n hs, calm_of_eq rfl rfl, rfl, fun _ => rfl⟩

/-- A change of an entry of a client other than one that the pools share a subindex with. -/
theorem odSet_mild (h : Does l may dev host p c0 c) (ha : AllowsSettle l may) (x k v : Nat) (hk : k = 0xD ∨ k = 0xE ∨ k = 0xF) :
    Mild l may dev host p c0 c (odSet p (0x4000 + x) k v c) :=
  ⟨odSet_step h _ _ _ (by omega) (ha.2.1 _ _ (.inr (.inr ⟨by omega, hk⟩))) (ha.1 _ (by decide)), calm_of_eq rfl rfl, rfl,
    fun s => odVal_odSet_ne _ _ _ (by omega) (by decide) (by omega)⟩

theorem foldl_mild {α : Type} (f : Ctl → α → Ctl) (xs : List α)
    (hf : ∀ c x, Does l may dev host p c0 c → Mild l may dev host p c0 c (f c x)) (h : Does l may dev host p c0 c) :
    Mild l may dev host p c0 c (xs.foldl f c) := by
  induction xs generalizing c with
  | nil => exact mild_refl h
  | cons x xs ih => exact mild_trans (hf c x h) (ih (hf c x h).1)

theorem setResident_mild (h : Does l may dev host p c0 c) (ha : AllowsSettle l may) (isle : Nat) (xs : List Nat) :
    Mild l may dev host p c0 c (setResident p isle xs c) := by
  unfold setResident
  dsimp only
  have h1 := modSched_mild h (ha.1 _ (by decide)) fun s => { s with resident := stow [] isle xs s.resident }
  have h2 := mild_trans h1 (foldl_mild _ ((look [] isle c.sched.resident).filter fun x => !xs.contains x)
    (fun c x h => odSet_mild h ha x 0xD (setBitN (odVal p c (0x4000 + x) 0xD) isle false) (.inl rfl)) h1.1)
  exact mild_trans h2 (foldl_mild _ xs
    (fun c x h => odSet_mild h ha x 0xD (setBitN (odVal p c (0x4000 + x) 0xD) isle true) (.inl rfl)) h2.1)

theorem freeIdle_mild (h : Does l may dev host p c0 c) (ha : AllowsSettle l may) :
    Mild l may dev host p c0 c (freeIdle p c) :=
  foldl_mild _ _ (fun _ _ h => mild_ite (mild_refl h) (setResident_mild h ha _ _)) h

theorem endDepends_mild (h : Does l may dev host p c0 c) (ha : AllowsSettle l may) (r : Ref) :
    Mild l may dev host p c0 c (endDepends p r c) := by
  unfold endDepends
  refine mild_ite ?_ (mild_refl h)
  have h1 := free_mild h (ha.1 _ (by decide)) (c.free + 1)
  have h2 := mild_trans h1 (odSet_mild h1.1 ha (getQ c r.q).ctx.client 0xE
    (satN 64 (odVal p { c with free := c.free + 1 } (0x4000 + (getQ c r.q).ctx.client) 0xE + Config.cycles c.free % 2 ^ 32))
    (.inr (.inl rfl)))
  exact mild_trans h2 (modCmd_mild h2.1 (ha.1 _ (by decide)) r (fun m => { m with depends := false }) fun _ _ h => h)

theorem countLayer_mild (h : Does l may dev host p c0 c) (ha : AllowsSettle l may) (cl b : Nat) (i : Bool) :
    Mild l may dev host p c0 c (countLayer p cl b i c) := by
  unfold countLayer
  dsimp only
  have hs : Piece.safety ∈ l := ha.1 _ (by decide)
  have key : ∀ e : Ctl, Mild l may dev host p c0 c e → Mild l may dev host p c0 c
      (if safetyClient p c cl = true ∨ (!i) = true ∨ odVal p c 0x2700 0x13 = 0 then e
      else if look 0 b c.safety.layers + 1 < odVal p c 0x2700 0x13 then
        modSafety (fun s => { s with layers := stow 0 b (look 0 b c.safety.layers + 1) s.layers }) e
      else modSafety (fun s => { s with layers := stow 0 b 0 s.layers, samples := tweak [] b (fun l => l ++ [cl]) s.samples }) e) :=
    fun e he => mild_ite he (mild_ite (mild_trans he (modSafety_mild he.1 hs _)) (mild_trans he (modSafety_mild he.1 hs _)))
  exact key _ (mild_ite (modSafety_mild h hs _) (mild_refl h))

theorem passMark_mild (h : Does l may dev host p c0 c) (ha : AllowsSettle l may) (q n : Nat) :
    Mild l may dev host p c0 c (passMark p q n c) := by
  have h1 : Mild l may dev host p c0 c (countLayers p q n c) :=
    foldl_mild _ _ (fun _ _ h => mild_ite (mild_refl h) (countLayer_mild h ha _ _ _)) h
  have hs : Piece.sched ∈ l := ha.1 _ (by decide)
  unfold passMark clearLayer
  exact mild_trans h1 (modSched_mild h1.1 hs _)

theorem passMarks_mild (h : Does l may dev host p c0 c) (ha : AllowsSettle l may) (q : Nat) :
    Mild l may dev host p c0 c (passMarks p q c) := by
  unfold passMarks
  refine mild_ite (mild_refl h) (foldl_mild _ _ (fun c m h => ?_) h)
  have h1 := modCmd_mild h (ha.1 _ (by decide)) ⟨q, m.idx⟩ (fun x => { x with phase := 1 }) fun _ _ h => h
  exact mild_trans h1 (passMark_mild h1.1 ha q m.layer)

theorem passAll_mild (h : Does l may dev host p c0 c) (ha : AllowsSettle l may) : Mild l may dev host p c0 c (passAll p c) :=
  foldl_mild _ _ (fun _ _ h => passMarks_mild h ha _) h

theorem sweepRedo_mild (h : Does l may dev host p c0 c) (ha : AllowsSettle l may) : Mild l may dev host p c0 c (sweepRedo c) := by
  refine ⟨piece_step h (fun k hk => by
    cases k <;> first | rfl | exact fun _ => rfl | exact absurd (ha.1 _ (by decide)) hk) rfl rfl, ⟨fun x hx => ?_, rfl⟩, rfl, fun _ => rfl⟩
  simp only [cmdSpans, allCmds, sweepRedo, List.mem_flatMap, List.mem_map] at hx ⊢
  obtain ⟨⟨q, m⟩, ⟨⟨k, u⟩, ⟨⟨k', u'⟩, hu', heq'⟩, m', hm', heq⟩, hx⟩ := hx
  obtain ⟨rfl, rfl⟩ := Prod.mk.inj heq
  obtain ⟨rfl, rfl⟩ := Prod.mk.inj heq'
  exact ⟨(k', m'), ⟨(k', u'), hu', m', (List.mem_filter.mp hm').1, rfl⟩, hx⟩

theorem latchQ_mild (h : Does l may dev host p c0 c) (ha : AllowsSettle l may) (q : Nat) :
    Mild l may dev host p c0 c (latchQ p q c) := by
  unfold latchQ
  split
  · exact mild_refl h
  · next m _ =>
    split
    · exact mild_refl h
    · have key : ∀ (b : Bool) (o : Option Nat), Mild l may dev host p c0 c (match b, o with
          | true, some un => becomeReady p un (getQ c q).ctx.client c
          | _, _ => c) := by
        intro b o
        split
        · next u =>
          obtain ⟨v, hv⟩ := becomeReady_same p u (getQ c q).ctx.client c
          rw [hv]
          exact modSched_mild h (ha.1 _ (by decide)) _
        · exact mild_refl h
      dsimp only
      have ends : ∀ (b : Bool) (e : Ctl), Mild l may dev host p c0 c e →
          Mild l may dev host p c0 c (if b = true then endDepends p ⟨q, m.idx⟩ e else e) := fun b e he =>
        mild_ite (mild_trans he (endDepends_mild he.1 ha _)) he
      have h2 := ends ((waitsOf c m.desc).all (fun w => ((waitsOf c m.desc).foldl
          (fun a w => if w.2.2 = true then a ||| 2 ^ w.1 else a) m.waits).testBit w.1) ||
          (waitsOf c m.desc).any fun w => !mayName p c q .sync w.2.1) _
        (key ((waitsOf c m.desc).all (fun w => ((waitsOf c m.desc).foldl
          (fun a w => if w.2.2 = true then a ||| 2 ^ w.1 else a) m.waits).testBit w.1) ||
          (waitsOf c m.desc).any fun w => !mayName p c q .sync w.2.1) (scheduledUnit m.desc))
      exact mild_trans h2 (modCmd_mild h2.1 (ha.1 _ (by decide)) _ _ fun _ _ h => h)

theorem latchAll_mild (h : Does l may dev host p c0 c) (ha : AllowsSettle l may) :
    Mild l may dev host p c0 c (latchAll p c) := foldl_mild _ _ (fun _ _ h => latchQ_mild h ha _) h

/-- Settling keeps within bounds, and what is loose afterwards was loose before. -/
theorem settle_step (h : Does l may dev host p c0 c) (ha : AllowsSettle l may) (hl : LooseIn dev p c) :
    Does l may dev host p c0 (settle p c) ∧ LooseIn dev p (settle p c) := by
  have h1 := settleN_mild ((allCmds c).length + 1) h ha hl
  have h2 := sweepAppends_step h1.1 ha (mild_loose hl h1)
  have h3 := sweepRedo_mild h2.1 ha
  have h4 := mild_trans h3 (passAll_mild h3.1 ha)
  have h5 := mild_trans h4 (latchAll_mild h4.1 ha)
  have h6 := mild_trans h5 (freeIdle_mild h5.1 ha)
  exact ⟨h6.1, mild_loose h2.2 h6⟩

end Sys2Proof.Machine
end

