-- ==== Sys2Proof/Laws/Outcome.lean ====
section
/-! SUPPORT. What settling does to queues and commands: indices, contexts and descriptors stay; a command
keeps its stage or becomes done, but for a re-execution, which leaves once it has ended. -/

namespace Sys2Proof.Machine

variable {p : Part} {c d e : Ctl}

/-- How a command may be after settling. -/
structure CmdGrows (m x : Cmd) : Prop where
  idx : x.idx = m.idx
  desc : x.desc = m.desc
  poisoned : x.poisoned = m.poisoned
  redo : x.redo = m.redo
  step : x.step = m.step
  sig : x.sig = m.sig
  cycles : x.cycles = m.cycles
  stage : x.stage = m.stage ∨ x.stage = .done

theorem CmdGrows.rfl' (m : Cmd) : CmdGrows m m :=
  ⟨rfl, rfl, rfl, rfl, rfl, rfl, rfl, .inl rfl⟩

theorem CmdGrows.trans {m x y : Cmd} (h : CmdGrows m x) (h' : CmdGrows x y) : CmdGrows m y where
  idx := h'.idx.trans h.idx
  desc := h'.desc.trans h.desc
  poisoned := h'.poisoned.trans h.poisoned
  redo := h'.redo.trans h.redo
  step := h'.step.trans h.step
  sig := h'.sig.trans h.sig
  cycles := h'.cycles.trans h.cycles
  stage := by
    rcases h'.stage with k | k
    · rcases h.stage with j | j
      · exact .inl (k.trans j)
      · exact .inr (k.trans j)
    · exact .inr k

/-- How the commands of a queue may be after settling: each in its place, but for re-executions that have left
(11 R328). -/
inductive CmdsGrow : List Cmd → List Cmd → Prop
  | nil : CmdsGrow [] []
  | cons {m x : Cmd} {l k : List Cmd} : CmdGrows m x → CmdsGrow l k → CmdsGrow (m :: l) (x :: k)
  | gone {m : Cmd} {l k : List Cmd} : m.redo.isSome = true → CmdsGrow l k → CmdsGrow (m :: l) k

/-- How a queue may be after settling. -/
structure QueueGrows (q u : Queue) : Prop where
  state : u.state = q.state
  tail : u.tail = q.tail
  head : u.head = q.head
  retired : u.retired = q.retired
  ctx : u.ctx = q.ctx
  reported : u.refusedReported = q.refusedReported
  marked : u.marked = q.marked
  layer : u.layer = q.layer
  cmds : CmdsGrow q.cmds u.cmds

theorem cmdsGrow_refl (l : List Cmd) : CmdsGrow l l := by
  induction l with
  | nil => exact .nil
  | cons m l ih => exact .cons (.rfl' m) ih

theorem cmdsGrow_trans {l k j : List Cmd} (h : CmdsGrow l k) (h' : CmdsGrow k j) : CmdsGrow l j := by
  induction h generalizing j with
  | nil => exact h'
  | @cons m x l k hx _ ih => cases h' with
    | cons hy ht => exact .cons (hx.trans hy) (ih ht)
    | gone hr ht => exact .gone (hx.redo ▸ hr) (ih ht)
  | gone hr _ ih => exact .gone hr (ih h')

theorem cmdsGrow_map (f : Cmd → Cmd) (l : List Cmd) (h : ∀ m ∈ l, CmdGrows m (f m)) : CmdsGrow l (l.map f) := by
  induction l with
  | nil => exact .nil
  | cons m l ih => exact .cons (h m (by simp)) (ih fun x hx => h x (by simp [hx]))

theorem cmdsGrow_filter (f : Cmd → Bool) (l : List Cmd) (h : ∀ m ∈ l, f m = false → m.redo.isSome = true) :
    CmdsGrow l (l.filter f) := by
  induction l with
  | nil => exact .nil
  | cons m l ih =>
    have ht := ih fun x hx => h x (by simp [hx])
    by_cases hf : f m = true
    · rw [List.filter_cons_of_pos hf]; exact .cons (.rfl' m) ht
    · rw [List.filter_cons_of_neg hf]; exact .gone (h m (by simp) (by simpa using hf)) ht

theorem QueueGrows.rfl' (q : Queue) : QueueGrows q q := ⟨rfl, rfl, rfl, rfl, rfl, rfl, rfl, rfl, cmdsGrow_refl _⟩

theorem QueueGrows.trans {q u v : Queue} (h : QueueGrows q u) (h' : QueueGrows u v) : QueueGrows q v :=
  ⟨h'.1.trans h.1, h'.2.trans h.2, h'.3.trans h.3, h'.4.trans h.4, h'.5.trans h.5, h'.6.trans h.6, h'.7.trans h.7,
    h'.8.trans h.8, cmdsGrow_trans h.9 h'.9⟩

/-- Settling as every queue sees it. -/
def Grows (c d : Ctl) : Prop := ∀ n, QueueGrows (getQ c n) (getQ d n)

theorem grows_refl (c : Ctl) : Grows c c := fun _ => .rfl' _
theorem grows_trans (h : Grows c d) (h' : Grows d e) : Grows c e := fun n => (h n).trans (h' n)
theorem grows_of_eq (h : d.queues = c.queues) : Grows c d := fun n => by
  simp only [getQ, h]; exact .rfl' _

@[simp] theorem getQ_modQ (n : Nat) (f : Queue → Queue) (c : Ctl) : getQ (modQ n f c) n = f (getQ c n) := by
  simp [getQ]

theorem getQ_modQ_ne (n k : Nat) (f : Queue → Queue) (c : Ctl) (h : k ≠ n) : getQ (modQ n f c) k = getQ c k := by
  simp [getQ, h]

theorem modQ_grows (n : Nat) (f : Queue → Queue) (c : Ctl) (hf : QueueGrows (getQ c n) (f (getQ c n))) :
    Grows c (modQ n f c) := fun k => by
  by_cases h : k = n
  · subst h; rw [getQ_modQ]; exact hf
  · rw [getQ_modQ_ne _ _ _ _ h]; exact .rfl' _

theorem modCmd_grows (r : Ref) (f : Cmd → Cmd) (c : Ctl)
    (hf : ∀ m ∈ (getQ c r.q).cmds, m.idx = r.i → CmdGrows m (f m)) : Grows c (modCmd r f c) :=
  modQ_grows _ _ _ ⟨rfl, rfl, rfl, rfl, rfl, rfl, rfl, rfl, cmdsGrow_map _ _ fun m hm => by
    split
    · next h => exact hf m hm h
    · exact .rfl' m⟩

theorem cmdsGrow_find {l k : List Cmd} (h : CmdsGrow l k) (i : Nat) :
    (∀ m, l.find? (fun m => decide (m.idx = i)) = some m → m.redo = none →
      ∃ x, k.find? (fun m => decide (m.idx = i)) = some x ∧ CmdGrows m x) ∧
    (l.find? (fun m => decide (m.idx = i)) = none → k.find? (fun m => decide (m.idx = i)) = none) := by
  induction h with
  | nil => simp
  | @cons a b l k hab _ ih =>
    constructor
    · intro m hm hr
      by_cases ha : a.idx = i
      · rw [List.find?_cons_of_pos (by simpa using ha)] at hm
        cases hm
        exact ⟨b, List.find?_cons_of_pos (by simpa [hab.idx] using ha), hab⟩
      · rw [List.find?_cons_of_neg (by simpa using ha)] at hm
        rw [List.find?_cons_of_neg (by simpa [hab.idx] using ha)]
        exact ih.1 m hm hr
    · intro hn
      by_cases ha : a.idx = i
      · rw [List.find?_cons_of_pos (by simpa using ha)] at hn; cases hn
      · rw [List.find?_cons_of_neg (by simpa using ha)] at hn
        rw [List.find?_cons_of_neg (by simpa [hab.idx] using ha)]
        exact ih.2 hn
  | @gone a l k hg _ ih =>
    by_cases ha : a.idx = i
    · rw [List.find?_cons_of_pos (by simpa using ha)]
      refine ⟨fun m hm hr => ?_, fun hn => by cases hn⟩
      cases hm
      simp [hr] at hg
    · rw [List.find?_cons_of_neg (by simpa using ha)]
      exact ih

/-- A command that is no re-execution, after settling. -/
theorem grows_findCmd (h : Grows c d) {r : Ref} {m : Cmd} (hm : findCmd c r = some m) (hr : m.redo = none) :
    ∃ x, findCmd d r = some x ∧ CmdGrows m x := (cmdsGrow_find (h r.q).cmds r.i).1 m hm hr

theorem grows_findCmd_none (h : Grows c d) {r : Ref} (hm : findCmd c r = none) : findCmd d r = none :=
  (cmdsGrow_find (h r.q).cmds r.i).2 hm

theorem find_map (l : List Cmd) (i : Nat) (f : Cmd → Cmd) (hf : ∀ m, (f m).idx = m.idx) :
    (l.map fun m => if m.idx = i then f m else m).find? (fun m => decide (m.idx = i)) =
      (l.find? fun m => decide (m.idx = i)).map f := by
  induction l with
  | nil => rfl
  | cons a l ih =>
    by_cases ha : a.idx = i
    · simp [ha, hf]
    · simpa [ha] using ih

/-- The command just changed. -/
theorem findCmd_modCmd (r : Ref) (f : Cmd → Cmd) (c : Ctl) (hf : ∀ m, (f m).idx = m.idx) :
    findCmd (modCmd r f c) r = (findCmd c r).map f := by
  simp only [findCmd, modCmd, getQ_modQ]
  exact find_map _ _ _ hf

/-! ### The operations of settling -/

theorem signal_queues (p : Part) (s a : Nat) (c : Ctl) : (signal p s a c).queues = c.queues := by
  unfold signal; dsimp only; split <;> rfl

theorem look_map {β : Type} (dv : β) (g : β → β) (hg : g dv = dv) (k : Nat) (m : SMap β) :
    look dv k (m.map fun e => (e.1, g e.2)) = g (look dv k m) := by
  induction m with
  | nil => simp [hg]
  | cons e m ih =>
    simp only [List.map_cons, look]
    split
    · rfl
    · exact ih

theorem forget_grows (r : Ref) (c : Ctl) : Grows c (forget r c) := fun n => by
  let g : Queue → Queue := fun q => { q with
    spec := q.spec.filter (fun x => x ≠ r)
    cmds := q.cmds.map fun m =>
      { m with parents := m.parents.filter (fun x => x ≠ r), exportOn := m.exportOn.filter (fun x => x ≠ r) } }
  have : getQ (forget r c) n = g (getQ c n) := look_map (dv := ({} : Queue)) g rfl n c.queues
  rw [this]
  exact ⟨rfl, rfl, rfl, rfl, rfl, rfl, rfl, rfl, cmdsGrow_map _ _ fun m _ =>
    ⟨rfl, rfl, rfl, rfl, rfl, rfl, rfl, .inl rfl⟩⟩

theorem applyDone_grows (p : Part) (r : Ref) (m : Cmd) (c : Ctl) : Grows c (applyDone p r m c) := by
  have h1 : Grows c (modCmd r (fun x => { x with doneSig := .applied }) (signal p (fld m.desc 32 15) 1 c)) :=
    grows_trans (grows_of_eq (signal_queues p _ _ c)) (modCmd_grows _ _ _ fun m _ _ =>
      ⟨rfl, rfl, rfl, rfl, rfl, rfl, rfl, .inl rfl⟩)
  unfold applyDone
  dsimp only
  split
  · exact h1
  · exact grows_trans h1 (grows_of_eq rfl)

theorem dropReaders_queues (xs : List Nat) (c : Ctl) : (dropReaders xs c).queues = c.queues := by
  induction xs generalizing c with
  | nil => rfl
  | cons x xs ih => exact ih _

theorem releaseWork_grows (r : Ref) (c : Ctl) : Grows c (releaseWork r c) := by
  unfold releaseWork
  split
  · split
    · exact grows_refl c
    · exact grows_trans (grows_of_eq (dropReaders_queues _ c)) (modCmd_grows _ _ _ fun m _ _ =>
        ⟨rfl, rfl, rfl, rfl, rfl, rfl, rfl, .inl rfl⟩)
  · exact grows_refl c

theorem releaseHalted_queues (b : Nat) (r : Ref) (c : Ctl) : (releaseHalted b r c).queues = c.queues := by
  unfold releaseHalted
  split
  · exact dropReaders_queues _ c
  · rfl

theorem resolve_grows (r : Ref) (s t : Nat) (b : Bool) (c : Ctl) : Grows c (resolve r s t b c) := by
  unfold resolve
  split
  · exact grows_refl c
  · split
    · exact grows_refl c
    · next m _ _ =>
      dsimp only
      have h1 : Grows c (if s = 3 then releaseHalted (unitOfDesc m.desc) r c else c) := by
        split
        · exact grows_of_eq (releaseHalted_queues _ _ c)
        · exact grows_refl c
      exact grows_trans (grows_trans h1 (releaseWork_grows r _)) (modCmd_grows _ _ _ fun m _ _ =>
        ⟨rfl, rfl, rfl, rfl, rfl, rfl, rfl, .inr rfl⟩)

theorem commit_grows (p : Part) (r : Ref) (c : Ctl) : Grows c (commit p r c) := by
  unfold commit
  split
  · exact grows_refl c
  · next m _ =>
    have h1 : Grows c (modCmd r (fun x => { x with committed := true }) c) :=
      modCmd_grows _ _ _ fun m _ _ => ⟨rfl, rfl, rfl, rfl, rfl, rfl, rfl, .inl rfl⟩
    dsimp only
    split
    · exact grows_trans (grows_trans h1 (applyDone_grows p r _ _)) (forget_grows r _)
    · exact grows_trans h1 (forget_grows r _)

theorem spoil_queues (m : Cmd) (c : Ctl) : (spoil m c).queues = c.queues := by
  have key : ∀ (xs : List (Nat × Nat)) (c : Ctl), (xs.foldl (fun c d => postUndef d.1 d.2 c) c).queues = c.queues := by
    intro xs
    induction xs with
    | nil => exact fun _ => rfl
    | cons x xs ih => exact fun c => ih _
  exact key _ c

theorem settleCmd_grows (p : Part) (r : Ref) (c : Ctl) : Grows c (settleCmd p r c) := by
  unfold settleCmd
  split
  · exact grows_refl c
  · next m _ =>
    split
    · exact grows_refl c
    · split
      · exact grows_trans (grows_trans (grows_of_eq (spoil_queues m c)) (resolve_grows r 3 0 true _))
          (modQ_grows _ _ _ ⟨rfl, rfl, rfl, rfl, rfl, rfl, rfl, rfl, cmdsGrow_refl _⟩)
      · split
        · exact grows_refl c
        · split
          · exact commit_grows p r c
          · split
            · exact applyDone_grows p r m c
            · exact grows_refl c

theorem foldl_grows {α : Type} (f : Ctl → α → Ctl) (xs : List α) (hf : ∀ c x, Grows c (f c x)) (c : Ctl) :
    Grows c (xs.foldl f c) := by
  induction xs generalizing c with
  | nil => exact grows_refl c
  | cons x xs ih => exact grows_trans (hf c x) (ih _)

theorem settleN_grows (p : Part) (n : Nat) (c : Ctl) : Grows c (settleN p n c) := by
  induction n generalizing c with
  | zero => exact grows_refl c
  | succ n ih => exact grows_trans (foldl_grows _ _ (fun c _ => settleCmd_grows p _ c) c) (ih _)

theorem sweepAppends_queues (p : Part) (c : Ctl) : (sweepAppends p c).queues = c.queues :=
  (releaseAll_same (p := p) _ { c with appends := c.appends.filter fun a => !appendEnded c a }).2.1

theorem sweepRedo_grows (c : Ctl) : Grows c (sweepRedo c) := fun n => by
  let g : Queue → Queue := fun q => { q with cmds := q.cmds.filter fun m => !(m.redo.isSome && decide (m.stage = .done)) }
  have : getQ (sweepRedo c) n = g (getQ c n) := look_map (dv := ({} : Queue)) g rfl n c.queues
  rw [this]
  refine ⟨rfl, rfl, rfl, rfl, rfl, rfl, rfl, rfl, cmdsGrow_filter _ _ fun m _ h => ?_⟩
  simp only [Bool.not_eq_false', Bool.and_eq_true] at h
  exact h.1

theorem countLayer_queues (p : Part) (cl b : Nat) (i : Bool) (c : Ctl) : (countLayer p cl b i c).queues = c.queues := by
  have key : ∀ (q : Prop) [Decidable q] (x y : Ctl), x.queues = c.queues → y.queues = c.queues →
      (if q then x else y).queues = c.queues := fun q _ x y hx hy => by split <;> assumption
  unfold countLayer
  dsimp only
  have h1 := key ((look {} b c.safety.suspects).suspect = true) (modSafety (fun s =>
    { s with suspects := tweak {} b (fun x => { x with layers := x.layers ++ [cl] }) s.suspects }) c) c rfl rfl
  exact key _ _ _ h1 (key _ _ _ h1 h1)

theorem foldl_queues {α : Type} (f : Ctl → α → Ctl) (xs : List α) (hf : ∀ c x, (f c x).queues = c.queues) (c : Ctl) :
    (xs.foldl f c).queues = c.queues := by
  induction xs generalizing c with
  | nil => rfl
  | cons x xs ih => exact (ih _).trans (hf c x)

theorem countLayers_queues (p : Part) (q n : Nat) (c : Ctl) : (countLayers p q n c).queues = c.queues := by
  unfold countLayers
  refine foldl_queues _ _ (fun c b => ?_) c
  dsimp only
  split
  · rfl
  · exact countLayer_queues ..

theorem clearLayer_queues (q n : Nat) (c : Ctl) : (clearLayer q n c).queues = c.queues := by
  unfold clearLayer
  exact modSched_queues ..

theorem passMark_queues (p : Part) (q n : Nat) (c : Ctl) : (passMark p q n c).queues = c.queues := by
  unfold passMark
  rw [clearLayer_queues, countLayers_queues]

theorem passMarks_grows (p : Part) (q : Nat) (c : Ctl) : Grows c (passMarks p q c) := by
  unfold passMarks
  dsimp only
  split
  · exact grows_refl c
  · refine foldl_grows _ _ (fun c m => ?_) c
    exact grows_trans (modCmd_grows ⟨q, m.idx⟩ (fun x => { x with phase := 1 }) c fun m _ _ => ⟨rfl, rfl, rfl, rfl, rfl, rfl, rfl, .inl rfl⟩)
      (grows_of_eq (passMark_queues p q m.layer _))

theorem setResident_queues (p : Part) (isle : Nat) (xs : List Nat) (c : Ctl) : (setResident p isle xs c).queues = c.queues := by
  unfold setResident
  dsimp only
  refine (foldl_queues _ xs ?_ _).trans ((foldl_queues _ _ ?_ _).trans (modSched_queues _ c)) <;> exact fun _ _ => rfl

theorem freeIdle_queues (p : Part) (c : Ctl) : (freeIdle p c).queues = c.queues :=
by
  unfold freeIdle
  refine foldl_queues _ _ (fun c i => ?_) c
  dsimp only
  split
  · rfl
  · exact setResident_queues ..

theorem becomeReady_queues (p : Part) (u cl : Nat) (c : Ctl) : (becomeReady p u cl c).queues = c.queues := by
  obtain ⟨v, hv⟩ := becomeReady_same p u cl c
  rw [hv]; rfl

theorem endDepends_grows (p : Part) (r : Ref) (c : Ctl) : Grows c (endDepends p r c) := by
  unfold endDepends
  split
  · exact grows_trans (grows_of_eq rfl) (modCmd_grows _ _ _ fun m _ _ => ⟨rfl, rfl, rfl, rfl, rfl, rfl, rfl, .inl rfl⟩)
  · exact grows_refl c

theorem latchQ_grows (p : Part) (q : Nat) (c : Ctl) : Grows c (latchQ p q c) := by
  unfold latchQ
  split
  · exact grows_refl c
  · next m _ =>
    split
    · exact grows_refl c
    · have key : ∀ (b : Bool) (o : Option Nat), Grows c (match b, o with
          | true, some un => becomeReady p un (getQ c q).ctx.client c
          | _, _ => c) := by
        intro b o
        split
        · exact grows_of_eq (becomeReady_queues _ _ _ c)
        · exact grows_refl c
      have ends : ∀ (b : Bool) (e : Ctl), Grows c e → Grows c (if b = true then endDepends p ⟨q, m.idx⟩ e else e) := by
        intro b e he
        split
        · exact grows_trans he (endDepends_grows p _ e)
        · exact he
      exact grows_trans (ends _ _ (key _ _)) (modCmd_grows _ _ _ fun m _ _ => ⟨rfl, rfl, rfl, rfl, rfl, rfl, rfl, .inl rfl⟩)

/-- Settling, as every queue sees it. -/
theorem settle_grows (p : Part) (c : Ctl) : Grows c (settle p c) :=
  grows_trans (settleN_grows p _ c) (grows_trans (grows_of_eq (sweepAppends_queues p _)) (grows_trans (sweepRedo_grows _)
    (grows_trans (foldl_grows (fun c (e : Nat × Queue) => passMarks p e.1 c) _ (fun c e => passMarks_grows p e.1 c) _)
      (grows_trans (foldl_grows (fun c (e : Nat × Queue) => latchQ p e.1 c) _ (fun c e => latchQ_grows p e.1 c) _)
        (grows_of_eq (freeIdle_queues p _))))))

end Sys2Proof.Machine
end

