-- ==== Sys2Proof/WellFormed.lean ====
section
/-! DEFINITION. Well-formed commands: each operand lies in the range that the spec gives the thing it names. The
meanings are total: a command that is not well-formed acts as a command for a thing that does not exist. -/

namespace Sys2Proof

/-- A queue number, or that of the re-executions of a client's abandoned layers on a block (10 R287, 11 R328), and an
index. -/
def Ref.wf (r : Ref) : Bool := decide (r.q < 65536 + 32 * 256) && decide (r.i < 65536)

/-- A cell of the 16 × 16 array of a block (03 R108), a byte of the device address space (12 R341), or a lane group
(15 R438). -/
def Upset.wf : Upset → Bool
  | .none => true
  | .cell _ x y => decide (x < 16) && decide (y < 16)
  | .mem _ a => decide (a < 2 ^ 54)
  | .acc _ => true
  | .path g => decide (g < 65536)

/-- The mailbox of a physical function (16 R455, R461). -/
def Path.wf : Path → Bool
  | .mailbox fn => decide (fn = 0) || decide (fn = 9)
  | .can => true
  | .monitor => true

/-- A value of the size given (18 R508). -/
def OdW.wf (w : OdW) : Bool := w.path.wf && decide (w.val < 256 ^ w.size)

/-- An isle, a mask of its blocks and a client (11 R331). -/
def SpillReq.wf : SpillReq → Bool
  | .queued r => r.wf
  | .device client isle mask _ => decide (client < 256) && decide (isle < 8) && decide (mask < 16)

/-- One of the six MACs and a domain number (09 R268, 16 R462). -/
def Gptp.wf (m : Gptp) : Bool := decide (m.mac < 6) && decide (m.domain < 256)

/-- The fields of a heartbeat (16 R472). -/
def Heartbeat.wf (h : Heartbeat) : Bool :=
  decide (h.src < 16) && decide (h.role < 256) && decide (h.safety < 256) && decide (h.timeState < 256) &&
    decide (h.serial < 2 ^ 32) && decide (h.fenced < 256)

/-- The fields of a flit (16 R469). -/
def Flit.wf (f : Flit) : Bool :=
  decide (f.dest < 16) && decide (f.src < 16) && decide (f.hops < 16) && decide (f.rxCh < 32) && decide (f.txCh < 32) &&
    decide (f.msgSeq < 65536) && decide (1 ≤ f.payload.length) && decide (f.payload.length ≤ 240)

/-- A causeway ID (16 R469, R475). -/
def Member.wf (m : Member) : Bool := decide (m.id < 16)

/-- A checker that some variant has (14 R419). -/
def Checker.wf : Checker → Bool
  | .cells b => decide (b < 32)
  | .sigBlock b => decide (b < 32)
  | .sigHalf h => decide (h < 2)
  | .scratch b => decide (b < 32)
  | .lagoon i => decide (i < 8)
  | .dram h ch => decide (h < 2) && decide (ch < 12)
  | .comparator => true
  | .outputVoter => true
  | .reflexVoter => true
  | .clusterSram k => decide (k < 3)

/-- An output names a FIFO or a pair (14 R395). -/
def CoreVal.wf : CoreVal → Bool
  | .crossing _ => true
  | .fifo f _ _ => decide (f < 1024)
  | .grant pair => decide (pair < 32768)
  | .safeRequest => true
  | .checkpoint _ => true

/-- An input of the cluster names a FIFO that exists. -/
def CoreIn.wf : CoreIn → Bool
  | .crossing _ => true
  | .fifo f => decide (f < 1024)

/-- An MSI-X write of function `fn` names a vector that it has: 16 of a physical function, 4 of a virtual one; the
second physical function is 9. -/
def MsixWrite.wf (fn : Nat) : MsixWrite → Bool
  | .none => true
  | .control _ _ => true
  | .entry vector addr data _ =>
    decide (vector < if fn = 0 ∨ fn = 9 then 16 else 4) && decide (addr < 2 ^ 64) && decide (data < 2 ^ 32)

/-- A block or an isle (15 R432). -/
def Collector.wf : Collector → Bool
  | .block b => decide (b < 32)
  | .isle i => decide (i < 8)

/-- One of the three lanes (14 R424). -/
def Lanes.wf : Lanes → Bool
  | .agree => true
  | .outvoted lane => decide (lane < 3)
  | .differ => true

/-- A device function and a register slot of one of its regions (10 R289, R295, R305). -/
def slotWf (fn slot : Nat) : Bool := decide (fn ≤ 16) && decide (slot < 65536)

/-- A CSI-2 port and virtual channel (08 R237). -/
def csiWf (port vc : Nat) : Bool := decide (port < 4) && decide (vc < 16)

/-- A byte of the device address space (12 R341). -/
def byteAddrWf (a : Nat) : Bool := decide (a < 2 ^ 54)

/-- A command is well-formed. -/
def Instr.wf : Instr → Bool
  | .mxOuter r u | .mxDrain r u | .mxConv r u | .mxPool r u | .atScore r u | .atGrad r u | .sgGather r u | .sgScatter r u
  | .sgSegred r u | .sgSort r u | .sgTopk r u | .sgNms r u | .sgAssign r u | .sgMsgpass r u
  | .atAppend r u | .atWalk r u | .atSeqOpen r u | .atSeqClose r u | .atSeqPark r u | .atSeqResume r u | .atSeqRearm r u
  | .atSeqDropOldest r u | .atSeqSetScale r u | .imgProcArm r u | .vdDecodeArm r u | .ptsVoxelArm r u | .dmCopy r u
  | .planarToCi r u | .ciToPlanar r u | .zbtToPlanar r u | .planarToZbt r u | .zbtRebase r u | .phaseInterleave r u
  | .dmReplay r u | .cryHash r u | .cryVerify r u | .cryAttest r u | .atAppendWrite r u => r.wf && u.wf
  | .imgProcStop r | .vdDecodeStop r | .ptsVoxelStop r | .qcNop r | .qcWait r | .qcSignal r | .qcFifoPut r
  | .qcTimestamp r | .commandDone r | .atScoreRecordDone r | .atAppendPublish r | .signatureArrival r => r.wf
  | .dmSpill q u | .dmFill q u => q.wf && u.wf
  | .doorbellTail fn slot tail | .doorbellEnable fn slot tail | .doorbellDisable fn slot tail _ =>
    slotWf fn slot && decide (tail < 65536)
  | .commandFetch q | .commandDispatch q | .commandRetire q => decide (q < 65536 + 32 * 256)
  | .syncSet fn slot _ | .syncAdd fn slot _ | .fifoWrite fn slot _ | .fifoWriteEnd fn slot _ => slotWf fn slot
  | .fifoRead fn slot | .fifoFlush fn slot | .fifoClearOverrun fn slot => slotWf fn slot
  | .odRead p idx sub blk => p.wf && decide (idx < 65536) && decide (sub < 256) && decide (blk < 64)
  | .odWrite idx sub w => decide (idx < 65536) && decide (sub < 256) && w.wf
  | .fusionTimeNowRead p => p.wf
  | .arithEventFlagsWrite w | .sgEventFlagsWrite w | .journalReadIndexWrite w | .timeStepPermitWrite w | .faultClear w
  | .fenceRequest w | .safeStateRequest w | .fleetGo w | .fwLoad w | .exitSetup w | .enterSetup w | .safetySealWrite w
  | .injectArm w | .twinTakeover w | .twinRelease w | .barrierArm w | .barrierGo w | .barrierCalibrate w => w.wf
  | .rollbackLevelWrite w _ | .keyRevokedWrite w _ | .splitModeWrite w _ => w.wf
  | .msgRingDepthWrite n w | .msgHeadWrite n w => decide (n ≤ 16) && w.wf
  | .taskEnableWrite n w | .taskTierWrite n w => decide (n < 64) && w.wf
  | .keyRecompute | .fleetExportDone | .imageVerifyDone | .barrierTimeout | .barrierRelease | .usdoSegmentTimeout
  | .canHeartbeat | .clouxVer | .clouxState | .clouxKeys | .clouxLinks | .clouxSyntaxError | .bypass | .idcode
  | .samplePreload | .extest | .extestPulse | .extestTrain | .clamp | .highz | .debugResume | .debugSingleStep
  | .perst1NAssert | .coldReset | .errorPinsActivate | .dramFillReserveDone | .dramFillDone | .configurationReady
  | .frameBoundary | .ppsOutEdge | .ppsOutReturnLow | .reflexColumn | .replayRecordDelivery | .batchEmitted
  | .faultRecordLogged _ | .safeStateDispatchStop | .safeStateWorkStop | .safeStateReset | .imageReverify
  | .safeStateCoresRestart | .safeStateCheckerTests | .safeStateServiceReady | .activateTableClear | .heartbeatTick
  | .perst1NDeassert | .valueWrap => true
  | .imageFetchDone _ => true
  | .pdEnableOn p d | .pdEnableOff p d => p.wf && decide (d < 48)
  | .shutDownBegin d | .shutDownComplete d | .powerUpComplete d => decide (d < 48)
  | .setupStateReached cores => decide (cores < 8)
  | .barrierArmReceived id => decide (id < 16)
  | .barrierGoReceived port | .cwFlitCrcFail port | .cwPortLoss port => decide (port < 4)
  | .barrierCalibrationDone port _ => decide (port < 4)
  | .nmtResetNode n | .nmtStop n | .nmtStartRemoteNode n | .nmtEnterPreOperational n | .nmtResetCommunication n =>
    decide (n < 128)
  | .clouxLog n => decide (n < 2 ^ 32)
  | .clouxMemR addr n => byteAddrWf addr && decide (n < 2 ^ 32)
  | .debugHalt a b c => decide (a < 2 ^ 64) && decide (b < 2 ^ 64) && decide (c < 2 ^ 64)
  | .debugRegisterWrite reg _ => decide (reg < 4096)
  | .debugMemoryWrite addr _ => decide (addr < 2 ^ 20)
  | .debugBreakpointSet addr | .debugBreakpointClear addr => decide (addr < 2 ^ 64)
  | .breakpointHit addr count => decide (addr < 2 ^ 64) && decide (count < 2 ^ 64)
  | .safetyTaskWindow xs => xs.all CoreIn.wf
  | .configurationRequest fn x => decide (fn ≤ 16) && x.wf fn
  | .functionLevelReset fn => decide (fn ≤ 16)
  | .dlDown link => decide (link < 2)
  | .dlUp link speed width => decide (link < 2) && decide (speed < 16) && decide (width < 64)
  | .bar2Write fn off bytes => decide (fn ≤ 16) && byteAddrWf off && decide (bytes.length ≤ 4096)
  | .barMiss fn _ off _ => decide (fn ≤ 16) && byteAddrWf off
  | .coldStart _ _ _ => true
  | .dramTrainingDone a b density _ => decide (a ≤ 12) && decide (b ≤ 12) && decide (density < 256)
  | .arrayBootSelfTestDone maps unrepairable =>
    decide (maps.length ≤ 32) && maps.all (fun x => decide (x < 2 ^ 32)) && decide (unrepairable < 2 ^ 32)
  | .powerGoodLoss rail mv | .railOutOfRange rail mv => decide (rail < 8) && decide (mv < 65536)
  | .pllLossOfLock pll => decide (pll < 256)
  | .junctionOverTemperature t | .thermalTrip t | .mclkDerate t | .mclkRestore t => decide (-32768 ≤ t) && decide (t < 32768)
  | .syncMessage m | .followUp m => m.wf
  | .announce mac domain _ steps => decide (mac < 6) && decide (domain < 256) && decide (steps < 65536)
  | .pdelayReqSend mac => decide (mac < 6)
  | .pdelayReqReceived mac _ => decide (mac < 6)
  | .pdelayRespReceived mac _ => decide (mac < 6)
  | .syncLossTimeout t => decide (t < 2)
  | .ppsInEdge _ => true
  | .csi2FrameStart port vc num _ _ => csiWf port vc && decide (num < 65536)
  | .csi2LongPacket port vc dtype payload _ _ => csiWf port vc && decide (dtype < 64) && decide (payload.length < 65536)
  | .csi2FrameEnd port vc num _ => csiWf port vc && decide (num < 65536)
  | .imgSamplePresent n _ => decide (n < 64)
  | .imgDecodedPicture n => decide (n < 64)
  | .ethernetFrameReceived mac _ _ _ => decide (mac < 6)
  | .rtpPacket n | .vdPictureOutput n => decide (n < 48)
  | .accessUnitEnd n u _ => decide (n < 48) && decide (u.cropW ≤ 65536) && decide (u.cropH ≤ 65536)
  | .lidarDatagram n | .lidarSampleWritten n => decide (n < 8)
  | .lidarWindowClose n _ => decide (n < 8)
  | .reflexVote l => l.wf
  | .kernelBoundary unit => decide (unit < 64)
  | .taskDeadline n => decide (n < 64)
  | .pageWalkDone block seq li => decide (block < 32) && decide (seq < 4096) && decide (li < 4096)
  | .faultRecordForwarded c _ | .collectorRoom c => c.wf
  | .escalationTimerExpiry i => decide (i < 2 ^ 32)
  | .pairTimeout pair | .thirdEvaluationTimeout pair => decide (pair < 32768)
  | .thirdEvaluationDone pair sigs => decide (pair < 32768) && decide (sigs.length ≤ 2)
  | .checkpoint _ _ _ => true
  | .coreOutput core _ v => decide (core < 3) && v.wf
  | .voteWindowExpiry _ => true
  | .resyncCopyDone core => decide (core < 3)
  | .splitReplayInterval core vals => decide (core < 3) && vals.all CoreVal.wf
  | .observationReplayDone unit _ => decide (unit < 64)
  | .observationReplaySkip unit => decide (unit < 64)
  | .sampledReplayDone block _ => decide (block < 32)
  | .selfTestSliceStart c | .latentCoverageWarning c => c.wf
  | .selfTestSliceEnd c _ => c.wf
  | .scratchScrub block unit word _ => decide (block < 32) && decide (unit < 32768) && decide (word < 8)
  | .lagoonScrub isle line word _ => decide (isle < 8) && decide (line < 8192) && decide (word < 128)
  | .dramPatrolScrub unit _ => decide (unit < 2 ^ 48)
  | .dramRefresh half chan bank _ => decide (half < 2) && decide (chan < 12) && decide (bank < 16)
  | .mr4Poll half chan code => decide (half < 2) && decide (chan < 12) && decide (code < 32)
  | .heartbeatReceived h => h.wf
  | .cwFlitReceived port f => decide (port < 4) && f.wf
  | .cwTrainingDone port peer => decide (port < 4) && peer.wf
  | .linkStateFlit port peer members => decide (port < 4) && peer.wf && members.all Member.wf
  | .macLinkChange mac _ => decide (mac < 6)
  | .transmissionSend chan => decide (chan < 32)

end Sys2Proof
end

