-- ==== Sys2Proof/Tests/Slice0.lean ====
section
/-! SUPPORT. Tests: for every clause of the statements of Certificates/Slice0 a small state and operands that
meet its hypotheses together, most with an effect that the spec gives checked beside them; for every check of
WellFormed a term that it refuses. -/

namespace Sys2Proof.Tests

open Sys2Proof Sys2Proof.Machine

set_option Elab.async false

/-- The state that a command answers has a property. -/
def after (i : Instr) (s : State) (p : State → Bool) : Bool :=
  match exec i s with
  | .next t => p t
  | _ => false

/-- A device in service after its first exit from setup, all domains on, 12 channels of 32 Gbit in each half. -/
def up : Ctl :=
  { boot := { started := true, cfgReady := true, trained := true, reserveFilled := true, filled := true, arrays := true,
              fetched := true, stage := .service, everService := true }
    od := [(odKey 0x2500 1, 12), (odKey 0x2500 2, 32)]
    power := { pd := (List.range 48).map fun d => (d, .on) }
    safety := { mode := .inService } }

/-- Entries of the dictionary, stored and in effect: index, subindex, value. -/
def odd (l : List (Nat × Nat × Nat)) (c : Ctl) : Ctl :=
  l.foldl (fun c e => { c with od := stow (odDefault {} e.1 e.2.1) (odKey e.1 e.2.1) e.2.2 c.od, eff := stow (odDefault {} e.1 e.2.1) (odKey e.1 e.2.1) e.2.2 c.eff }) c

/-- A state with a control state and memory. -/
def st (c : Ctl) (m : Mems := {}) : State := { ctl := c, mems := m }

/-- A descriptor of a class, opcode and target with further fields at their lowest bits. -/
def dsc (cls op target : Nat) (fields : List (Nat × Nat)) : Desc :=
  BitVec.ofNat 512 (fields.foldl (fun a f => a + f.2 * 2 ^ f.1) (op + 64 * cls + 512 * target))

/-- Device memory that holds little-endian numbers of a size at addresses, in rising order. -/
def ram (l : List (Nat × Nat × Nat)) : List Host.Cell :=
  l.flatMap fun e => ((leBytes e.2.1 e.2.2).zipIdx.map fun b => (e.1 + b.2, b.1)).filter fun c => c.2 ≠ 0

/-- Host memory, scratch or lagoon, zeros included. -/
def hostRam (l : List (Nat × Nat × Nat)) : List Host.Cell :=
  l.flatMap fun e => (leBytes e.2.1 e.2.2).zipIdx.map fun b => (e.1 + b.2, b.1)

/-- An enabled queue of a class that serves client 0 from device memory, with a ring of 16 at 0x10000 and
completions at 0x20000. -/
def queue (cls : Nat) (cmds : List Cmd) : Queue :=
  { state := .enabled
    tail := cmds.length
    head := cmds.length
    ctx := { ringAddr := 0x400, cplAddr := 0x800, depthLog2 := 4, cls := cls }
    cmds := cmds }

/-- A device in service whose queue 0 holds commands. -/
def upQ (cls : Nat) (cmds : List Cmd) : Ctl := { up with queues := [(0, queue cls cmds)] }

/-- A device in service whose unit `u` runs client 0, with the commands of queue 0. -/
def runs (u cls : Nat) (cmds : List Cmd) : Ctl := { upQ cls cmds with sched := { running := [(u, 1)] } }

/-- The first command of queue 0. -/
def r0 : Ref := ⟨0, 0⟩

/-- A dispatched command. -/
def cmd (d : Desc) : Cmd := { desc := d, stage := .dispatched }

/-- A number written to an entry of the dictionary, in its size, through the mailbox of function 0. -/
def wr (idx sub v : Nat) : OdW := ⟨.mailbox 0, v, (odAccess idx sub).2⟩

/-- Whether a dictionary write is accepted: the statements' Accepted, as a test. -/
def accepts (s : State) (idx sub : Nat) (w : OdW) : Bool :=
  reachable s.ctl w.path && (decide (w.path ≠ .monitor) || pastBoot s.ctl) &&
    decide (writeCheck s.view s.ctl w.path idx sub w.val w.size = none)

/-- That test says what the statements' hypothesis says. -/
theorem accepted_of_accepts {s : State} {idx sub : Nat} {w : OdW} (h : accepts s idx sub w = true) : Accepted s idx sub w := by
  unfold accepts at h
  simp only [Bool.and_eq_true, Bool.or_eq_true, decide_eq_true_eq, ne_eq] at h
  exact ⟨h.1.1, fun e => h.1.2.resolve_left (fun n => n e), h.2⟩

/-- The statements' hypotheses Undisturbed, Turn, NoDeferred, Prompt, BoundaryAhead and Settled, as tests. -/
def undisturbed (s : State) : Bool := !s.ctl.boot.testActive && s.mems.poison.isEmpty
/-- See `undisturbed`. -/
def turn (s : State) (cls op : Nat) (m : Cmd) : Bool :=
  decide (ready s.ctl ⟨0, 0⟩ cls op = some m) && decide (m.status = 0) && !m.committed && decide (m.redo = none) &&
    (getQ s.ctl 0).cmds.all fun k => decide (k.idx ≠ 0) || decide (k = m)
/-- See `undisturbed`. -/
def noDeferred (s : State) : Bool := (allCmds s.ctl).all fun e => decide (e.2.doneSig ≠ .deferred)
/-- See `undisturbed`. -/
def prompt (s : State) (m : Cmd) : Bool :=
  !signalsDone m.desc || (m.parents.isEmpty && decide ((recorded s.ctl (fld m.desc 32 15)).length < 4))
/-- See `undisturbed`. -/
def aheadOf (t : Time) : Bool := decide (t.period = 0) || decide (fullTime t < t.boundary)
/-- See `undisturbed`. -/
def settled (s : State) : Bool :=
  ((allCmds s.ctl).all fun e => decide (e.2.status ≠ 0) || e.2.committed || !anyFailed s.ctl (e.2.parents ++ e.2.exportOn)) &&
    s.ctl.appends.all fun a => !appendEnded s.ctl a

/-- Each says what the hypothesis of its name says. -/
theorem undisturbed_of {s : State} (h : undisturbed s = true) : Undisturbed s := by
  simpa [undisturbed, Undisturbed] using h
/-- See `undisturbed_of`. -/
theorem turn_of {s : State} {cls op : Nat} {m : Cmd} (h : turn s cls op m = true) : Turn s ⟨0, 0⟩ cls op m := by
  simp only [turn, Bool.and_eq_true, decide_eq_true_eq, Bool.not_eq_true', List.all_eq_true, Bool.or_eq_true] at h
  exact ⟨h.1.1.1.1, h.1.1.1.2, h.1.1.2, h.1.2, fun k hk e => (h.2 k hk).resolve_left (fun n => n e)⟩
/-- See `undisturbed_of`. -/
theorem noDeferred_of {s : State} (h : noDeferred s = true) : NoDeferred s := by
  simpa [noDeferred, NoDeferred] using h
/-- See `undisturbed_of`. -/
theorem prompt_of {s : State} {m : Cmd} (h : prompt s m = true) : Prompt s m := by
  intro hs
  simp only [prompt, hs, Bool.not_true, Bool.false_or, Bool.and_eq_true, List.isEmpty_iff, decide_eq_true_eq] at h
  exact ⟨h.1, .inl h.2⟩
/-- See `undisturbed_of`. -/
theorem aheadOf_of {t : Time} (h : aheadOf t = true) : BoundaryAhead t := by
  intro hp
  simpa [aheadOf, hp] using h
/-- See `undisturbed_of`. -/
theorem settled_of {s : State} (h : settled s = true) : Settled s := by
  simp only [settled, Bool.and_eq_true, List.all_eq_true, Bool.or_eq_true, decide_eq_true_eq, Bool.not_eq_true'] at h
  refine ⟨fun e he hs hc => ?_, h.2⟩
  rcases h.1 e he with (h1 | h1) | h1
  · exact absurd hs h1
  · rw [hc] at h1; cases h1
  · exact h1

/-- The control state of a device in setup. -/
def inSetup : Ctl := { up with boot := { up.boot with stage := .setup }, safety := {} }

/-- Scratch of block 31 from its unit `k` on. -/
def sc (k : Nat) : Nat := scratchBase 31 + 64 * k

/-! ## Steps, reset, queues -/

/-- O1, O2: a step takes the front command. -/
theorem test_step_front : ∃ rest, (State.reset.withFetchWord 0 0).pending = rest ∧
    ({ State.reset with pending := [.syncAdd 0 5 3#64] } : State).pending = .syncAdd 0 5 3#64 :: rest := ⟨[], rfl, rfl⟩

/-- O3: before and after the cold start, no transition being due. -/
theorem test_idle : State.reset.pending = [] ∧ State.reset.ctl.boot.started = false ∧ (st up).pending = [] ∧
    (st up).ctl.boot.started = true ∧
    timeMove (st up).part (modTime (fun t => advance (increment t) t) (st up).ctl.fresh) = none ∧
    (match step (st up) with
     | .next t => t.ctl.time.value == 131072
     | _ => false) = true := by decide +kernel

/-- O5, O6: a step from a state with canonical memory. -/
theorem test_step_next : Memory.wf (st up).mems = true ∧
    (match step { st up with pending := [.syncSet 0 1 9#64] } with
     | .next t => getSync t.ctl 1 == 9
     | _ => false) = true := by decide +kernel

/-- O7: a command that programs no fuses, and one that does. -/
theorem test_programs : programsFuses (.commandFetch 0) = false ∧ programsFuses (.odWrite 0x2A00 8 (wr 0x2A00 8 1)) = true ∧
    after (.commandFetch 0) (st up) (fun t => t.fuses == {}) = true := by decide +kernel

/-- A queue context: ring at 0x10000, completions at 0x20000, depth 2^4, class 0, client 0. -/
def qtable : List Host.Cell := ram [(0x0, 8, 0x400), (0x8, 8, 0x800), (0x10, 2, 4)]

/-- O9, TAIL: the whole ring is offered. -/
theorem test_doorbell_tail :
    let s := st (upQ 0 [])
    s.ctl.boot.cfgReady = true ∧ serving s.ctl = true ∧ slotOf s.part s.ctl 0 .queue 0 = some 0 ∧
      (getQ s.ctl 0).state = .enabled ∧ tailOk (getQ s.ctl 0) (16 % 65536) = true ∧ tailOk (getQ s.ctl 0) 17 = false ∧
      after (.doorbellTail 0 0 16) s (fun t => (getQ t.ctl 0).tail == 16) = true := by decide +kernel

/-- O9, ENABLE: the context as the queue table has it, TAIL at the depth. -/
theorem test_doorbell_enable :
    let s := st up { dev := qtable }
    slotOf s.part s.ctl 0 .queue 0 = some 0 ∧ (getQ s.ctl 0).state = .disabled ∧
      (readCtx s.view s.ctl 0).2 = true ∧ ctxOk s.part s.ctl 0 (readCtx s.view s.ctl 0).1 = true ∧
      16 % 65536 ≤ 2 ^ (readCtx s.view s.ctl 0).1.depthLog2 ∧
      after (.doorbellEnable 0 0 16) s (fun t => (getQ t.ctl 0).ctx == (queue 0 []).ctx) = true := by decide +kernel

/-- O9, DISABLE: a command that is read is dropped; one that is dispatched keeps the queue draining. -/
theorem test_doorbell_disable :
    let s := st (upQ 7 [{ desc := dsc 7 0 0 [] }])
    let u := st (upQ 7 [cmd (dsc 7 0 0 []), { idx := 1 }])
    (getQ s.ctl 0).state = .enabled ∧
      after (.doorbellDisable 0 0 0 false) s (fun t => decide ((getQ t.ctl 0).state = .disabled)) = true ∧
      after (.doorbellDisable 0 0 0 false) u (fun t => decide ((getQ t.ctl 0).state = .draining ∧ (getQ t.ctl 0).cmds.length = 1)) =
        true := by decide +kernel

/-- O10: each way a doorbell is refused. -/
theorem test_doorbell_refused :
    let s := st up
    let u := st (upQ 0 [])
    odVal s.part s.ctl 0x2310 1 = 0 ∧ (getQ s.ctl 0).ctx.client < 256 ∧ slotOf s.part s.ctl 0 .queue 0 = some 0 ∧
      (getQ s.ctl 0).state ≠ .enabled ∧ (readCtx s.view s.ctl 0).2 = false ∧ (getQ u.ctl 0).state ≠ .disabled ∧
      tailOk (getQ u.ctl 0) 17 = false ∧
      after (.doorbellTail 0 0 17) u (fun t => decide ((getQ t.ctl 0).refusedReported = true ∧ odVal t.part t.ctl 0x2401 4 = 1)) =
        true ∧
      after (.doorbellEnable 0 0 0) s (fun t => decide ((getQ t.ctl 0).state = .disabled ∧ odVal t.part t.ctl 0x2410 0xF = 1)) =
        true ∧
      after (.doorbellDisable 0 0 0 false) s (fun t => decide (odVal t.part t.ctl 0x2401 4 = 1)) = true ∧
      after (.doorbellDisable 0 0 0 true) u (fun t => decide (odVal t.part t.ctl 0x2401 4 = 1 ∧ (getQ t.ctl 0).state = .enabled)) =
        true := by decide +kernel

/-- O11: a ring in device memory, and one in host memory. -/
theorem test_fetch :
    let q : Queue := { queue 7 [] with tail := 1 }
    let s := st { up with queues := [(0, q)] } { dev := ram [(0x10000, 2, 0x1C4)] }
    let u := st { up with queues := [(0, { q with ctx := { q.ctx with ringHost := true } })] } { host := hostRam [(0x10000, 64, 0x1C0)] }
    dispatching s.ctl = true ∧ (getQ s.ctl 0).state = .enabled ∧ (getQ s.ctl 0).stopped = false ∧
      (getQ s.ctl 0).head ≠ (getQ s.ctl 0).tail ∧ ahead (getQ s.ctl 0) < 8 ∧ (getQ s.ctl 0).cmds.any Cmd.poisoned = false ∧
      poisonedIn s.mems 0x10000 64 = false ∧
      after (.commandFetch 0) s (fun t => decide (((getQ t.ctl 0).cmds.map Cmd.desc) = [0x1C4#512])) = true ∧
      (getQ u.ctl 0).ctx.ringHost = true ∧
      after (.commandFetch 0) u (fun t => decide ((getQ t.ctl 0).head = 1)) = true := by decide +kernel

/-- O11: a poisoned slot. -/
theorem test_fetch_poisoned :
    let s := st { up with queues := [(0, { queue 7 [] with tail := 1 })] } { poison := [0x10000] }
    (getQ s.ctl 0).ctx.ringHost = false ∧ poisonedIn s.mems 0x10000 64 = true ∧ (getQ s.ctl 0).cmds.any Cmd.poisoned = false ∧
      after (.commandFetch 0) s (fun t => decide ((getQ t.ctl 0).cmds.map Cmd.stage = [.stopped] ∧ (getQ t.ctl 0).head = 1)) =
        true := by decide +kernel

/-- The hypotheses of O12 on queue 0 and its head command. -/
def mayDispatch (s : State) (m : Cmd) : Bool :=
  let d := m.desc
  let q := getQ s.ctl 0
  decide (dispatchable s.part s.ctl 0 = some m) && dispatching s.ctl && decide (frontCheck s.part s.ctl 0 d = none) &&
    !domainWaits s.part s.ctl d && (m.parents ++ q.spec ++ m.exportOn).isEmpty && !s.ctl.boot.testActive &&
    (match (match isleOf d with
        | some i => loadContext s.part i q.ctx.client s.ctl.fresh
        | none => some s.ctl.fresh) with
      | none => false
      | some c1 => match takeUnit s.part c1 d q.ctx.client with
        | none => false
        | some c2 => servedFirst s.part c2 0 m && (match isleOf d with
          | none => true
          | some i => !blockStopped c2 (dTarget d) && !evicting c2 i && windowReady c2 q.ctx.client (dTarget d)))

/-- O12: a queue-control command, one for a half and one for a block. -/
theorem test_dispatch :
    let m : Cmd := { desc := dsc 7 0 0 [], waits := 128 }
    let k : Cmd := { desc := dsc 0 0 31 [], waits := 128 }
    let h : Cmd := { desc := dsc 1 0 1 [], waits := 128 }
    let s := st (upQ 7 [m])
    let b := st (upQ 0 [k])
    let g := st (upQ 1 [h])
    mayDispatch s m = true ∧ mayDispatch b k = true ∧ mayDispatch g h = true ∧
      after (.commandDispatch 0) s (fun t => decide ((getQ t.ctl 0).cmds.map Cmd.stage = [.dispatched])) = true ∧
      after (.commandDispatch 0) b (fun t => decide (odVal t.part t.ctl 0x2401 2 = 1)) = true ∧
      after (.commandDispatch 0) g (fun t => decide (odVal t.part t.ctl 0x2401 2 = 1)) = true := by decide +kernel

/-- O13: done, committed, and its done signal of sync object 9 added. -/
theorem test_done :
    let m : Cmd := { desc := dsc 7 0 0 [(31, 1), (32, 9)], stage := .executed }
    let s := st (upQ 7 [m])
    findCmd s.ctl r0 = some m ∧ m.stage = .executed ∧ m.status = 0 ∧ m.parents = [] ∧ m.exportOn = [] ∧ m.sig = .none ∧ m.redo = none ∧ m.committed = false ∧
      signalsDone m.desc = true ∧ noDeferred s = true ∧ prompt s m = true ∧
      after (.commandDone r0) s (fun t => decide (getSync t.ctl 9 = 1 ∧ (getQ t.ctl 0).cmds.map Cmd.committed = [true])) =
        true := by decide +kernel

/-- O14: a record in device memory, the first of an odd pass, and one in host memory. -/
theorem test_retire :
    let m : Cmd := { desc := dsc 7 0 0 [], stage := .done, committed := true, cycles := 3, detail := 0 }
    let s := st (upQ 7 [m])
    let q := queue 7 [{ m with status := 1, detail := 8 }]
    let u := st { up with queues := [(0, { q with ctx := { q.ctx with cplHost := true } })] }
    Memory.wf s.mems = true ∧ (getQ s.ctl 0).cmds = [m] ∧ mayRetire (getQ s.ctl 0) = true ∧ (∀ x ∈ [m], x.redo = none) ∧
      m.disables = false ∧ m.poisoned = false ∧ 0x20000 = 64 * (getQ s.ctl 0).ctx.cplAddr + 16 * (m.idx % 2 ^ 4) ∧
      looseSpans s.part s.ctl = [] ∧ noDeferred s = true ∧
      (getQ s.ctl 0).ctx.cplHost = false ∧
      after (.commandRetire 0) s (fun t => decide (devNat t.mems 0x20000 1 = 1 ∧ (getQ t.ctl 0).retired = 1)) = true ∧
      mayRetire (getQ u.ctl 0) = true ∧ ringSpan s.part s.ctl 0 = (0, 0) ∧
      after (.commandRetire 0) u (fun t => decide ((hostBytes t.mems 0x20000 16).length = 16 ∧ (getQ t.ctl 0).cmds = [])) =
        true := by decide +kernel

/-! ## Queue-control commands, sync objects, FIFOs -/

/-- O15, QC.NOP and QC.WAIT. -/
theorem test_qc_nop_wait :
    let s := st (upQ 7 [cmd (dsc 7 0 0 [])])
    let u := st (upQ 7 [cmd (dsc 7 1 0 [(384, 3)])])
    turn s 7 0 (cmd (dsc 7 0 0 [])) = true ∧ turn u 7 1 (cmd (dsc 7 1 0 [(384, 3)])) = true ∧
      after (.qcNop r0) s (fun t => (getQ t.ctl 0).marked) = true ∧
      after (.qcWait r0) u (fun t => decide ((getQ t.ctl 0).cmds.map Cmd.stage = [.done])) = true := by decide +kernel

/-- O15, QC.SIGNAL: two values, the second to a counter that saturates. -/
theorem test_qc_signal :
    let m := cmd (dsc 7 2 0 [(384, 1), (64, 5), (80, 6), (128, 7), (192, 2 ^ 64 - 1)])
    let s := st { upQ 7 [m] with syncs := [(6, 4)] }
    turn s 7 2 m = true ∧ noDeferred s = true ∧ prompt s m = true ∧
      after (.qcSignal r0) s (fun t => decide (getSync t.ctl 5 = 7 ∧ getSync t.ctl 6 = 2 ^ 64 - 1)) = true := by decide +kernel

/-- O15, QC.FIFO_PUT: two words, the last with END. -/
theorem test_qc_fifo_put :
    let m := cmd (dsc 7 3 0 [(64, 1023), (74, 2), (77, 1), (128, 7), (192, 8)])
    let s := st (odd [(0x2437, 128, 2)] (upQ 7 [m]))
    turn s 7 3 m = true ∧ 1023 = fld m.desc 64 10 ∧ 2 = clampN 1 5 (fld m.desc 74 3) ∧
      (fifoAgents s.part s.ctl 1023).1 = 2 ∧ (getFifo s.ctl 1023).words.length + 2 ≤ 64 ∧
      after (.qcFifoPut r0) s (fun t => decide ((getFifo t.ctl 1023).words = [(7#64, false), (8#64, true)])) =
        true := by decide +kernel

/-- O15, QC.TIMESTAMP. -/
theorem test_qc_timestamp :
    let m := cmd (dsc 7 4 0 [(64, 0x100)])
    let s := st { upQ 7 [m] with time := { value := 0x123456, epoch := 9 } }
    turn s 7 4 m = true ∧ spanOff m.off (0x4000, 12) = false ∧ 0x4000 = 64 * fld m.desc 64 48 ∧ inDevice s.part s.ctl 0x4000 12 = true ∧
      Memory.wf s.mems = true ∧ looseSpans s.part s.ctl = [] ∧
      after (.qcTimestamp r0) s (fun t => decide (devNat t.mems 0x4000 8 = 0x123456 ∧ devNat t.mems 0x4008 4 = 9)) =
        true := by decide +kernel

/-- O16: ADD saturates. -/
theorem test_sync :
    let s := st { up with syncs := [(32767, 5)] }
    slotOf s.part s.ctl 0 .sync 32767 = some 32767 ∧ slotOf s.part s.ctl 0 .sync 32768 = none ∧ regionsServed s.ctl = true ∧
      noDeferred s = true ∧
      after (.syncSet 0 32767 2#64) s (fun t => decide (getSync t.ctl 32767 = 2)) = true ∧
      after (.syncAdd 0 32767 (BitVec.ofNat 64 (2 ^ 64 - 1))) s (fun t => decide (getSync t.ctl 32767 = 2 ^ 64 - 1)) =
        true := by decide +kernel

/-- O17: writes to a FIFO with room and to a full one. -/
theorem test_fifo_write :
    let s := st (odd [(0x2430, 1, 0x11)] up)
    let u := st { s.ctl with fifos := [(0, { words := List.replicate 64 (1#64, false) })] }
    slotOf s.part s.ctl 0 .fifo 0 = some 0 ∧ regionsServed s.ctl = true ∧ owner s.part s.ctl .fifo 0 = 0 ∧
      (fifoAgents s.part s.ctl 0) = (1, 1) ∧ (getFifo s.ctl 0).words.length < 64 ∧ 64 ≤ (getFifo u.ctl 0).words.length ∧
      after (.fifoWrite 0 0 5#64) s (fun t => decide ((getFifo t.ctl 0).words = [(5#64, false)])) = true ∧
      after (.fifoWriteEnd 0 0 5#64) s (fun t => decide ((getFifo t.ctl 0).words = [(5#64, true)])) = true ∧
      after (.fifoWrite 0 0 5#64) u (fun t => (getFifo t.ctl 0).overrun) = true := by decide +kernel

/-- O17: reads of a word and of nothing; FLUSH; CLEAR_OVERRUN. -/
theorem test_fifo_read :
    let s := st { odd [(0x2430, 1, 0x11)] up with fifos := [(0, { words := [(9#64, true)], overrun := true })] }
    let u := st { s.ctl with fifos := [] }
    (getFifo s.ctl 0).words = (9#64, true) :: [] ∧ (getFifo u.ctl 0).words = [] ∧
      after (.fifoRead 0 0) s (fun t => decide (t.ctl.out = [.fifoWord 9#64 true true] ∧ (getFifo t.ctl 0).tag = 3)) = true ∧
      after (.fifoRead 0 0) u (fun t => decide (t.ctl.out = [.fifoWord 0 false false])) = true ∧
      after (.fifoFlush 0 0) s (fun t => decide ((getFifo t.ctl 0).words = [] ∧ (getFifo t.ctl 0).overrun = true)) = true ∧
      after (.fifoClearOverrun 0 0) s (fun t => decide ((getFifo t.ctl 0).overrun = false)) = true := by decide +kernel

/-! ## The object dictionary, power, supplies -/

/-- O18: a value of 8 bytes, one longer than 64 bytes (its third block), and an abort. -/
theorem test_read :
    let s := st { up with time := { value := 5, epoch := 6 } }
    let p : Path := .mailbox 0
    reachable s.ctl p = true ∧ ¬ (0x2A10 = 0x2200 ∧ 1 = 1) ∧ (readAnswer s.view s.ctl p 0x2401 4) = .value (leBytes 8 0) ∧
      (readAnswer s.view s.ctl p 0x2A10 1) = .value (List.replicate 133 0) ∧
      (readAnswer s.view s.ctl p 0x2A00 0xFE) = .abort 0x06090011 ∧ pastBoot s.ctl = true ∧
      after (.odRead p 0x2A10 1 2) s (fun t => decide ((getFn t.ctl 0).mailStatus = 2 + 256 * 5)) = true ∧
      after (.odRead p 0x2A00 0xFE 0) s (fun t => decide ((getFn t.ctl 0).mailStatus = 3 + 2 ^ 32 * 0x06090011)) = true ∧
      after (.fusionTimeNowRead p) s (fun t => decide ((getFn t.ctl 0).mailData = leBytes 8 5 ∧ look 0 (pathKey p) t.ctl.time.latched = 6)) =
        true := by decide +kernel

/-- O19: a value beyond the entry's range is clamped. -/
theorem test_write :
    let s := st inSetup
    accepts s 0x2200 3 (wr 0x2200 3 60000) = true ∧ plainEntry 0x2200 3 = true ∧
      after (.odWrite 0x2200 3 (wr 0x2200 3 60000)) s (fun t => decide (odVal t.part t.ctl 0x2200 3 = 50000)) = true := by
  decide +kernel

/-- O20: ones clear, zeros keep. -/
theorem test_flags :
    let s := st (odd [(0x2B00, 2, 7), (0x2B80, 1, 3)] up)
    accepts s 0x2B00 2 (wr 0x2B00 2 5) = true ∧ accepts s 0x2B80 1 (wr 0x2B80 1 1) = true ∧
      after (.arithEventFlagsWrite (wr 0x2B00 2 5)) s (fun t => decide (odVal t.part t.ctl 0x2B00 2 = 2)) = true ∧
      after (.sgEventFlagsWrite (wr 0x2B80 1 1)) s (fun t => decide (odVal t.part t.ctl 0x2B80 1 = 2)) = true := by decide +kernel

/-- O21: a depth of 100 is stored as 64, one of 1 too, 0 disables. -/
theorem test_msg_ring_depth :
    let s := st (odd [(0x2410, 0xD, 9)] up)
    let f := fun v x => after (.msgRingDepthWrite 0 (wr 0x2410 0xA v)) s (fun t => decide (odVal t.part t.ctl 0x2410 0xA = x ∧ odVal t.part t.ctl 0x2410 0xD = 0))
    accepts s 0x2410 0xA (wr 0x2410 0xA 100) = true ∧ accepts s 0x2410 0xA (wr 0x2410 0xA 0) = true ∧
      f 100 64 = true ∧ f 1 64 = true ∧ f 0 0 = true ∧ f 200000 65536 = true ∧
      accepts s 0x2420 0xA (wr 0x2420 0xA 128) = true := by decide +kernel

/-- O21: MsgHead up to MsgTail, ahead of it, and behind. -/
theorem test_msg_head :
    let s := st (odd [(0x2410, 0xC, 4), (0x2410, 0xD, 9)] up)
    let f := fun v x => after (.msgHeadWrite 0 (wr 0x2410 0xC v)) s (fun t => decide (odVal t.part t.ctl 0x2410 0xC = x))
    accepts s 0x2410 0xC (wr 0x2410 0xC 9) = true ∧ odVal s.part s.ctl 0x2310 1 = 0 ∧
      f 9 9 = true ∧ f 10 9 = true ∧ f 3 4 = true := by decide +kernel

/-- O21: JournalReadIndex stops at JournalWriteIndex. -/
theorem test_journal_read_index :
    let s := st (odd [(0x2310, 6, 9)] up)
    accepts s 0x2310 7 (wr 0x2310 7 10) = true ∧
      after (.journalReadIndexWrite (wr 0x2310 7 10)) s (fun t => decide (odVal t.part t.ctl 0x2310 7 = 9)) = true := by
  decide +kernel

/-- O22: TaskEnable from 0 to 1, and to 0. -/
theorem test_task_enable :
    let s := st { odd [(0x247F, 3, 7)] up with syncs := [(7, 40)] }
    let u := st { odd [(0x247F, 2, 1)] up with sched := { tasks := [(63, { misses := 2 })] } }
    accepts s 0x247F 2 (wr 0x247F 2 1) = true ∧ offered 0x247F 2 (wr 0x247F 2 1) ≠ 0 ∧ odVal s.part s.ctl 0x247F 2 = 0 ∧
      accepts u 0x247F 2 (wr 0x247F 2 0) = true ∧ offered 0x247F 2 (wr 0x247F 2 0) = 0 ∧
      after (.taskEnableWrite 63 (wr 0x247F 2 1)) s (fun t => decide ((getTask t.ctl 63).s0 = 40)) = true ∧
      after (.taskEnableWrite 63 (wr 0x247F 2 0)) u (fun t => decide (getTask t.ctl 63 = {})) = true := by decide +kernel

/-- O22: a new tier of an enabled task clears the consecutive misses; of another it does not. -/
theorem test_task_tier :
    let t0 : Sched := { tasks := [(0, { misses := 2, mets := 1 })] }
    let s := st { odd [(0x2440, 2, 1), (0x2440, 7, 2)] up with sched := t0 }
    let u := st { odd [(0x2440, 7, 2)] up with sched := t0 }
    let w := wr 0x2440 0xA 5
    accepts s 0x2440 0xA w = true ∧ 1 = min (offered 0x2440 0xA w) (odVal s.part s.ctl 0x2440 7 - 1) ∧
      1 ≠ odVal s.part s.ctl 0x2440 0xA ∧ 0 = owner s.part s.ctl .client (effVal s.part s.ctl 0x2440 1) ∧
      odVal s.part s.ctl 0x2440 2 = 1 ∧ accepts u 0x2440 0xA w = true ∧ odVal u.part u.ctl 0x2440 2 ≠ 1 ∧
      after (.taskTierWrite 0 w) s (fun t => decide (odVal t.part t.ctl 0x2440 0xA = 1 ∧ (getTask t.ctl 0).misses = 0)) = true ∧
      after (.taskTierWrite 0 w) u (fun t => decide (odVal t.part t.ctl 0x2440 0xA = 1 ∧ (getTask t.ctl 0).misses = 2)) = true := by
  decide +kernel

/-- O23: each fuse. -/
theorem test_fuses :
    let s := st { inSetup with boot := { inSetup.boot with svn := 3 } }
    accepts s 0x2A00 0xD (wr 0x2A00 0xD 3) = true ∧ accepts s 0x2A00 0xE (wr 0x2A00 0xE 0x12) = true ∧
      accepts s 0x2700 8 (wr 0x2700 8 1) = true ∧ s.fuses.splitMode ≠ min 1 (offered 0x2700 8 (wr 0x2700 8 1)) ∧
      s.fuses.splitMode = min 1 (offered 0x2700 8 (wr 0x2700 8 0)) ∧ accepts s 0x2700 8 (wr 0x2700 8 0) = true ∧
      after (.rollbackLevelWrite (wr 0x2A00 0xD 3) true) s (fun t => decide (t.fuses.rollback = 3 ∧ t.fuses.rollbackLeft = 61)) = true ∧
      after (.keyRevokedWrite (wr 0x2A00 0xE 0x12) true) s (fun t => decide (t.fuses.keyRevoked = 2 ∧ t.fuses.revokeLeft = 3)) = true ∧
      after (.splitModeWrite (wr 0x2700 8 1) true) s (fun t => decide (t.fuses.splitMode = 1 ∧ t.fuses.splitLeft = 31)) = true := by
  decide +kernel

/-- O24: ExitSetup, at once and while a power transition is under way; EnterSetup, FwLoad and the seal. -/
theorem test_setup :
    let s := st inSetup
    let u := st up
    let l := st { inSetup with boot := { inSetup.boot with stage := .awaitImage } }
    let x := st { inSetup with power := { pd := [(45, .shuttingDown)] } }
    accepts s 0x2A00 5 (wr 0x2A00 5 1) = true ∧ offered 0x2A00 5 (wr 0x2A00 5 1) ≠ 0 ∧ transitioning s.ctl = false ∧
      accepts x 0x2A00 5 (wr 0x2A00 5 1) = true ∧ transitioning x.ctl = true ∧ aheadOf u.ctl.time = true ∧
      after (.exitSetup (wr 0x2A00 5 1)) x (fun t => t.ctl.boot.exiting) = true ∧
      accepts u 0x2A00 6 (wr 0x2A00 6 1) = true ∧ offered 0x2A00 6 (wr 0x2A00 6 1) ≠ 0 ∧
      accepts l 0x2A00 4 (wr 0x2A00 4 1) = true ∧ offered 0x2A00 4 (wr 0x2A00 4 1) ≠ 0 ∧
      accepts s 0x2A00 7 (wr 0x2A00 7 1) = true ∧ offered 0x2A00 7 (wr 0x2A00 7 1) ≠ 0 ∧
      after (.enterSetup (wr 0x2A00 6 1)) u (fun t => decide (t.ctl.boot.stage = .setup)) = true ∧
      after (.fwLoad (wr 0x2A00 4 1)) l (fun t => decide (t.ctl.boot.stage = .loading)) = true ∧
      after (.safetySealWrite (wr 0x2A00 7 1)) s (fun t => t.ctl.boot.sealed) = true := by decide +kernel

/-- O25: InjectArm of a mechanism that checks the unit, and of one that does not. -/
theorem test_inject :
    let c := { inSetup with boot := { inSetup.boot with testActive := true } }
    let s := st (odd [(0x2880, 1, 4), (0x2880, 2, 31), (0x2880, 5, 2)] c)
    let u := st (odd [(0x2880, 1, 4), (0x2880, 2, 0x2D)] c)
    injectable s.part 4 31 = true ∧ injectable s.part 4 0x2D = false ∧ accepts s 0x2880 6 (wr 0x2880 6 1) = true ∧
      accepts u 0x2880 6 (wr 0x2880 6 1) = true ∧ offered 0x2880 6 (wr 0x2880 6 1) ≠ 0 ∧
      after (.injectArm (wr 0x2880 6 1)) s (fun t => decide (t.ctl.faults.injLeft = 2)) = true ∧
      after (.injectArm (wr 0x2880 6 1)) u (fun t => decide (t.ctl.faults.injLeft = 0)) = true := by decide +kernel

/-- O25: FleetGo with a buffer of the least length, and the twin's triggers. -/
theorem test_triggers :
    let s := st (odd [(0x2890, 1, 0x100), (0x2890, 2, 336), (0x2890, 4, 1)] up)
    accepts s 0x2890 7 (wr 0x2890 7 1) = true ∧ offered 0x2890 7 (wr 0x2890 7 1) ≠ 0 ∧ odVal s.part s.ctl 0x2890 8 ≠ 1 ∧
      0x4000 = 64 * odVal s.part s.ctl 0x2890 1 ∧ 336 = odVal s.part s.ctl 0x2890 2 ∧
      256 + 80 * odVal s.part s.ctl 0x2890 4 ≤ 336 ∧ inDevice s.part s.ctl 0x4000 336 = true ∧ pdOn s.ctl 45 = true ∧
      accepts s 0x2908 4 (wr 0x2908 4 1) = true ∧ accepts s 0x2908 5 (wr 0x2908 5 1) = true ∧
      after (.fleetGo (wr 0x2890 7 1)) s (fun t => decide (odVal t.part t.ctl 0x2890 8 = 1)) = true ∧
      after (.twinTakeover (wr 0x2908 4 1)) s (fun t => t.ctl.links.twin.takeover) = true ∧
      after (.twinRelease (wr 0x2908 5 1)) s (fun t => t.ctl.links.twin.yield) = true := by decide +kernel

/-- O26: an enable of a block whose lagoon is on, and an accepted and a refused disable. -/
theorem test_pd_enable :
    let s := st { odd [(0x2110, 32, 0)] up with power := { pd := up.power.pd.filter fun e => e.1 ≠ 31 } }
    let u := st (upQ 0 [cmd (dsc 0 0 24 [])])
    let w : Nat → OdW := fun v => ⟨.mailbox 0, v, 1⟩
    accepts s 0x2110 32 (w 1) = true ∧ fencedDomain s.ctl 31 = false ∧ s.ctl.boot.everService = true ∧ pdOf s.ctl 31 = .off ∧
      lagoonOf 31 = some 34 ∧ pdOf s.ctl 34 = .on ∧
      after (.pdEnableOn (.mailbox 0) 31) s (fun t => decide (pdOf t.ctl 31 = .poweringUp)) = true ∧
      accepts u 0x2110 48 (w 0) = true ∧ accepts u 0x2110 32 (w 0) = true ∧ refusedOff u.part u.ctl 31 = false ∧ pdOf u.ctl 31 = .on ∧
      after (.pdEnableOff (.mailbox 0) 31) u (fun t => decide (odVal t.part t.ctl 0x2110 32 = 0 ∧ t.ctl.power.wantOff = [31])) = true := by
  decide +kernel

/-- O26: a disable that is refused. -/
theorem test_pd_refused :
    let s := st (upQ 0 [])
    let w : OdW := ⟨.mailbox 0, 0, 1⟩
    accepts s 0x2110 47 w = true ∧ refusedOff s.part s.ctl 46 = true ∧
      after (.pdEnableOff (.mailbox 0) 46) s (fun t => decide (odVal t.part t.ctl 0x2110 47 = 1 ∧ odVal t.part t.ctl 0x2100 3 = 1)) = true := by
  decide +kernel

/-- O27: a shut-down that begins, one of block 31 and one of the lagoon of isle 7 that complete, a power-up. -/
theorem test_transitions :
    let s := st { up with power := { up.power with wantOff := [45] } }
    let c := fun d x => st { up with power := { pd := [(d, x)] } }
    pdOf s.ctl 45 = .on ∧ s.ctl.power.wantOff.contains 45 = true ∧ s.ctl.power.wantOn.contains 45 = false ∧
      offReady s.view s.ctl 45 = true ∧ pdOf (c 38 .shuttingDown).ctl 38 = .shuttingDown ∧ 38 = blockDomain 31 ∧ 39 = lagoonDomain 7 ∧
      pdOf (c 47 .poweringUp).ctl 47 = .poweringUp ∧
      after (.shutDownBegin 45) s (fun t => decide (pdOf t.ctl 45 = .shuttingDown)) = true ∧
      after (.shutDownComplete 38) (c 38 .shuttingDown) (fun t => decide (pdOf t.ctl 38 = .off ∧ t.mems.gens = [(31, 1)])) = true ∧
      after (.shutDownComplete 39) (c 39 .shuttingDown) (fun t => decide (t.mems.gens = [(39, 1)])) = true ∧
      after (.powerUpComplete 47) (c 47 .poweringUp) (fun t => decide (pdOf t.ctl 47 = .on)) = true := by decide +kernel

/-- O27: the last transition before a waiting exit from setup ends. -/
theorem test_exit_waits :
    let s := st { inSetup with boot := { inSetup.boot with exiting := true }, power := { pd := [(45, .poweringUp)] } }
    let u := st { s.ctl with power := { pd := [(45, .shuttingDown)] } }
    s.ctl.safety.mode = .notReady ∧ transitioning (completeOn 45 s.view s.ctl.fresh) = false ∧
      transitioning (completeOff 45 u.view u.ctl.fresh) = false ∧ pdOf u.ctl 45 = .shuttingDown ∧ pdOf s.ctl 45 = .poweringUp := by
  decide +kernel

/-- O28: the first readouts above 115 and below 110 degC, in 1/8 degC. -/
theorem test_derate :
    let s := st up
    let u := st { up with power := { up.power with derated := true } }
    (920 : Int) < 921 ∧ s.ctl.boot.started = true ∧ s.ctl.power.derated = false ∧ (879 : Int) < 880 ∧ u.ctl.power.derated = true ∧
      after (.mclkDerate 921) s (fun t => decide (t.ctl.power.derated = true ∧ odVal t.part t.ctl 0x2100 2 = 1)) = true ∧
      after (.mclkRestore 879) u (fun t => decide (t.ctl.power.derated = false)) = true := by decide +kernel

/-- O28: MECH 23 and the events that discard everything, at their limits. -/
theorem test_rails :
    let s := st up
    railOut 0 700 = true ∧ railOut 0 750 = false ∧ ((railOf 0).map fun l => decide (500 < l.2.2)) = some true ∧
      after (.railOutOfRange 0 700) s (fun t => t.ctl.faults.inbox.any fun r => decide (r.mech = 23)) = true ∧
      after (.pllLossOfLock 0) s (fun t => t.ctl.faults.inbox.any fun r => decide (r.mech = 23)) = true ∧
      after (.junctionOverTemperature 1001) s (fun t => t.ctl.faults.inbox.any fun r => decide (r.mech = 23)) = true ∧
      after .coldReset s (fun t => decide (t.ctl = State.reset.ctl)) = true ∧
      after (.powerGoodLoss 0 500) s (fun t => decide (t.ctl = State.reset.ctl)) = true ∧
      after (.thermalTrip 1080) s (fun t => decide (t.ctl = State.reset.ctl)) = true := by decide +kernel

/-! ## Time and keys -/

/-- O29: a boundary that the value passes, with one task enabled and client 0 slowed to half speed. -/
theorem test_frame_boundary :
    let s := st { odd [(0x2440, 2, 1), (0x2440, 4, 3)] up with
      time := { value := 1, period := 100, boundary := 7 }
      sched := { acct := [(0, { e := 4, w := 3, p := 1 })], tasks := [(0, { s0 := 5 })] } }
    s.ctl.boot.started = true ∧ s.ctl.time.period ≠ 0 ∧ 7 = s.ctl.time.boundary % 2 ^ 64 ∧ 0 < diff 7 s.ctl.time.value ∧
      ((s.ctl.img ++ s.ctl.vd ++ s.ctl.pts).all fun e => decide (e.2.state ≠ .halted)) = true ∧
      timeMove s.part (emitBoundary s.part (modTime (reach 7) s.ctl.fresh)) = none ∧ odVal s.part s.ctl 0x2440 2 = 1 ∧
      odVal s.part s.ctl 0x247F 2 ≠ 1 ∧
      after .frameBoundary s (fun t => decide (t.ctl.time.boundary = 107 ∧ odVal t.part t.ctl 0x4000 0xB = 512 ∧
        (getTask t.ctl 0).open_.map (fun r => (r.at_, r.target, r.due)) = [(7, 6, 7 + 3 * us)])) = true := by decide +kernel

/-- O29: a HALTED camera stream takes one ABSENT sample. -/
theorem test_frame_halted :
    let s := st { up with time := { value := 1, period := 100, boundary := 7 }, img := [(3, { state := .halted, cause := 2, seq := 5 })] }
    tidy {} s.ctl.img = true ∧ tidy {} s.ctl.vd = true ∧ tidy {} s.ctl.pts = true ∧ armSource (getS s.ctl 3 3).arm ≠ 2 ∧
      timeMove s.part (emitBoundary s.part (modTime (reach 7) s.ctl.fresh)) = none ∧
      after .frameBoundary s (fun t => decide ((getS t.ctl 3 3).seq = 6 ∧ getSync t.ctl 0 = 1)) = true := by decide +kernel

/-- O30: the wrap, PPS_OUT in mode 1 and in mode 0, and its return. -/
theorem test_wrap_pps_out :
    let s := st { odd [(0x2206, 1, 1), (0x2206, 2, 10)] up with time := { value := 2 ^ 64 - 1, epoch := 2 ^ 32 - 1, second := 2 ^ 96 + 7 } }
    let u := st up
    let f := st { up with time := { pps := true, ppsFall := some 9 } }
    s.ctl.boot.started = true ∧ s.ctl.time.value < 2 ^ 64 ∧ odVal s.part s.ctl 0x2206 1 = 1 ∧ fullTime s.ctl.time < s.ctl.time.second ∧
      odVal u.part u.ctl 0x2206 1 ≠ 1 ∧ f.ctl.time.ppsFall = some 9 ∧
      after .valueWrap s (fun t => decide (t.ctl.time.value = 0 ∧ t.ctl.time.epoch = 0)) = true ∧
      after .ppsOutEdge s (fun t => decide (t.ctl.out = [.pps true] ∧ t.ctl.time.value = 7)) = true ∧
      after .ppsOutEdge u (fun t => decide (t.ctl.out = [])) = true ∧
      after .ppsOutReturnLow f (fun t => decide (t.ctl.out = [.pps false])) = true := by decide +kernel

/-- O30: the first PPS_IN edge is stamped; one 99,999 µs after it is not. -/
theorem test_pps_in :
    let s := st (odd [(0x2206, 3, 5)] up)
    let u := st (odd [(0x2206, 4, 1), (0x2206, 6, 1)] up)
    let late := 1 + 99999 * us
    regionsServed s.ctl = true ∧ 4 = ((9 : Nat) + 2 ^ 64 - effVal s.part s.ctl 0x2206 3) % 2 ^ 64 ∧ odVal s.part s.ctl 0x2206 6 = 0 ∧
      odVal u.part u.ctl 0x2206 6 ≠ 0 ∧ diff late (odVal u.part u.ctl 0x2206 4) < 100000 * (us : Int) ∧
      100000 * (us : Int) ≤ diff (late + us) (odVal u.part u.ctl 0x2206 4) ∧
      after (.ppsInEdge 9#64) s (fun t => decide (odVal t.part t.ctl 0x2206 4 = 4)) = true ∧
      after (.ppsInEdge (BitVec.ofNat 64 late)) u (fun t => decide (odVal t.part t.ctl 0x2206 4 = 1 ∧ odVal t.part t.ctl 0x2206 6 = 2)) =
        true := by decide +kernel

/-- A device whose tracker 0 follows domain 0 on MAC 0. -/
def tracking (x : Tracker) : State :=
  st { odd [(0x2200, 0xD, 500), (0x2201, 1, 0), (0x2201, 2, 0), (0x2201, 3, 1), (0x2911, 1, 1)] up with time := { value := 70, track0 := x } }

/-- O31: a two-step Sync, a one-step Sync, and a Follow_Up; the fourth makes the tracker VALID. -/
theorem test_sync_messages :
    let m : Gptp := ⟨0, 0, 9#64, true, 40, 60#64⟩
    let a : Tracker := { status := 1, gm := 9, good := 3, lastSync := 60, delays := [some 3, some 4, some 5] }
    let s := tracking a
    let w := tracking { a with waiting := some m }
    trackersOf s.part s.ctl m.mac m.domain = [0] ∧ m.twoStep = true ∧ (getTr w.ctl 0).waiting = some m ∧
      (getTr s.ctl 0).gm = (9#64).toNat ∧ 0 < (getTr s.ctl 0).good ∧
      rxValue s.part s.ctl 0 60#64 = 60 ∧ aheadOf s.ctl.time = true ∧
      diff 60 (getTr s.ctl 0).lastSync ≤ ((odVal s.part s.ctl 0x2200 0xD * 1000 * us : Nat) : Int) ∧
      (getTr s.ctl 0).status ≠ 3 ∧ asCapable a = true ∧
      after (.syncMessage m) s (fun t => decide ((getTr t.ctl 0).waiting = some m)) = true ∧
      after (.syncMessage { m with twoStep := false }) s (fun t => decide ((getTr t.ctl 0).status = 2)) = true ∧
      after (.followUp m) w (fun t => decide ((getTr t.ctl 0).good = 4 ∧ (getTr t.ctl 0).waiting = none)) = true := by decide +kernel

/-- O31: a Sync and an Announce of another grandmaster; the loss. -/
theorem test_gm_change :
    let m : Gptp := ⟨0, 0, 8#64, false, 40, 60#64⟩
    let s := tracking { status := 2, gm := 9, good := 4, lastSync := 60 }
    trackersOf s.part s.ctl 0 0 = [0] ∧ (getTr s.ctl 0).gm ≠ 0 ∧ (getTr s.ctl 0).gm ≠ (8#64).toNat ∧ (getTr s.ctl 0).status = 2 ∧
      macRuns s.part s.ctl (effVal s.part s.ctl 0x2201 2) = true ∧ aheadOf s.ctl.time = true ∧
      aheadOf (reach ((lastArrival s.part s.ctl 0 + odVal s.part s.ctl 0x2200 0xD * 1000 * us) % 2 ^ 64) s.ctl.time) = true ∧
      after (.syncMessage m) s (fun t => decide ((getTr t.ctl 0).good = 1 ∧ odVal t.part t.ctl 0x2201 8 = 1)) = true ∧
      after (.announce 0 0 8#64 5) s (fun t => decide ((getTr t.ctl 0).status = 1 ∧ (getTr t.ctl 0).gm = 8 ∧ (getTr t.ctl 0).steps = 5)) = true ∧
      after (.syncLossTimeout 0) s (fun t => decide ((getTr t.ctl 0).status = 3)) = true := by decide +kernel

/-- O32: the exchanges of peer delay; the mean of three: two that stand, and one of 9 from stamps 30 and 60 with a
turn-around of 12. -/
theorem test_pdelay :
    let s := tracking { delays := [some 3, some 4, some 5] }
    let u := st { s.ctl with time := { s.ctl.time with sent := [(0, 30)] } }
    macRuns s.part s.ctl 0 = true ∧ trOn s.part s.ctl 0 = true ∧ effVal s.part s.ctl 0x2201 2 = 0 ∧ aheadOf s.ctl.time = true ∧
      exchangeDelay u.part u.ctl 0 (some (12, 60#64)) = some 9 ∧
      after (.pdelayReqSend 0) s (fun t => decide (t.ctl.out = [.pdelayReq 0])) = true ∧
      after (.pdelayReqReceived 0 7#64) s (fun t => decide (t.ctl.out.head? =
        some (.pdelayResp 0 (7#64 - BitVec.ofNat 64 (effVal s.part s.ctl 0x2203 1))) ∧ t.ctl.out.length = 2)) = true ∧
      after (.pdelayRespReceived 0 (some (12, 60#64))) u (fun t => decide ((getTr t.ctl 0).delay = 6)) = true := by decide +kernel

/-- O33: TimeStepPermit, and a state in which the keys are recomputed. -/
theorem test_step_permit :
    let s := st up
    accepts s 0x2200 0xA (wr 0x2200 0xA 1) = true ∧ aheadOf s.ctl.time = true ∧ s.ctl.boot.everService = true ∧
      after (.timeStepPermitWrite (wr 0x2200 0xA 1)) s (fun t => decide (odVal t.part t.ctl 0x2200 0xA = 1)) = true := by
  decide +kernel

/-! ## Causeways, twin, barrier -/

/-- A member of an archipelago of two devices, by causeway ID. -/
def peer (i : Nat) : Member := ⟨i, false, true, true⟩

/-- A device of causeway ID 2 on an archipelago; its port 0, routed to ID 5, is in a state; HarbourId as given. -/
def isle (port harbour : Nat) (m : List (Nat × Nat × Nat) := []) : Ctl :=
  let c := odd ([(0x2900, 1, 2), (0x2900, 5, 1), (0x2901, 6, 0), (0x2903, 1, 1)] ++ m) up
  { c with links := { c.links with cw := [(0, { state := port, peer := some (peer 5) })], harbour := harbour } }

/-- O34: a port that trains toward another device and toward one of the same ID, a link-state flit, a loss, and the
first and the eighth failed flit. -/
theorem test_cw_ports :
    let s := st (isle 1 255)
    let u := st (isle 2 255)
    let e := st { u.ctl with links := { u.ctl.links with cw := [(0, { state := 2, fails := 7 })] } }
    mayTrain s.part s.ctl 0 = true ∧ (getCw s.ctl 0).state = 1 ∧ (peer 5).id ≠ archId s.part s.ctl ∧ (peer 2).id = archId s.part s.ctl ∧
      2 ≤ (getCw u.ctl 0).state ∧ (getCw u.ctl 0).fails < 8 ∧ (getCw e.ctl 0).fails < 8 ∧
      after (.cwTrainingDone 0 (peer 5)) s (fun t => decide ((getCw t.ctl 0).state = 2)) = true ∧
      after (.cwTrainingDone 0 (peer 2)) s (fun t => decide ((getCw t.ctl 0).state = 3)) = true ∧
      after (.linkStateFlit 0 (peer 5) [peer 6]) u (fun t => decide ((getCw t.ctl 0).members = [peer 6])) = true ∧
      after (.cwPortLoss 0) u (fun t => decide ((getCw t.ctl 0).state = 1 ∧ odVal t.part t.ctl 0x2905 1 = 1)) = true ∧
      after (.cwFlitCrcFail 0) u (fun t => decide ((getCw t.ctl 0).fails = 1)) = true ∧
      after (.cwFlitCrcFail 0) e (fun t => decide ((getCw t.ctl 0).fails = 8)) = true := by decide +kernel

/-- O35: a flit goes on, one with 15 hops does not, one without a route does not. -/
theorem test_flit_forward :
    let s := st (isle 2 255)
    let f : Flit := ⟨5, 6, 14, 0, 0, true, true, 0, [7#8]⟩
    cwUp s.ctl 0 = true ∧ f.dest ≠ archId s.part s.ctl ∧ routeUp s.part s.ctl f.dest = some 0 ∧ f.hops ≠ 15 ∧
      routeUp s.part s.ctl 7 = none ∧
      after (.cwFlitReceived 0 f) s (fun t => decide (t.ctl.out = [.flit 0 { f with hops := 15 }])) = true ∧
      after (.cwFlitReceived 0 { f with hops := 15 }) s (fun t => decide (t.ctl.out = [])) = true ∧
      after (.cwFlitReceived 0 { f with dest := 7 }) s (fun t => decide (odVal t.part t.ctl 0x2906 1 = 1)) = true := by decide +kernel

/-- O35: a message that fills its slot. -/
theorem test_flit_deliver :
    let s := st (isle 2 255 [(0x2940, 1, 1), (0x2940, 2, 0x100), (0x2940, 3, 4), (0x2940, 4, 2)])
    let f : Flit := ⟨2, 6, 0, 0, 3, true, true, 0, List.replicate 64 7#8⟩
    f.dest = archId s.part s.ctl ∧ f.first = true ∧ f.last = true ∧ 0 = f.rxCh % 32 ∧ effVal s.part s.ctl 0x2940 1 = 1 ∧
      64 + f.payload.length ≤ 64 * effVal s.part s.ctl 0x2940 4 ∧ 0x4000 = 64 * effVal s.part s.ctl 0x2940 2 ∧
      Memory.wf s.mems = true ∧ looseSpans s.part s.ctl = [] ∧
      after (.cwFlitReceived 0 f) s (fun t => decide (devNat t.mems 0x4000 8 = 64 + 2 ^ 32 * (6 + 16 * 3) ∧ look 0 0 t.ctl.links.rxNext = 1)) =
        true := by decide +kernel

/-- O36: a frame of 3 bytes is padded; a MAC reports. -/
theorem test_transmission :
    let c := odd [(0x2911, 1, 1), (0x2920, 2, 0x100), (0x2920, 4, 2)] up
    let s := st { c with links := { c.links with macUp := [(0, true)], tx := [(0, { queue := [⟨1, 3, 4⟩, ⟨2, 4, 9⟩] })] } }
      { dev := ram [(0x4080, 3, 0x30201)] }
    (look {} 0 s.ctl.links.tx).queue = ⟨1, 3, 4⟩ :: [⟨2, 4, 9⟩] ∧ exporting s.ctl = true ∧ macTurn s.part s.ctl 0 4 = true ∧ noDeferred s = true ∧ canSend s.part s.ctl 0 = true ∧
      (effVal s.part s.ctl 0x2920 1).testBit 3 = false ∧ 0x4080 = 64 * effVal s.part s.ctl 0x2920 2 + 64 * effVal s.part s.ctl 0x2920 4 * 1 ∧
      poisonedIn s.mems 0x4080 3 = false ∧ s.ctl.boot.started = true ∧
      after (.transmissionSend 0) s (fun t => decide (t.ctl.out = [.eth 0 ([1#8, 2#8, 3#8] ++ List.replicate 57 0)])) = true ∧
      after (.macLinkChange 5 true) s (fun t => look false 5 t.ctl.links.macUp) = true := by decide +kernel

/-- A heartbeat of the twin in a role, with a serial. -/
def beat (role serial : Nat) : Heartbeat := ⟨true, 5, role, 1, 0, false, false, serial, 0#64, 0⟩

/-- O37: a tick of a device with an UP port, and a heartbeat that ends the own yield. -/
theorem test_twin :
    let c := isle 2 255 [(0x2908, 1, 1)]
    let s := st { c with links := { c.links with twin := { paired := true, heard := true, peer := some (beat 0 3), yield := true } } }
    s.ctl.links.twin.paired = true ∧ (getCw s.ctl 0).state ≠ 3 ∧ cwUp s.ctl 0 = true ∧ validHeartbeat s.ctl (beat 1 4) = true ∧
      validHeartbeat s.ctl (beat 1 3) = false ∧
      after .heartbeatTick s (fun t => decide (t.ctl.links.twin.misses = 0 ∧ t.ctl.links.twin.heard = false)) = true ∧
      after (.heartbeatReceived (beat 1 4)) s (fun t => decide (t.ctl.links.twin.peer = some (beat 1 4) ∧ t.ctl.links.twin.yield = false)) =
        true := by decide +kernel

/-- O38: ARM at the harbour and on the way to it; the end of the wait excludes ID 5. -/
theorem test_barrier_arm_timeout :
    let h := st (isle 2 2)
    let f := st (isle 2 5)
    let w := st { isle 2 2 with barrier := { got := [2], until_ := some 9 } }
    effVal h.part h.ctl 0x2900 5 = 1 ∧ serving h.ctl = true ∧ isHarbour h.part h.ctl = true ∧ h.ctl.barrier.until_ = none ∧
      isHarbour f.part f.ctl = false ∧ 7 ≠ archId f.part f.ctl ∧ routeUp f.part f.ctl f.ctl.links.harbour = some 0 ∧
      w.ctl.barrier.until_ = some 9 ∧ (∃ m ∈ allMembers w.part w.ctl, m.id = 5) ∧ 5 ∉ w.ctl.barrier.got ∧
      w.ctl.barrier.got.contains (archId w.part w.ctl) = true ∧
      after (.barrierArmReceived 7) h (fun t => decide (t.ctl.barrier.got = [7])) = true ∧
      after (.barrierArmReceived 7) f (fun t => decide (t.ctl.out = [.sideband 0 .arm])) = true ∧
      after .barrierTimeout w (fun t => decide (odVal t.part t.ctl 0x2600 0xE = 32 ∧ t.ctl.barrier.due.isSome = true)) = true := by
  decide +kernel

/-- O38: GO, release and calibration on a member. -/
theorem test_barrier_go :
    let c := isle 2 5 [(0x2600, 0xA, 77), (0x2600, 0xB, 100), (0x2601, 1, 40)]
    let s := st { c with barrier := { armed := true } }
    let d := st { c with barrier := { armed := true, due := some 9 } }
    effVal s.part s.ctl 0x2900 5 = 1 ∧ cwUp s.ctl 0 = true ∧ serving s.ctl = true ∧ s.ctl.barrier.armed = true ∧
      d.ctl.barrier.due = some 9 ∧ isHarbour s.part s.ctl = false ∧ routeUp s.part s.ctl s.ctl.links.harbour = some 0 ∧
      after (.barrierGoReceived 0) s (fun t => decide (t.ctl.barrier.due = some (65536 * 60))) = true ∧
      after .barrierRelease d (fun t => decide (getSync t.ctl 77 = 1 ∧ t.ctl.barrier.armed = false)) = true ∧
      after (.barrierCalibrationDone 0 81) s (fun t => decide (odVal t.part t.ctl 0x2601 1 = 41)) = true := by decide +kernel

/-- O39: BarrierArm, BarrierGo and BarrierCalibrate on the harbour. -/
theorem test_barrier_writes :
    let s := st (isle 2 2 [(0x2600, 0xF, 3)])
    accepts s 0x2600 0xC (wr 0x2600 0xC 1) = true ∧ offered 0x2600 0xC (wr 0x2600 0xC 1) ≠ 0 ∧ s.ctl.links.harbour ≠ 255 ∧
      accepts s 0x2600 0xD (wr 0x2600 0xD 1) = true ∧ offered 0x2600 0xD (wr 0x2600 0xD 1) ≠ 0 ∧ isHarbour s.part s.ctl = true ∧
      s.ctl.barrier.until_ = none ∧ peer 5 ∈ allMembers s.part s.ctl ∧ s.ctl.barrier.got.contains (peer 5).id = false ∧
      accepts s 0x2600 0x10 (wr 0x2600 0x10 1) = true ∧ offered 0x2600 0x10 (wr 0x2600 0x10 1) ≠ 0 ∧
      (peer 5).id ≠ archId s.part s.ctl ∧ routeUp s.part s.ctl (peer 5).id = some 0 ∧
      after (.barrierArm (wr 0x2600 0xC 1)) s (fun t => t.ctl.barrier.armed) = true ∧
      after (.barrierGo (wr 0x2600 0xD 1)) s (fun t => decide (t.ctl.barrier.until_ = some (3 * us))) = true ∧
      after (.barrierCalibrate (wr 0x2600 0x10 1)) s (fun t => decide (.sideband 0 .calibrate ∈ t.ctl.out)) = true := by
  decide +kernel

/-! ## Host links, CAN, monitor, JTAG -/

/-- O40: a configuration request, one that unmasks a pending vector, a link that comes up, PERST1_N released. -/
theorem test_pcie :
    let s := st { up with boot := { up.boot with bifur := true } }
    let u := st { s.ctl with links := { perst1 := true } }
    let v := st { s.ctl with links := { fns := [(0, { msix := { enable := true, pending := 2 ^ 15 } })] } }
    fnReached s.ctl 16 = true ∧ fnReached s.ctl 17 = false ∧ fnReached u.ctl 9 = false ∧ hasLink s.ctl 1 = true ∧
      s.ctl.links.perst1 = false ∧ s.ctl.boot.started = true ∧ u.ctl.boot.bifur = true ∧
      after (.configurationRequest 16 .none) s (fun t => decide (t.ctl.out = [.config 16 true])) = true ∧
      (getFn v.ctl 0).msix.enable = true ∧ (getFn v.ctl 0).msix.mask = false ∧ (getFn v.ctl 0).msix.pending.testBit 15 = true ∧
      after (.configurationRequest 0 (.entry 15 64 7 false)) v (fun t => decide (t.ctl.out = [.msix 0 15 64 7, .config 0 true] ∧
        (getFn t.ctl 0).msix.pending = 0)) = true ∧
      after (.dlUp 1 5 4) s (fun t => decide (look 0 1 t.ctl.links.pcie = 69)) = true ∧
      after .perst1NDeassert u (fun t => decide (t.ctl.links.perst1 = false)) = true := by decide +kernel

/-- O40: BAR2 writes up to the end of DRAM data, and one byte beyond. -/
theorem test_bar2 :
    let s := st up
    let top := dramLimit s.part s.ctl
    fnReached s.ctl 0 = true ∧ isPf s.ctl 0 = true ∧ s.ctl.boot.cfgReady = true ∧ bar2Open s.part s.ctl (top - 2) 2 = true ∧
      bar2Open s.part s.ctl (top - 1) 2 = false ∧ bar2Open s.part s.ctl top 1 = false ∧ Memory.wf s.mems = true ∧
      after (.bar2Write 0 (top - 2) [7#8, 8#8]) s (fun t => decide (devNat t.mems (top - 2) 2 = 0x807)) = true ∧
      after (.bar2Write 0 (top - 1) [7#8, 8#8]) s (fun t => decide (odVal t.part t.ctl 0x2960 4 = 1)) = true ∧
      after (.barMiss 0 true top false) s (fun t => decide (t.ctl.out = [.barRead 0 true])) = true ∧
      after (.barMiss 5 false 0 false) s (fun t => decide (t.ctl.out = [.barRead 5 false])) = true := by decide +kernel

/-- O41: the four ways a function is reset. -/
theorem test_resets :
    let q := upQ 7 [cmd (dsc 7 0 0 [])]
    let s := st { q with boot := { q.boot with bifur := true } }
    fnReached s.ctl 3 = true ∧ resetSet s.ctl 3 = [3] ∧ resetSet s.ctl 0 = linkFns s.ctl 0 ∧ hasLink s.ctl 0 = true ∧
      s.ctl.boot.started = true ∧ s.ctl.boot.bifur = true ∧ (linkFns s.ctl 0).contains (queueFn s.part s.ctl 0) = true ∧
      9 ∈ linkFns s.ctl 1 ∧
      after (.functionLevelReset 0) s (fun t => decide (getQ t.ctl 0 = {})) = true ∧
      after (.dlDown 0) s (fun t => decide (getQ t.ctl 0 = {})) = true ∧
      after .perst1NAssert s (fun t => decide (t.ctl.links.perst1 = true ∧ getQ t.ctl 0 = getQ s.ctl 0)) = true := by decide +kernel

/-- O42: NMT commands by broadcast and by node number. -/
theorem test_nmt :
    let s := st { odd [(0x2918, 1, 9), (0x1017, 0, 50)] up with links := { can := { nmt := 127, segmented := some (1, 2) } } }
    let f := fun i x => after i s (fun t => decide (t.ctl.links.can.nmt = x))
    nmtForUs s.part s.ctl 0 = true ∧ nmtForUs s.part s.ctl 9 = true ∧ nmtForUs s.part s.ctl 8 = false ∧ s.ctl.links.can.nmt ≠ 0 ∧
      odVal s.part s.ctl 0x1017 0 ≠ 0 ∧ s.ctl.links.can.segmented = some (1, 2) ∧
      f (.nmtStartRemoteNode 9) 5 = true ∧ f (.nmtStop 0) 4 = true ∧ f (.nmtEnterPreOperational 9) 127 = true ∧
      after (.nmtResetCommunication 9) s (fun t => decide (t.ctl.out = [.can 0x709 [0]])) = true ∧
      after (.nmtResetNode 9) s (fun t => decide (t.ctl.links.can = { nmt := 127 })) = true ∧
      after .canHeartbeat s (fun t => decide (t.ctl.out = [.can 0x709 [127]])) = true ∧
      after .usdoSegmentTimeout s (fun t => decide (t.ctl.links.can.segmented = none)) = true := by decide +kernel

/-- Whether a line is what a command answers. -/
def answers (i : Instr) (s : State) (l : List Byte) : Bool := after i s fun t => decide (t.ctl.out = [.monitor l])

/-- O43: before and after the setup state. -/
theorem test_monitor :
    let s := st up
    let b := st { up with boot := { up.boot with stage := .loading } }
    s.ctl.boot.cfgReady = true ∧ pastBoot s.ctl = true ∧ pastBoot b.ctl = false ∧
      answers .clouxVer s (numbers [variantCode s.part, 1, 0]) = true ∧
      answers .clouxState s (numbers [1, 0, 0, 255, 1]) = true ∧ answers .clouxSyntaxError s (errLine wordSyntax) = true ∧
      answers .clouxKeys s (numbers [0, 0]) = true ∧ answers .clouxKeys b (errLine wordNotReady) = true ∧
      answers .clouxLinks s (numbers (List.replicate 11 0)) = true ∧
      answers (.clouxLog 3) s (okLine [hexBytes (List.replicate 64 0)]) = true := by decide +kernel

/-- O43: a memory line of 1 and of 256 bytes, of none, of too many, and beyond DRAM data. -/
theorem test_monitor_mem :
    let s := st up { dev := ram [(0x100, 2, 0xAB12)] }
    let top := dramLimit s.part s.ctl
    1 ≤ 256 ∧ 256 ≤ 256 ∧ 0x100 + 256 ≤ top ∧ top < top - 1 + 2 ∧
      answers (.clouxMemR 0x100 2) s (okLine [hexBytes [0x12#8, 0xAB#8]]) = true ∧
      answers (.clouxMemR 0x100 256) s (okLine [hexBytes (devBytes s.mems 0x100 256)]) = true ∧
      answers (.clouxMemR 0x100 0) s (errLine wordRange) = true ∧ answers (.clouxMemR 0x100 257) s (errLine wordRange) = true ∧
      answers (.clouxMemR (top - 1) 2) s (errLine wordRange) = true := by decide +kernel

/-- O43: JTAG instructions, sealed and not. -/
theorem test_jtag :
    let s := st up
    let z := st { up with boot := { up.boot with sealed := true } }
    let f := fun i (x : State) k d => after i x (fun t => decide (t.ctl.links.jtag = { inst := k, drive := d }))
    s.ctl.boot.sealed = false ∧ z.ctl.boot.sealed = true ∧ f .bypass s 0 false = true ∧ f .idcode s 1 false = true ∧
      f .samplePreload s 2 false = true ∧ f .extest s 3 true = true ∧ f .extestPulse s 4 true = true ∧
      f .extestTrain s 5 true = true ∧ f .clamp s 6 true = true ∧ f .highz s 7 false = true ∧ f .extest z 0 false = true ∧
      after .bypass s (fun t => decide (t.ctl.out = [.jtag 1 0])) = true := by decide +kernel

/-! ## Boot, safe state -/

/-- O44: PERST_N, error pins, configuration-ready. -/
theorem test_cold_start :
    let s := State.reset
    let b := st { boot := { started := true, trained := true, arrays := true } }
    s.ctl.boot.started = false ∧ b.ctl.boot.started = true ∧ b.ctl.boot.cfgReady = false ∧ b.ctl.boot.stage = .booting ∧
      after (.coldStart true false true) s (fun t => decide (t.ctl.boot.bifur = true ∧ pdOf t.ctl 47 = .on ∧ pdOf t.ctl 48 = .off)) =
        true ∧
      after .errorPinsActivate b (fun t => t.ctl.boot.pinsOn) = true ∧
      after .configurationReady b (fun t => decide (t.ctl.boot.stage = .awaitImage)) = true := by decide +kernel

/-- O44: 12 and 8 channels a half, and populations that fail. -/
theorem test_dram_training :
    let s := st { boot := { started := true } }
    s.ctl.boot.started = true ∧ s.ctl.boot.trained = false ∧ s.ctl.boot.stage = .booting ∧ s.ctl.safety.mode ≠ .failed ∧
      population s.part 0xFFF 0xFFF ≠ 0 ∧ population s.part 0xFFF 0x0FF = 8 ∧ population s.part 0xFFF 0x0FE = 0 ∧
      after (.dramTrainingDone 0xFFF 0xFFF 24 true) s (fun t => decide (odVal t.part t.ctl 0x2500 1 = 12)) = true ∧
      after (.dramTrainingDone 0xFFF 0x0FE 24 true) s (fun t => decide (t.ctl.boot.error = 9)) = true ∧
      after (.dramTrainingDone 0xFFF 0xFFF 24 false) s (fun t => decide (t.ctl.safety.mode = .failed)) = true ∧
      after (.dramTrainingDone 0xFFF 0xFFF 20 true) s (fun t => decide (t.ctl.safety.mode = .failed)) = true := by decide +kernel

/-- O44: the fills, and the arrays with block 31 unrepairable. -/
theorem test_fill_arrays :
    let c : Ctl := { od := up.od, boot := { started := true, trained := true } }
    let s := st c { dev := ram [(dramLimit {} c - 1, 2, 0x707)] }
    let u := st { c with boot := { c.boot with reserveFilled := true } } s.mems
    s.ctl.boot.trained = true ∧ s.ctl.boot.reserveFilled = false ∧ u.ctl.boot.reserveFilled = true ∧ u.ctl.boot.filled = false ∧
      s.ctl.boot.arrays = false ∧ s.ctl.boot.started = true ∧ hasBlock s.part 31 = true ∧ (2 ^ 31).testBit 31 = true ∧
      after .dramFillReserveDone s (fun t => decide (t.mems.dev.length = 1)) = true ∧
      after .dramFillDone u (fun t => decide (t.mems.dev.length = 1 ∧ t.ctl.boot.filled = true)) = true ∧
      after (.arrayBootSelfTestDone [9] (2 ^ 31)) s (fun t => decide (odVal t.part t.ctl 0x3010 1 = 9 ∧ fencedUnit t.ctl 31 = true)) =
        true := by decide +kernel

/-- O44: an image whose first bytes are wrong, one that does not come, and an image to verify. -/
theorem test_image :
    let s := st { odd [(0x2A00, 2, 0x40), (0x2A00, 3, 16)] up with boot := { up.boot with stage := .loading, fetched := false } }
      { host := hostRam [(0x1000, 16, 5)] }
    let v := st { s.ctl with boot := { s.ctl.boot with fetched := true } }
    s.ctl.boot.stage = .loading ∧ s.ctl.boot.fetched = false ∧ s.ctl.boot.reserveFilled = true ∧ s.ctl.safety.mode ≠ .failed ∧
      16 = odVal s.part s.ctl 0x2A00 3 ∧ leBytes 16 5 = hostBytes s.mems (64 * odVal s.part s.ctl 0x2A00 2) 16 ∧
      Memory.wf s.mems = true ∧ checkHeader s.view 16 (leBytes 16 5) = some 2 ∧ v.ctl.boot.fetched = true ∧
      [] = imageHeld v.view v.ctl ∧ checkSignature v.view [] = some 7 ∧
      after (.imageFetchDone true) s (fun t => decide (t.ctl.boot.error = 2 ∧ t.ctl.boot.stage = .awaitImage)) = true ∧
      after (.imageFetchDone false) s (fun t => decide (t.ctl.boot.error = 1)) = true ∧
      after .imageVerifyDone v (fun t => decide (t.ctl.boot.error = 7)) = true := by decide +kernel

/-- O44: two cores suffice, one does not. -/
theorem test_setup_state :
    let s := st { up with boot := { up.boot with stage := .starting } }
    s.ctl.boot.stage = .starting ∧ s.ctl.boot.filled = true ∧ s.ctl.safety.mode ≠ .failed ∧
      2 ≤ ((List.range 3).filter (Nat.testBit 6)).length ∧ ((List.range 3).filter (Nat.testBit 4)).length < 2 ∧
      after (.setupStateReached 6) s (fun t => decide (t.ctl.boot.stage = .setup ∧ t.ctl.safety.cores = [.fenced, .inService, .inService])) =
        true ∧
      after (.setupStateReached 4) s (fun t => decide (t.ctl.boot.error = 10)) = true := by decide +kernel

/-- A device in a phase of the safe state. -/
def safe (k : Nat) : State := st { upQ 7 [cmd (dsc 7 0 0 [])] with safety := { mode := .safeState, phase := k } }

/-- O45: the phases in which dispatch, work and units stop. -/
theorem test_safe_stop :
    inPhase (safe 0).ctl 0 = true ∧ inPhase (safe 1).ctl 1 = true ∧ inPhase (safe 2).ctl 2 = true ∧
      pdOn (safe 2).ctl (lagoonDomain 7) = true ∧ pdOn (safe 2).ctl (blockDomain 31) = true ∧
      after .safeStateDispatchStop (safe 0) (fun t => decide (t.ctl.safety.phase = 1)) = true ∧
      after .safeStateDispatchStop (st { (safe 0).ctl with fleet := [0x4000, 336, 0, 1, 1, 0] })
        (fun t => decide (t.ctl.fleet = [])) = true ∧
      after .safeStateWorkStop (safe 1) (fun t => decide ((getQ t.ctl 0).state = .disabled)) = true := by decide +kernel

/-- O45: an image area that no longer holds the image; the restart. -/
theorem test_safe_restart :
    imageGood (safe 3).view (safe 3).ctl = false ∧ inPhase (safe 3).ctl 3 = true ∧ inPhase (safe 4).ctl 4 = true ∧
      inPhase (safe 5).ctl 5 = true ∧ inPhase (safe 6).ctl 6 = true ∧ .cells 31 ∈ allCheckers ∧
      checkerPresent (safe 5).part (safe 5).ctl (.cells 31) = true ∧
      after .imageReverify (safe 3) (fun t => decide (t.ctl.safety.mode = .failed)) = true ∧
      after .safeStateCoresRestart (safe 4) (fun t => decide (t.ctl.safety.phase = 5)) = true ∧
      after .safeStateCheckerTests (safe 5) (fun t => decide (t.ctl.safety.phase = 6)) = true ∧
      after .safeStateServiceReady (safe 6) (fun t => decide (t.ctl.safety.mode = .inService)) = true := by decide +kernel

/-! ## Scheduler -/

/-- A command of a client at the head of dispatch of its queue, for SG half 0 or for block 31. -/
def waiting (cl : Nat) (d : Desc) : Queue := { queue (dClass d) [{ desc := d, waits := 128 }] with ctx := { client := cl, cls := dClass d, depthLog2 := 4 } }

/-- O46: an idle half takes the client of least virtual time; so does a block without a live layer. -/
theorem test_boundary_idle :
    let s := st { up with queues := [(0, waiting 4 (dsc 1 0 0 [])), (1, waiting 3 (dsc 1 0 0 []))], sched := { vtime := [(256 * 0x28 + 3, 9)] } }
    let b := st { up with queues := [(0, waiting 4 (dsc 0 0 31 []))], sched := { running := [(31, 8)] } }
    dispatching s.ctl = true ∧ atBoundary s.ctl 0x28 = true ∧ selectClient s.part s.ctl 0x28 = some 4 ∧
      look 0 0x28 s.ctl.sched.running = 0 ∧ atBoundary b.ctl 31 = true ∧ selectClient b.part b.ctl 31 = some 4 ∧
      ¬ (31 < 32 ∧ isLive b.ctl (look 0 31 b.ctl.sched.running - 1) 31 = true) ∧
      after (.kernelBoundary 0x28) s (fun t => decide (look 0 0x28 t.ctl.sched.running = 5)) = true ∧
      after (.kernelBoundary 31) b (fun t => decide (look 0 31 t.ctl.sched.running = 5)) = true := by decide +kernel

/-- O46: a live layer of a client without share is displaced. -/
theorem test_preempt :
    let s := st { odd [(0x4004, 1, 5), (0x4007, 1, 0)] up with
      queues := [(0, waiting 4 (dsc 0 0 31 []))]
      sched := { running := [(31, 8)], windows := [(32 * 7 + 31, { live := [(3, 0)] })] } }
    look 0 31 s.ctl.sched.running = 7 + 1 ∧ isLive s.ctl 7 31 = true ∧ preempted s.part s.ctl 31 7 = true ∧
      atBoundary s.ctl 31 = true ∧ moving s.ctl 31 = false ∧ selectClient s.part s.ctl 31 = some 4 ∧
      after (.kernelBoundary 31) s (fun t => decide (look 0 31 t.ctl.sched.running = 5)) = true := by decide +kernel

/-- Client 4 with a window of one unit at scratch unit 2 and a spill area at 0x4000. -/
def windowed (s : Sched) (qs : List (Nat × Queue)) : Ctl :=
  { odd [(0x4004, 2, 2), (0x4004, 3, 1), (0x4004, 4, 0x100)] up with sched := s, queues := qs }

/-- O46: a spill of the device from block 31, and its fill. -/
theorem test_spill_device :
    let s := st (windowed { ferry := [⟨4, 7, 8, false, .preempt⟩], windows := [(32 * 4 + 31, { live := [(0, 1)] })] } []) { dev := ram [(scratchBase 31 + 128, 64, 0x77)] }
    let u := st (windowed { ferry := [⟨4, 7, 8, true, .preempt⟩], windows := [(32 * 4 + 31, { live := [(0, 1)], spilled := true })] } []) { dev := ram [(0x4000 + 64 * 31, 64, 0x77)] }
    let pl := windowPlaces s.part s.ctl 4 31
    pl = (scratchBase 31 + 128, 0x4000 + 64 * 31, 64) ∧ (windowSpan s.part s.ctl 4).2 ≤ 0x8000 ∧
      poisonedIn s.mems pl.1 64 = false ∧ poisonedIn u.mems pl.2.1 64 = false ∧ Memory.wf s.mems = true ∧ Memory.wf u.mems = true ∧
      enginesRun s.ctl = true ∧ s.ctl.sched.ferry = ⟨4, 7, 8, false, .preempt⟩ :: [] ∧ atBoundary s.ctl 0x2D = true ∧ getW s.ctl 4 31 ≠ {} ∧ (8).testBit 3 = true ∧
      after (.dmSpill (.device 4 7 8 false) .none) s (fun t => (getW t.ctl 4 31).spilled) = true ∧
      after (.dmFill (.device 4 7 8 false) .none) u (fun t => decide (devNat t.mems pl.1 1 = 0x77)) = true := by decide +kernel

/-- O46: a queued spill and a queued fill. -/
theorem test_spill_queued :
    let m := cmd (dsc 5 2 0 [(68, 8), (72, 7), (80, 4)])
    let f := cmd (dsc 5 2 0 [(64, 1), (68, 8), (72, 7), (80, 4)])
    let s := st (windowed { running := [(0x2D, 1)], resident := [(7, [4])] } [(0, queue 5 [m])])
    let u := st (windowed { running := [(0x2D, 1)], resident := [(7, [4])], windows := [(32 * 4 + 31, { spilled := true })] } [(0, queue 5 [f])])
      { dev := ram [(scratchBase 31 + 128, 64, 0x77)] }
    turn s 5 2 m = true ∧ turn u 5 2 f = true ∧ fld m.desc 64 1 = 0 ∧ fld f.desc 64 1 = 1 ∧
      8 = fld m.desc 68 4 ∧ 7 = fld m.desc 72 3 ∧ 4 = fld m.desc 80 8 ∧
      (look [] 7 s.ctl.sched.resident).contains 4 = true ∧ (getW u.ctl 4 31).spilled = true ∧ atBoundary s.ctl 31 = true ∧
      ((onUnit s.ctl 31).all fun e => decide ((getQ s.ctl e.1).ctx.client ≠ 4)) = true ∧
      ((List.range 4).filter fun b => (8).testBit b) = [3] ∧
      after (.dmSpill (.queued r0) .none) s (fun t => decide ((getQ t.ctl 0).cmds.map Cmd.stage = [.executed])) = true := by decide +kernel

/-- O46: a task met at its target, and one missed for the second time, with MissToDowngrade 2. -/
theorem test_deadline :
    let c := odd [(0x247F, 2, 1), (0x247F, 3, 9), (0x247F, 7, 3), (0x247F, 8, 2), (0x247F, 9, 1), (0x247F, 0xA, 1)] up
    let s := st { c with syncs := [(9, 5)], sched := { tasks := [(63, { open_ := [⟨1, 5, 2, 0⟩] })] } }
    let u := st { c with syncs := [(9, 4)], sched := { tasks := [(63, { open_ := [⟨1, 5, 2, 0⟩], misses := 1 })] } }
    (getTask s.ctl 63).open_ = ⟨1, 5, 2, 0⟩ :: [] ∧ odVal s.part s.ctl 0x247F 2 = 1 ∧ 1 = odVal s.part s.ctl 0x247F 0xA ∧
      decide (5 ≤ getSync s.ctl (effVal s.part s.ctl 0x247F 3)) = true ∧ decide (5 ≤ getSync u.ctl (effVal u.part u.ctl 0x247F 3)) = false ∧
      after (.taskDeadline 63) s (fun t => decide (odVal t.part t.ctl 0x247F 0xA = 0)) = true ∧
      after (.taskDeadline 63) u (fun t => decide (odVal t.part t.ctl 0x247F 0xA = 2 ∧ odVal t.part t.ctl 0x247F 0xB = 1)) = true := by
  decide +kernel

/-! ## Faults, scrubs -/

/-- O47: a record on its way from block 31 to the chip, and a unit that waits for room. -/
theorem test_collectors :
    let r : Rec := { mech := 3, unit := 31 }
    let s := st { up with faults := { blocks := [(31, { recs := [r] })], isles := [(7, { recs := [r] })] } }
    let e := st { up with faults := { blocks := [(31, { recs := [r] })] } }
    let w := st { up with faults := { blocks := [(31, { recs := List.replicate 31 r, waiting := [r] })], isles := [(7, { waiting := [r] })] } }
    (look {} 31 e.ctl.faults.blocks).recs = r :: [] ∧ (look {} 31 e.ctl.faults.blocks).overflow = none ∧ fencesBlock e.ctl 31 r = false ∧
      mergeRec r (look {} 7 e.ctl.faults.isles).recs = none ∧ (look {} 7 e.ctl.faults.isles).recs.length < 64 ∧
      mergeRec r (look {} 7 s.ctl.faults.isles).recs = some [{ r with count := 2 }] ∧
      (look {} 7 s.ctl.faults.isles).recs = r :: [] ∧ mergeRec r s.ctl.faults.inbox = none ∧
      (look {} 31 w.ctl.faults.blocks).waiting = [r] ∧ (look {} 31 w.ctl.faults.blocks).recs.length < 32 ∧
      (look {} 7 w.ctl.faults.isles).waiting = [r] ∧
      after (.faultRecordForwarded (.block 31) false) e (fun t => decide ((look {} 7 t.ctl.faults.isles).recs = [r])) = true ∧
      after (.faultRecordForwarded (.block 31) true) e (fun t => decide (t.ctl.faults.inbox.map Rec.mech = [25])) = true ∧
      after (.faultRecordForwarded (.isle 7) false) s (fun t => decide (t.ctl.faults.inbox = [r])) = true ∧
      after (.collectorRoom (.block 31)) w (fun t => decide ((look {} 31 t.ctl.faults.blocks).recs.length = 32)) = true ∧
      after (.collectorRoom (.isle 7)) w (fun t => decide ((look {} 7 t.ctl.faults.isles).recs = [r])) = true := by decide +kernel

/-- O47: an overflow of block 31 fences it; a record merges into one in the log. -/
theorem test_collector_fence :
    let o : Rec := { mech := 22, unit := 31 }
    let r : Rec := { mech := 3, unit := 31 }
    let s := st { up with faults := { blocks := [(31, { overflow := some o, recs := [r] })] } }
    let m := st { up with faults := { inbox := [r], log := [{ index := 7, rec_ := r }], next := 8 } }
    hasBlock s.part 31 = true ∧ fencedUnit s.ctl 39 = false ∧ fencesBlock s.ctl 31 o = true ∧ fencedUnit s.ctl 31 = false ∧
      mergeLogged r m.ctl.faults.log = some [{ index := 7, rec_ := { r with count := 2 } }] ∧ r.halts = [] ∧
      after (.faultRecordForwarded (.block 31) false) s (fun t => fencedUnit t.ctl 31) = true ∧
      after (.faultRecordLogged false) m (fun t => decide (t.ctl.faults.log.length = 1 ∧ t.ctl.faults.next = 9)) = true := by decide +kernel

/-- O47: a record is logged and its command FAULTED with its index; its class-1 counter counts. -/
theorem test_logged :
    let m := cmd (dsc 0 0 31 [])
    let s := st { upQ 0 [m] with faults := { inbox := [{ mech := 4, unit := 31, halts := [r0] }], next := 65541 } }
    s.ctl.faults.inbox = { mech := 4, unit := 31, halts := [r0] } :: [] ∧ mergeLogged { mech := 4, unit := 31, halts := [r0] } s.ctl.faults.log = none ∧
      s.ctl.faults.log.length < 256 ∧ ¬ (s.ctl.safety.mode = .notReady ∧ actsSafe 4 31 = true) ∧ findCmd s.ctl r0 = some m ∧ m.status = 0 ∧ m.committed = false ∧ m.redo = none ∧
      after (.faultRecordLogged false) s (fun t => decide ((getQ t.ctl 0).cmds.map (fun x => (x.status, x.detail)) = [(6, 5)] ∧
        odVal t.part t.ctl 0x2802 2 = 1)) = true := by decide +kernel

/-- O47: the three actions of a timer that expires: close, fence, safe state. -/
theorem test_escalation :
    let g := fun (m u : Nat) => st { up with faults := { log := [{ index := 3, rec_ := { mech := m, unit := u }, cls := mechClass m, timer := some 8 }] } }
    let l : Logged := { index := 3, rec_ := { mech := 8, unit := 0x32 }, cls := 1, timer := some 8 }
    (g 8 0x32).ctl.safety.mode = .inService ∧ (allLogged (g 8 0x32).ctl).find? (fun l => decide (l.index = 3)) = some l ∧
      l.state = .opened ∧ l.timer.isSome = true ∧ actionOf 8 0x32 = .close ∧ actionOf 4 31 = .fenceUnit 31 ∧ actionOf 12 0x30 = .safe ∧
      hasUnit {} 31 = true ∧
      after (.escalationTimerExpiry 3) (g 8 0x32) (fun t => decide (t.ctl.faults.log.map Logged.state = [.closed])) = true ∧
      after (.escalationTimerExpiry 3) (g 4 31) (fun t => fencedUnit t.ctl 31) = true ∧
      after (.escalationTimerExpiry 3) (g 12 0x30) (fun t => decide (t.ctl.safety.mode = .safeState)) = true := by decide +kernel

/-- O48: FaultClear of a record that halted a block. -/
theorem test_fault_clear :
    let l : Logged := { index := 3, rec_ := { mech := 4, unit := 31, halts := [r0] }, cls := 1 }
    let s := st { up with faults := { log := [l] }, blocks := [(31, { halted := true, haltedBy := some r0 })] }
    let w := wr 0x2800 3 3
    accepts s 0x2800 3 w = true ∧ 3 = offered 0x2800 3 w ∧ (allLogged s.ctl).find? (fun l => decide (l.index = 3)) = some l ∧
      isUncleared l = true ∧ l.rec_.unit < 32 ∧ fencedUnit s.ctl 31 = false ∧ (getB s.ctl 31).haltedBy = some r0 ∧
      l.rec_.halts.contains r0 = true ∧
      after (.faultClear w) s (fun t => decide (t.ctl.faults.log.map Logged.state = [.cleared] ∧ (getB t.ctl 31).halted = false)) =
        true := by decide +kernel

/-- O48: FenceRequest of isle 7, which covers block 31. -/
theorem test_fence_request :
    let m := cmd (dsc 0 0 31 [])
    let s := st (upQ 0 [m])
    let w := wr 0x2800 4 39
    accepts s 0x2800 4 w = true ∧ 39 = offered 0x2800 4 w ∧ hasUnit s.part 39 = true ∧ fencedUnit s.ctl 39 = false ∧
      s.ctl.faults.log.length < 256 ∧ findCmd s.ctl r0 = some m ∧ coversUnit 39 (unitOfDesc m.desc) = true ∧ m.status = 0 ∧
      after (.fenceRequest w) s (fun t => decide (fencedUnit t.ctl 39 = true ∧ (getQ t.ctl 0).cmds.map Cmd.status = [6])) = true := by
  decide +kernel

/-- O48: SafeStateRequest, and a fleet export that ends. -/
theorem test_safe_request :
    let s := st up
    let f := st { up with fleet := [0x4000, 512, 0, 0, 31, 9] }
    accepts s 0x2700 2 (wr 0x2700 2 1) = true ∧ offered 0x2700 2 (wr 0x2700 2 1) = 1 ∧ serving s.ctl = true ∧
      (s.ctl.safety.entries.filter fun t => decide (diff s.ctl.time.value t < ((60000000 * us : Nat) : Int))).length < 3 ∧
      f.ctl.fleet = [0x4000, 512, 0, 0, 31, 9] ∧ Memory.wf f.mems = true ∧ looseSpans f.part f.ctl = [] ∧
      after (.safeStateRequest (wr 0x2700 2 1)) s (fun t => decide (t.ctl.safety.mode = .safeState ∧ odVal t.part t.ctl 0x2700 3 = 1)) =
        true ∧
      after .fleetExportDone f (fun t => decide (odVal t.part t.ctl 0x2890 8 = 2)) = true := by decide +kernel

/-- O49: scrubs at the last word of block 31 and of lagoon 7, and of DRAM. -/
theorem test_scrubs :
    let s := st up
    let a := scratchBase 31 + 64 * 32767 + 8 * 7
    let l := lagoonBase 7 + 1024 * 8191 + 8 * 127
    let p := st up { poison := [0x40] }
    hasBlock s.part 31 = true ∧ pdOn s.ctl (blockDomain 31) = true ∧ 7 < isles s.part ∧ pdOn s.ctl (lagoonDomain 7) = true ∧
      64 * 1 + 64 ≤ usableBytes s.part s.ctl ∧ pdOn s.ctl (46 + halfOf 1) = true ∧ 64 < dramTop ∧
      poisonedIn s.mems a 1 = false ∧ poisonedIn p.mems 64 1 = true ∧ s.ctl.boot.testActive = false ∧
      after (.scratchScrub 31 32767 7 .corrected) s (fun t => decide (odVal t.part t.ctl 0x3723 4 = 1)) = true ∧
      after (.scratchScrub 31 32767 7 .uncorrected) s (fun t => decide (t.mems.poison = [a])) = true ∧
      after (.lagoonScrub 7 8191 127 .uncorrected) s (fun t => decide (t.mems.poison = [l] ∧ odVal t.part t.ctl 0x3722 2 = 1)) = true ∧
      after (.dramPatrolScrub 1 .uncorrected) s (fun t => decide (t.mems.poison = [64] ∧ t.ctl.faults.inbox.length = 1)) = true ∧
      after (.dramPatrolScrub 1 .uncorrected) p (fun t => decide (t.ctl.faults.inbox = [])) = true := by decide +kernel

/-- O49: refresh at the last bank, postponed and issued; the rate; the tables. -/
theorem test_refresh :
    let s := st { up with dram := { due := [(bankKey 1 11 15, 2)] }, traffic := { tables := [(0, [(1, 1)])] } }
    pdOn s.ctl 47 = true ∧ s.ctl.boot.testActive = false ∧
      after (.dramRefresh 1 11 15 true) s (fun t => decide (look 0 (bankKey 1 11 15) t.ctl.dram.due = 3)) = true ∧
      after (.dramRefresh 1 11 15 false) s (fun t => decide (look 0 (bankKey 1 11 15) t.ctl.dram.refreshed = 3)) = true ∧
      after (.mr4Poll 1 11 35) s (fun t => decide (look 0 23 t.ctl.dram.rate = 3)) = true ∧
      after .activateTableClear s (fun t => decide (t.ctl.traffic.tables = [])) = true := by decide +kernel

/-! ## The safety cluster -/

/-- A drain of block `b` signed with SIG_TAG `g`, executed with a signature value. -/
def signed (b g v : Nat) (idx : Nat := 0) : Cmd :=
  { idx := idx, desc := dsc 0 1 b [(73, 1), (240, g)], stage := .executed, sig := .owed, sigValue := BitVec.ofNat 64 v }

/-- A device in service with a pair entry 5. -/
def paired (cmds : List Cmd) (p : Pair) (decided : List Nat := []) : State :=
  st { upQ 0 cmds with safety := { mode := .inService, pairs := [(5, p)], decided := decided } }

/-- O50: the first signature, the second, and one whose other side was withdrawn. -/
theorem test_signature :
    let m := signed 0 5 7
    let m2 := signed 4 (32768 + 5) 7
    let s := paired [m] {}
    let u := paired [m2] { a := some ⟨⟨1, 0⟩, 7#64, 0⟩ }
    let g := paired [m] { gone1 := true }
    serving s.ctl = true ∧ findCmd s.ctl r0 = some m ∧ sigTag m.desc = some 5 ∧ sigTag m2.desc = some 32773 ∧ m.status = 0 ∧
      m.sig = .owed ∧ m.stage = .executed ∧ m.committed = false ∧ (getPair s.ctl 5).a = none ∧ (getPair u.ctl 5).b = none ∧
      (getPair g.ctl 5).gone1 = true ∧ (getPair s.ctl 5).gone1 = false ∧
      after (.signatureArrival r0) s (fun t => decide ((getPair t.ctl 5).a = some ⟨r0, 7#64, 0⟩)) = true ∧
      after (.signatureArrival r0) u (fun t => decide ((getPair t.ctl 5).verdict = some true ∧ t.ctl.safety.decided = [5])) = true ∧
      after (.signatureArrival r0) g (fun t => decide ((getQ t.ctl 0).cmds.map Cmd.status = [4])) = true := by decide +kernel

/-- O50: a side that stays alone, on either side. -/
theorem test_pair_timeout :
    let m := { signed 0 5 7 with sig := .sent }
    let s := paired [m] { a := some ⟨r0, 7#64, 0⟩ }
    let u := paired [m] { b := some ⟨r0, 7#64, 0⟩ }
    (getPair s.ctl 5).a = some ⟨r0, 7#64, 0⟩ ∧ (getPair s.ctl 5).b = none ∧ (getPair u.ctl 5).b = some ⟨r0, 7#64, 0⟩ ∧
      findCmd s.ctl r0 = some m ∧ m.status = 0 ∧ m.committed = false ∧
      after (.pairTimeout 5) s (fun t => decide (odVal t.part t.ctl 0x2700 0xE = 1 ∧ t.ctl.faults.inbox.map Rec.mech = [17])) = true ∧
      after (.pairTimeout 5) u (fun t => decide ((getQ t.ctl 0).cmds.map Cmd.status = [4])) = true := by decide +kernel

/-- O50: a window that judges a pair equal, and one that finds it different. -/
theorem test_window :
    let x := { signed 0 5 7 with sig := .sent }
    let y := { signed 4 (32768 + 5) 7 1 with sig := .sent }
    let z := { signed 4 (32768 + 5) 8 1 with sig := .sent }
    let a : Side := ⟨r0, 7#64, 0⟩
    let b : Side := ⟨⟨0, 1⟩, 7#64, 4⟩
    let d : Side := ⟨⟨0, 1⟩, 8#64, 4⟩
    let s := paired [x, y] { a := some a, b := some b, verdict := some true } [5]
    let u := paired [x, z] { a := some a, b := some d, verdict := some false } [5]
    s.ctl.safety.mode = .inService ∧ s.ctl.boot.testActive = false ∧ s.ctl.safety.decided = [5] ∧ (getPair s.ctl 5).a = some a ∧
      (getPair s.ctl 5).b = some b ∧ a.ref ≠ b.ref ∧ findCmd s.ctl a.ref = some x ∧ findCmd s.ctl b.ref = some y ∧
      verdictOf a b = true ∧ verdictOf a d = false ∧ (getPair u.ctl 5).verdict = some (verdictOf a d) ∧ x.committed = false ∧
      findCmd u.ctl d.ref = some z ∧ u.ctl.faults.log.length < 255 ∧
      after (.safetyTaskWindow []) s (fun t => decide ((getQ t.ctl 0).cmds.map Cmd.sig = [.passed, .passed])) = true ∧
      after (.safetyTaskWindow []) u (fun t => decide ((getQ t.ctl 0).cmds.map Cmd.status = [4, 4] ∧ odVal t.part t.ctl 0x2700 0xD = 1)) =
        true := by decide +kernel

/-- O50: a window that takes an input of the host, and the word of a FIFO that the cluster reads. -/
theorem test_window_inputs :
    let a := odd [(0x2430, 6, 0x31)] up
    let s := st { a with fifos := [(5, { words := [(7#64, true), (8#64, false)] })], safety := { mode := .inService, inputIndex := 2 ^ 64 - 1 } }
    s.ctl.safety.mode = .inService ∧ s.ctl.boot.testActive = false ∧ s.ctl.safety.decided = [] ∧
      (getFifo s.ctl 5).words = (7#64, true) :: [(8#64, false)] ∧ (fifoAgents s.part s.ctl 5).2 = 3 ∧
      after (.safetyTaskWindow [.fifo 5]) s (fun t => decide (t.ctl.out = [.coreIn 0 (2 ^ 64 - 1) 7#64 true true,
        .coreIn 1 (2 ^ 64 - 1) 7#64 true true, .coreIn 2 (2 ^ 64 - 1) 7#64 true true] ∧ t.ctl.safety.inputIndex = 0 ∧
        (getFifo t.ctl 5).words = [(8#64, false)])) = true ∧
      after (.safetyTaskWindow [.crossing 4#64]) s (fun t => decide (t.ctl.out.length = 3)) = true := by decide +kernel

/-- O51: third evaluations that name one copy, the other, neither, and all three different; one that does not start. -/
theorem test_third :
    let th := fun a b => ({ pair := 5, a := ⟨r0, a, 0⟩, b := ⟨⟨0, 1⟩, b, 4⟩, layer := 0, opcode := 1, failed := 0 } : Third)
    let s := fun a b => st { up with safety := { mode := .inService, third := [th a b] } }
    (s 7 8).ctl.safety.mode = .inService ∧ (s 7 8).ctl.safety.third.find? (fun t => decide (t.pair = 5)) = some (th 7 8) ∧
      (th 7 8).a.unit < 32 ∧ (th 7 8).b.unit < 32 ∧ (th 7 8).a.unit ≠ (th 7 8).b.unit ∧
      replayBlock (s 7 8).part (s 7 8).ctl 0 4 = some 31 ∧ atBoundary (s 7 8).ctl 31 = true ∧
      after (.thirdEvaluationDone 5 [8]) (s 7 8) (fun t => (getSus t.ctl 0).suspect && !(getSus t.ctl 4).suspect) = true ∧
      after (.thirdEvaluationDone 5 [7]) (s 7 8) (fun t => (getSus t.ctl 4).suspect && !(getSus t.ctl 0).suspect) = true ∧
      after (.thirdEvaluationDone 5 [9]) (s 7 8) (fun t => decide (t.ctl.safety.mode = .safeState)) = true ∧
      after (.thirdEvaluationDone 5 [7]) (s 7 7) (fun t => decide (t.ctl.safety.suspects = [])) = true ∧
      after (.thirdEvaluationTimeout 5) (s 7 8) (fun t => decide (odVal t.part t.ctl 0x2700 0x16 = 1)) = true := by decide +kernel

/-- O51: replays of the oldest layer of a unit under observation. -/
theorem test_observation :
    let s := st { up with safety := { mode := .inService, suspects := [(31, { suspect := true, clean := 3, layers := [9, 8] })] } }
    (getSus s.ctl 31).layers = 9 :: [8] ∧ serving s.ctl = true ∧ replayBlock s.part s.ctl 31 31 = some 27 ∧
      atBoundary s.ctl 27 = true ∧ (getSus s.ctl 31).first = 0 ∧ (getSus s.ctl 31).suspect = true ∧
      after (.observationReplayDone 31 false) s (fun t => decide (getSus t.ctl 31 = { suspect := true, first := 1, layers := [8] })) = true ∧
      after (.observationReplayDone 31 true) s (fun t => decide ((getSus t.ctl 31).clean = 3)) = true ∧
      after (.observationReplaySkip 31) s (fun t => decide (odVal t.part t.ctl 0x2700 0x17 = 1)) = true := by decide +kernel

/-- O51: a sampled replay of a layer that waits, clean and not. -/
theorem test_sampled :
    let s := st { odd [(0x2700, 0x13, 3)] up with safety := { mode := .inService, samples := [(31, [9, 8])] } }
    serving s.ctl = true ∧ odVal s.part s.ctl 0x2700 0x13 ≠ 0 ∧ look [] 31 s.ctl.safety.samples = 9 :: [8] ∧
      replayBlock s.part s.ctl 31 31 = some 27 ∧ atBoundary s.ctl 27 = true ∧ s.ctl.faults.log.length < 255 ∧
      (getSus s.ctl 31).first = 0 ∧
      after (.sampledReplayDone 31 true) s (fun t => decide (t.ctl.safety.samples = [(31, [8])])) = true ∧
      after (.sampledReplayDone 31 false) s (fun t => decide ((getSus t.ctl 31).suspect = true ∧
        (t.ctl.faults.log.map fun l => l.rec_.mech) = [16])) = true := by decide +kernel

/-- O51: self-tests of block 31's cells, and late coverage. -/
theorem test_self_test :
    let x : Checker := .cells 31
    let s := st up
    let u := st { up with safety := { mode := .inService, slice := some x, warned := [31] } }
    testsRun s.ctl = true ∧ s.ctl.safety.slice = none ∧ checkerPresent s.part s.ctl x = true ∧ atBoundary s.ctl 31 = true ∧ u.ctl.safety.slice = some x ∧
      s.ctl.safety.warned.contains (checkerKey x) = false ∧ u.ctl.safety.mode ≠ .notReady ∧ u.ctl.faults.log.length < 256 ∧
      checkerUnit x < 32 ∧
      after (.selfTestSliceStart x) s (fun t => decide (t.ctl.safety.slice = some x)) = true ∧
      after (.selfTestSliceEnd x true) u (fun t => decide (t.ctl.safety.warned = [])) = true ∧
      after (.selfTestSliceEnd x false) u (fun t => decide ((t.ctl.faults.log.map fun l => l.rec_.mech) = [19])) = true ∧
      after (.latentCoverageWarning x) s (fun t => decide (odVal t.part t.ctl 0x2700 0x18 = 1)) = true := by decide +kernel

/-- The lengths that the statements on cores suppose. -/
def fourLists (c : Ctl) : Bool :=
  decide (c.safety.cores.length = 3) && decide (c.safety.copying.length = 3) && decide (c.safety.copied.length = 3) &&
    decide (c.safety.drops.length = 3)

/-- A device in service with votes. -/
def voting (l : List Vote) : State := st { up with safety := { mode := .inService, votes := l } }

/-- O52: the first, second and third value of an output; a third that differs drops its core. -/
theorem test_core_output :
    let w : CoreVal := .crossing 7#64
    let s := voting []
    let one := voting [⟨4, [(0, w)], none, 0⟩]
    let two := voting [⟨4, [(0, w), (1, w)], some w, 0⟩]
    fourLists s.ctl = true ∧ serving s.ctl = true ∧ s.ctl.safety.splitActive = false ∧ inService s.ctl = [0, 1, 2] ∧
      voteOf s.ctl 4 = none ∧ voteOf one.ctl 4 = some ⟨4, [(0, w)], none, 0⟩ ∧ voteOf two.ctl 4 = some ⟨4, [(0, w), (1, w)], some w, 0⟩ ∧
      two.ctl.safety.drops.getD 2 0 = 0 ∧
      after (.coreOutput 0 4 w) s (fun t => decide (t.ctl.out = [] ∧ t.ctl.safety.votes.length = 1)) = true ∧
      after (.coreOutput 1 4 w) one (fun t => decide (.coreOut 4 w ∈ t.ctl.out)) = true ∧
      after (.coreOutput 1 4 .safeRequest) (voting [⟨4, [(0, .safeRequest)], none, 0⟩]) (fun t => decide (t.ctl.safety.mode = .safeState)) =
        true ∧
      after (.coreOutput 2 4 w) two (fun t => decide (t.ctl.safety.votes = [] ∧ coreOf t.ctl 2 = .inService)) = true ∧
      after (.coreOutput 2 4 (.crossing 8#64)) two (fun t => decide (coreOf t.ctl 2 = .resync ∧ odVal t.part t.ctl 0x2700 0xB = 1)) =
        true := by decide +kernel

/-- O52: votes that expire with and without a release. -/
theorem test_vote_expiry :
    let w : CoreVal := .crossing 7#64
    let one := voting [⟨4, [(0, w)], none, 0⟩]
    let two := voting [⟨4, [(0, w), (1, w)], some w, 0⟩]
    fourLists one.ctl = true ∧ serving one.ctl = true ∧ (voteOf one.ctl 4).map Vote.released = some none ∧
      (voteOf two.ctl 4).map Vote.released = some (some w) ∧ inService two.ctl = [0, 1, 2] ∧ two.ctl.safety.drops.getD 2 0 = 0 ∧
      after (.voteWindowExpiry 4) one (fun t => decide (t.ctl.safety.mode = .safeState)) = true ∧
      after (.voteWindowExpiry 4) two (fun t => decide (coreOf t.ctl 2 = .resync)) = true := by decide +kernel

/-- O52: checkpoints: a copy starts, a copied core rejoins, a core that differs is dropped; a copy ends. -/
theorem test_checkpoint :
    let s := st { up with safety := { mode := .inService, cores := [.inService, .inService, .resync] } }
    let c := st { up with safety := { mode := .inService, cores := [.inService, .inService, .resync], copied := [false, false, true] } }
    let k := st { up with safety := { mode := .inService, cores := [.inService, .inService, .resync], copying := [false, false, true] } }
    let a := st up
    fourLists s.ctl = true ∧ s.ctl.safety.mode = .inService ∧ s.ctl.safety.splitActive = false ∧ 2 ≤ (inService s.ctl).length ∧
      inService s.ctl = [0, 1] ∧ inService a.ctl = [0, 1, 2] ∧ coreOf s.ctl 2 = .resync ∧ c.ctl.safety.copied.getD 2 false = true ∧
      digestOf 5#64 5#64 6#64 2 ≠ digestOf 5#64 5#64 6#64 0 ∧ coreOf k.ctl 2 = .resync ∧ k.ctl.safety.copying.getD 2 false = true ∧
      after (.checkpoint 5#64 5#64 6#64) s (fun t => decide (t.ctl.safety.copying = [false, false, true])) = true ∧
      after (.checkpoint 5#64 5#64 5#64) c (fun t => decide (coreOf t.ctl 2 = .inService)) = true ∧
      after (.checkpoint 5#64 5#64 6#64) a (fun t => decide (coreOf t.ctl 2 = .resync ∧ t.ctl.faults.inbox.map Rec.mech = [13])) = true ∧
      after (.resyncCopyDone 2) k (fun t => decide (t.ctl.safety.copied = [false, false, true])) = true := by decide +kernel

/-- O52: split mode, where core C reproduces what core B has sent. -/
theorem test_split :
    let w : CoreVal := .crossing 7#64
    let s := st { up with safety := { mode := .inService, splitActive := true, cores := [.inService, .inService, .spare], votes := [⟨4, [(1, w)], none, 0⟩] } }
    fourLists s.ctl = true ∧ serving s.ctl = true ∧ s.ctl.safety.splitActive = true ∧
      (s.ctl.safety.votes.filterMap fun x => (x.vals.find? fun e => decide (e.1 = 1)).map fun e => (x.k, e.2)) = [(4, w)] ∧
      after (.splitReplayInterval 1 [w]) s (fun t => decide (t.ctl.out = [.coreOut 4 w])) = true := by decide +kernel

/-- O52: debug on core A, running and halted. -/
theorem test_debug :
    let s := st { up with safety := { mode := .inService, breaks := [9] } }
    let h := st { up with safety := { mode := .debugHold, halted := true, haltCount := 5 } }
    fourLists s.ctl = true ∧ debugOpen s.ctl = true ∧ debugOpen h.ctl = true ∧ s.ctl.safety.halted = false ∧
      h.ctl.safety.halted = true ∧ s.ctl.safety.breaks.contains 9 = true ∧ inService s.ctl = [0, 1, 2] ∧
      memWf (fun _ _ => true) s.ctl.safety.sram = true ∧ 2 ^ 20 - 1 < 2 ^ 20 ∧
      after (.debugHalt 3 9 4) s (fun t => decide (t.ctl.safety.haltCount = 25 ∧ t.ctl.safety.mode = .debugHold)) = true ∧
      after (.breakpointHit 9 6) s (fun t => decide (t.ctl.safety.haltCount = 6)) = true ∧
      after .debugResume h (fun t => decide (t.ctl.safety.mode = .inService)) = true ∧
      after .debugSingleStep h (fun t => decide (t.ctl.safety.haltCount = 6)) = true ∧
      after (.debugRegisterWrite 4 8#64) h (fun t => decide (look 0 4 t.ctl.safety.regs = 8)) = true ∧
      after (.debugMemoryWrite (2 ^ 20 - 1) 3#8) h (fun t => decide (t.ctl.safety.sram = [(2 ^ 20 - 1, 3#8)])) = true ∧
      after (.debugBreakpointSet 8) s (fun t => decide (8 ∈ t.ctl.safety.breaks)) = true ∧
      after (.debugBreakpointClear 9) s (fun t => decide (t.ctl.safety.breaks = [])) = true := by decide +kernel

/-! ## Block arrays -/

/-- Block 31 with a tile in bank 0, HELD. -/
def heldBlock (m n : Nat) (acc : List Nat) : Block := { bank0 := { state := .held, m := m, n := n, k := 1, acc := acc }, held := [0] }

/-- DidtMode 2, in which no ramp bubbles are inserted. -/
def didt : List (Nat × Nat × Nat) := [(0x2B00, 4, 2)]

/-- O53: MX.OUTER of one INT8 element with one of the other side, ZERO; the same after LOAD; and a failed cell. -/
theorem test_outer :
    let m := cmd (dsc 0 0 31 [(64, 1), (68, 1), (80, 1), (96, 1), (128, 1), (192, 1)])
    let s := st (odd didt (runs 31 0 [m])) { dev := hostRam [(sc 0, 1, 3), (sc 1, 1, 5)] }
    let x := outerOpnd 31 m.desc false
    let y := outerOpnd 31 m.desc true
    undisturbed s = true ∧ turn s 0 0 m = true ∧ 31 = dTarget m.desc ∧ x.f < 9 ∧ y.f < 9 ∧
      fld m.desc 76 2 = 0 ∧ pairKind x.f y.f = some 0 ∧
      ((x.extents ++ y.extents).all (within (scratchBase 31) scratchSize)) = true ∧ (outerStep s.mems 31 x y 0).beyond = false ∧
      chooseBank s.ctl 31 0 x.lanes y.lanes false (isMx x.f) = some (0, false) ∧ (x.trans && (isMx x.f || x.zbt)) = false ∧
      (y.trans && (isMx y.f || y.zbt)) = false ∧
      after (.mxOuter r0 .none) s (fun t => decide (((getB t.ctl 31).bank 0).acc = [15] ∧ (getB t.ctl 31).held = [0])) = true ∧
      after (.mxOuter r0 (.cell true 4 5)) s (fun t => decide (((getB t.ctl 31).bank 0).poisoned = true ∧ (getB t.ctl 31).halted = true ∧
        (getQ t.ctl 0).cmds.map Cmd.stage = [.stopped])) = true := by decide +kernel

/-- O53: MX.OUTER of two steps that continues the held tile, −1 × 2 + 3 × 4 on top of 5. -/
theorem test_outer_keep :
    let m := cmd (dsc 0 0 31 [(64, 1), (68, 1), (76, 1), (80, 1), (96, 1), (128, 2), (176, 1), (192, 2), (208, 1)])
    let s := st { runs 31 0 [m] with blocks := [(31, heldBlock 1 1 [5])] }
      { dev := hostRam [(sc 0, 1, 255), (sc 1, 1, 3), (sc 2, 1, 2), (sc 3, 1, 4)] }
    let x := outerOpnd 31 m.desc false
    let y := outerOpnd 31 m.desc true
    turn s 0 0 m = true ∧ fld m.desc 76 2 = 1 ∧ pairKind x.f y.f = some 0 ∧
      ((x.extents ++ y.extents).all (within (scratchBase 31) scratchSize)) = true ∧ (outerStep s.mems 31 x y 0).beyond = false ∧
      chooseBank s.ctl 31 1 x.lanes y.lanes false (isMx x.f) = some (0, true) ∧
      after (.mxOuter r0 .none) s (fun t => decide (((getB t.ctl 31).bank 0).acc = [15])) = true := by decide +kernel

/-- O53: MX.CONV of a 2 × 2 kernel over a 2 × 2 INT8 image. -/
theorem test_conv :
    let m := cmd (dsc 0 2 31 [(64, 1), (68, 1), (80, 1), (96, 1), (112, 1), (128, 2), (144, 2), (176, 2), (192, 1), (240, 2), (248, 2), (256, 1),
      (264, 1), (272, 1), (280, 1), (384, 4), (400, 1), (416, 2), (432, 1)])
    let d := m.desc
    let s := st (odd didt (runs 31 0 [m])) { dev := hostRam [(sc 0, 2, 0x201), (sc 1, 2, 0x403), (sc 2, 1, 1), (sc 3, 1, 10), (sc 4, 1, 100), (sc 5, 1, 3)] }
    let x := convInput 31 d
    let l := x.taps 1 2 2
    let y := convWeights 31 d l.length
    undisturbed s = true ∧ ((List.range 4).all fun k => !(convStep s.mems 31 1 x y l (fun ch => [0 + ch]) k).beyond) = true ∧ turn s 0 2 m = true ∧ x.f < 6 ∧ fld d 68 4 < 6 ∧ fld d 76 2 = 0 ∧ x.pad ≠ 3 ∧
      pairKind x.f (fld d 68 4) = some 0 ∧ l.length = 4 ∧ numF d (80, 9, 1, 256) = 1 ∧ fld d 75 1 = 0 ∧ fld d 336 16 * numF d (112, 16, 1, 65535) = 0 ∧
      ((x.extents 0 0 ++ y.extents).all (within (scratchBase 31) scratchSize)) = true ∧
      chooseBank s.ctl 31 0 1 1 false false = some (0, false) ∧ x.zbt = false ∧ x.trans = false ∧ x.ci = false ∧
      x.rowMissing 1 (numF d (240, 8, 1, 16)) (numF d (248, 8, 1, 16)) = false ∧
      after (.mxConv r0 .none) s (fun t => decide (((getB t.ctl 31).bank 0).acc = [1 + 20 + 300 + 12])) = true := by decide +kernel

/-- A kernel of 2 × 2 accumulators and one step. -/
def small : Kern :=
  { m := 2, n := 2, k := 1, kind := 0, a := fun _ _ _ => .fin false 0 0, b := fun _ _ => .fin false 0 0, ai := fun t _ _ => t + 1,
    bi := fun _ u => u - 3, sa := fun _ _ => 127, sb := fun _ _ => 127, pa := fun _ _ => true, pb := fun _ _ => true }

/-- O53: the last accumulator of an integer kernel, on top of −1. -/
theorem test_int_kernel :
    small.kind = 0 ∧ 1 ≤ small.k ∧ 1 < small.m ∧ 1 < small.n ∧ (kernTile small [0, 0, 0, 2 ^ 32 - 1]).val.getD 3 0 = 2 ^ 32 - 5 := by
  decide +kernel

/-- O53: MX.DRAIN of an INT32 tile to scratch. -/
theorem test_drain :
    let m := cmd (dsc 0 1 31 [(64, 9), (192, 4), (224, 1)])
    let s := st { runs 31 0 [m] with blocks := [(31, heldBlock 1 2 [7, 2 ^ 32 - 1])] }
    let k := (getB s.ctl 31).bank 0
    turn s 0 1 m = true ∧ fld m.desc 64 4 < 11 ∧ fld m.desc 68 2 ≠ 3 ∧ fld m.desc 77 3 < 4 ∧ isMx (fld m.desc 64 4) = false ∧
      (getB s.ctl 31).held = 0 :: [] ∧ fld m.desc 71 1 = 0 ∧ fld m.desc 76 1 = 0 ∧ fld m.desc 72 1 = 0 ∧ k.poisoned = false ∧
      ((drainExtents m.desc (scratchBase 31) k.m k.n).all (within (scratchBase 31) scratchSize)) = true ∧
      after (.mxDrain r0 .none) s (fun t => decide (devNat t.mems (sc 4) 8 = 7 + 2 ^ 32 * (2 ^ 32 - 1) ∧ (getB t.ctl 31).bank0 = {})) =
        true := by decide +kernel

/-- O53: MX.POOL, the maximum of a 2 × 2 INT8 window as FP32. -/
theorem test_pool :
    let m := cmd (dsc 0 3 31 [(64, 1), (68, 10), (80, 1), (96, 1), (128, 2), (144, 2), (176, 2), (192, 1), (240, 2), (248, 2), (256, 1), (264, 1),
      (320, 4), (336, 1), (368, 4), (384, 1)])
    let d := m.desc
    let s := st (runs 31 0 [m]) { dev := hostRam [(sc 0, 2, 0xFF01), (sc 1, 2, 0x203)] }
    let x := poolInput 31 d
    turn s 0 3 m = true ∧ x.f < 6 ∧ fld d 68 4 = 10 ∧ fld d 74 2 = 0 ∧ fld d 76 2 ≠ 3 ∧ x.ci = false ∧
      x.rowMissing 1 (numF d (240, 8, 1, 16)) (numF d (248, 8, 1, 16)) = false ∧
      ((x.extents 0 0).all (within (scratchBase 31) scratchSize)) = true ∧
      within (scratchBase 31) scratchSize (scratchBase 31 + 64 * fld d 368 15, elemBytes 10 1) = true ∧
      after (.mxPool r0 .none) s (fun t => decide (devNat t.mems (sc 4) 4 = 0x40400000)) = true := by decide +kernel

/-! ## Attention and sequences -/

/-- Set 0 with BF16 pages of 16 elements and one group, its pages at 0x200000 and its stack of 3 numbers at 0x300000. -/
def set0 (c : Ctl) : Ctl :=
  odd [(0x2B40, 1, 0x10104), (0x2B40, 2, 0x8000), (0x2B40, 4, 0xC000), (0x2B40, 5, 3)] c

/-- A work list at 0x30000 of one record: sequence 5, one token, row 0. -/
def oneRec : List (Nat × Nat × Nat) := [(0x30000, 8, 1 + 2 ^ 32), (0x30040, 8, 5 + 2 ^ 16)]

/-- A live sequence without pages, its list of 64 entries at 0x40000. -/
def fresh : Seq := { state := .live, listCap := 64, listAddr := 0x1000, kScale := 0x3F80, vScale := 0x3F80 }

/-- Sequence 5 as the only one. -/
def with5 (e : Seq) (c : Ctl) : Ctl := { c with seqs := [(5, e)] }

/-- An AT.SCORE of block 31 over that list. -/
def scoreCmd : Cmd :=
  cmd (dsc 0 4 31 [(64, 4), (68, 10), (112, 1), (128, 0x3F800000), (160, 16), (176, 1), (192, 1), (208, 32), (224, 48), (240, 1), (256, 64),
    (272, 1), (288, 1), (320, 0xC00), (384, 544)])

/-- O54: AT.SCORE of a sequence with one fresh token; the end of its record. -/
theorem test_score :
    let m := scoreCmd
    let d := m.desc
    let s := st (with5 fresh (set0 (runs 31 0 [m]))) { dev := hostRam oneRec }
    let x := geom s.part s.ctl (fld d 84 6)
    let wl := 64 * fld d 320 48
    let cnt := wlCount s.mems wl
    let recs := ((List.range (min (fld d 96 12 + numF d (112, 13, 1, 4096)) cnt)).drop (fld d 96 12)).map fun i => wlAt s.mems wl i
    let plans := recs.map fun w => planRec s.view s.ctl 31 (fld d 84 6) (fld d 80 4) d w
    let seqs := recs.map WRec.seq
    let z := st (with5 { fresh with readers := 1 } (set0 (runs 31 0 [{ m with phase := 1, work := [5] }])))
    dTarget d = 31 ∧ undisturbed s = true ∧ turn s 0 4 m = true ∧ m.phase = 0 ∧ fld d 64 4 = 4 ∧ [2, 3, 4, 5, 10].contains (fld d 68 4) = true ∧
      fld d 72 2 ≠ 3 ∧ seqs = [5] ∧ x.dh = 16 ∧ plans.map Plan.omitted = [false] ∧ plans.map Plan.bad = [none] ∧
      ((scoreExtents d 31 x.dh (wlRows s.mems wl) false).all (within (scratchBase 31) scratchSize)) = true ∧
      inDevice s.part s.ctl wl (64 + 8 * cnt) = true ∧ spanOff 0 (wl, 64 + 8 * cnt) = false ∧ fld d 80 4 < x.g ∧
      32 * x.page / 64 ≤ numF d (384, 15, 1, 32767) ∧ fld d 75 1 ≠ 1 ∧ (getB s.ctl 31).bank0.state = .free ∧
      (getSeq s.ctl 5).readers + seqs.count 5 ≤ 15 ∧ (getSeq s.ctl 5).appendBusy = false ∧
      after (.atScoreRecordDone r0) z (fun t => decide ((getSeq t.ctl 5).readers = 0 ∧
        (getQ t.ctl 0).cmds.map (fun y => (y.work, y.stage)) = [([], .executed)])) = true := by decide +kernel

/-- O54: AT.SCORE of an omitted record writes zeros; one that keeps its scores on a part for training. -/
theorem test_score_omitted_and_kept :
    let m := scoreCmd
    let d := m.desc
    let s := st (with5 { fresh with state := .exhausted } (set0 (runs 31 0 [m])))
      { dev := hostRam (oneRec ++ [(sc 64, 2, 0x1234)]) }
    let k := cmd (d ||| (1#512 <<< 75))
    let u := st (with5 fresh (set0 (runs 31 0 [k]))) { dev := hostRam oneRec }
    let q := planRec u.view u.ctl 31 0 0 k.desc (wlAt u.mems 0x30000 0)
    (planRec s.view s.ctl 31 0 0 d (wlAt s.mems 0x30000 0)).omitted = true ∧ hasTrain u.part = true ∧ fld k.desc 75 1 = 1 ∧
      turn u 0 4 k = true ∧ keepFits k.desc q = true ∧
      after (.atScore r0 .none) s (fun t => decide (devNat t.mems (sc 64) 2 = 0 ∧ odVal t.part t.ctl 0x2B00 7 = 1 ∧
        (getSeq t.ctl 5).readers = 1 ∧ (getQ t.ctl 0).cmds.map (fun y => (y.phase, y.work, y.stage)) = [(1, [5], .dispatched)])) = true := by
  decide +kernel

/-- An AT.GRAD of block 31 over that list. -/
def gradCmd : Cmd :=
  cmd (dsc 0 8 31 [(64, 4), (112, 1), (128, 0x3F800000), (160, 16), (176, 1), (192, 1), (208, 32), (224, 48), (240, 1), (256, 64),
    (272, 1), (288, 1), (304, 80), (320, 0xC00), (384, 544), (417, 96), (432, 112), (448, 128), (464, 0x3F800000)])

/-- The tests of O54's hypotheses on AT.GRAD. -/
def gradOk (s : State) (m : Cmd) : Bool :=
  let d := m.desc
  let x := geom s.part s.ctl (fld d 84 6)
  let wl := 64 * fld d 320 48
  let cnt := wlCount s.mems wl
  let rows := wlRows s.mems wl
  let w := wlAt s.mems wl (fld d 96 12)
  let q := planRec s.view s.ctl 31 (fld d 84 6) (fld d 80 4) d w
  undisturbed s && turn s 0 8 m && decide (fld d 64 4 = 4) && decide (fld d 72 2 ≠ 3) && decide (x.fmt = 4) &&
    (scoreExtents d 31 x.dh rows true ++
      [(oRow 31 d (fld d 417 15) (headsOf d - 1) (rows - 1), elemBytes (fld d 64 4) x.dh),
       (oRow 31 d (fld d 432 15) (headsOf d - 1) (rows - 1), 4 * x.dh)]).all (within (scratchBase 31) scratchSize) &&
    inDevice s.part s.ctl wl (64 + 8 * cnt) && !spanOff 0 (wl, 64 + 8 * cnt) &&
    within (scratchBase 31) scratchSize (scratchBase 31 + 64 * fld d 448 15, 8 * x.dh * q.keys.total) && decide (fld d 80 4 < x.g) &&
    decide (32 * x.page / 64 ≤ numF d (384, 15, 1, 32767)) && decide (q.bad = none)

/-- O54: AT.GRAD of a live record, of an omitted one, of none, and with kept scores. -/
theorem test_grad :
    let m := gradCmd
    let s := st (with5 fresh (set0 (runs 31 0 [m]))) { dev := hostRam oneRec }
    let o := st (with5 { fresh with state := .faulted } (set0 (runs 31 0 [m]))) { dev := hostRam (oneRec ++ [(sc 112, 2, 0x1234)]) }
    let n := cmd (m.desc ||| (1#512 <<< 96))
    let e := st (with5 fresh (set0 (runs 31 0 [n]))) { dev := hostRam oneRec }
    let u := cmd (m.desc ||| (1#512 <<< 416))
    let w := wlAt s.mems 0x30000 0
    let k := st { with5 fresh (set0 (runs 31 0 [u])) with
      blocks := [(31, { kept := some { m := 1, n := 1, meta_ := keptMeta u.desc w, scores := [0] } })] } { dev := hostRam oneRec }
    gradOk s m = true ∧ gradOk o m = true ∧ gradOk e n = true ∧ gradOk k u = true ∧ fld n.desc 96 12 = 1 ∧ wlCount e.mems 0x30000 = 1 ∧
      fld u.desc 416 1 = 1 ∧ (planRec o.view o.ctl 31 0 0 m.desc w).omitted = true ∧
      after (.atGrad r0 .none) o (fun t => decide (devNat t.mems (sc 112) 2 = 0)) = true ∧
      after (.atGrad r0 .none) e (fun t => decide ((getQ t.ctl 0).cmds.map Cmd.stage = [.executed])) = true := by decide +kernel

/-- O54: a walk for list index 1 of a sequence with three pages installs two entries. -/
theorem test_page_walk :
    let s := st { with5 { fresh with pages := 3, length := 48 } (set0 up) with walks := [(7, [(31, 5, 1)])] }
      { dev := hostRam [(0x40000, 12, 7 + 8 * 2 ^ 32 + 9 * 2 ^ 64)] }
    ((look [] 7 s.ctl.walks).take 8).contains (31, 5, 1) = true ∧
      after (.pageWalkDone 31 5 1) s (fun t => decide ((getB t.ctl 31).lab = [(5, 1, 8), (5, 2, 9)] ∧ look [] 7 t.ctl.walks = [] ∧
        odVal t.part t.ctl 0x3717 1 = 1 ∧ odVal t.part t.ctl 0x3717 2 = 1)) = true := by decide +kernel

/-- O54: AT.WALK of one live sequence with three tokens due. -/
theorem test_walk :
    let m := cmd (dsc 0 6 0 [(80, 0x1400), (128, 0x1800), (192, 1)])
    let d := m.desc
    let s := st (with5 fresh (runs 0x2F 0 [m])) { dev := hostRam [(0x5000A, 2, 3)] }
    let l := walkRecs s.mems s.ctl (fld d 64 6) (64 * fld d 80 48)
    undisturbed s = true ∧ turn s 0 6 m = true ∧ l.length = 1 ∧ l.length ≤ numF d (192, 13, 1, 4096) ∧
      inDevice s.part s.ctl (64 * fld d 80 48) 8192 = true ∧ inDevice s.part s.ctl (64 * fld d 128 48) (64 + 8 * l.length) = true ∧
      spanOff 0 (64 * fld d 80 48, 8192) = false ∧ spanOff 0 (64 * fld d 128 48, 64 + 8 * l.length) = false ∧
      after (.atWalk r0 .none) s (fun t => decide (devNat t.mems 0x60000 8 = 1 + 3 * 2 ^ 32 ∧ devNat t.mems 0x60040 8 = 5 + 3 * 2 ^ 16)) = true := by
  decide +kernel

/-- An AT.APPEND of block 31 over that list, its K rows at lagoon unit 0 and V rows at unit 16. -/
def appendCmd : Cmd := cmd (dsc 0 5 31 [(64, 10), (80, 0), (112, 16), (144, 1), (160, 1), (176, 0xC00)])

/-- A reserved append of records in their places. -/
def appending (recs : List AppendRec) (pos : Nat) : List Append := [{ ref := r0, set := 0, recs := recs, pos := pos }]

/-- The record of one token of sequence 5 with page set 9. -/
def taken9 : AppendRec := { seq := 5, len := 1, row := 0, taken := [9] }

/-- O54: AT.APPEND reserves the top page set of the pool. -/
theorem test_append_reserve :
    let m := appendCmd
    let d := m.desc
    let s := st (with5 fresh (set0 (runs 31 0 [m]))) { dev := hostRam (oneRec ++ [(0x300000, 12, 7 + 8 * 2 ^ 32 + 9 * 2 ^ 64)]) }
    let x := geom s.part s.ctl 0
    undisturbed s = true ∧ turn s 0 5 m = true ∧ m.phase = 0 ∧ s.ctl.appends = [] ∧ fld d 64 4 = 10 ∧
      inDevice s.part s.ctl 0x30000 (64 + 8 * wlCount s.mems 0x30000) = true ∧ 64 * fld d 176 48 = 0x30000 ∧ wlRows s.mems 0x30000 = 1 ∧
      64 * fld d 80 17 + 64 * numF d (160, 16, 1, 65535) * (x.g - 1) + 64 * numF d (144, 16, 1, 65535) * 0 + elemBytes 10 x.dh ≤ lagoonSize ∧
      64 * fld d 112 17 + 64 * numF d (160, 16, 1, 65535) * (x.g - 1) + 64 * numF d (144, 16, 1, 65535) * 0 + elemBytes 10 x.dh ≤ lagoonSize ∧
      pdOn s.ctl (lagoonDomain 7) = true ∧ spanOff 0 (0x30000, 64 + 8 * wlCount s.mems 0x30000) = false ∧
      after (.atAppend r0 .none) s (fun t => decide (t.ctl.appends = appending [taken9] 0 ∧ odVal t.part t.ctl 0x2B40 5 = 2)) = true := by
  decide +kernel

/-- O54: AT.APPEND writes the token of a first page, with its header and list entry; one on a partly filled page; an
exhausted record writes nothing. -/
theorem test_append_write :
    let m := { appendCmd with phase := 1 }
    let zeros := [(lagoonBase 7, 64, 2 ^ 31 + 0x3F800000), (lagoonBase 7 + 1024, 64, 0)]
    let s := st { with5 fresh (set0 (runs 31 0 [m])) with appends := appending [taken9] 0 } { dev := hostRam zeros }
    let x := geom s.part s.ctl 0
    let e := { fresh with pages := 1, length := 1 }
    let half := st { with5 e (set0 (runs 31 0 [m])) with appends := appending [{ taken9 with taken := [] }] 0 }
      { dev := hostRam ([(0x40000, 4, 7), (0x200000 + 7 * 1088, 16, 4 + 16 * 1 + 2 ^ 16 * 1 + 2 ^ 96 * 5)] ++ zeros) }
    let n := st { with5 fresh (set0 (runs 31 0 [m])) with appends := appending [{ taken9 with exhausted := true, taken := [] }] 0 }
    undisturbed s = true ∧ turn s 0 5 m = true ∧ sigsPassed s.ctl m.desc = true ∧ fresh.state = .live ∧ fresh.readers = 0 ∧
      cdiv (fresh.length + taken9.len) 16 - fresh.pages = taken9.taken.length + taken9.recycle ∧ taken9.recycle ≤ fresh.pages ∧
      fresh.length % 16 = 0 ∧ cdiv (e.length + 1) 16 - e.pages = 0 ∧ x.g = 1 ∧
      pageOk half.mems x 5 0 0 (x.addr (listed half.mems e 0) 0) 0 e = true ∧
      after (.atAppendWrite r0 .none) s (fun t => decide (devNat t.mems 0x40000 4 = 9 ∧ devNat t.mems (0x200000 + 9 * 1088) 4 = 4 + 16 * 1 + 2 ^ 16 ∧
        devNat t.mems (0x200000 + 9 * 1088 + 64) 2 = 0xBF80 ∧ (getSeq t.ctl 5).appendBusy = true)) = true ∧
      after (.atAppendWrite r0 .none) half (fun t => decide (devNat t.mems (0x200000 + 7 * 1088) 4 = 4 + 16 * 2 + 2 ^ 16 ∧
        devNat t.mems (0x200000 + 7 * 1088 + 64 + 32) 2 = 0xBF80)) = true ∧
      after (.atAppendWrite r0 .none) n (fun t => decide (t.mems.dev = [] ∧ (t.ctl.appends.map Append.pos) = [1])) = true := by decide +kernel

/-- O54: the publication of a record, of a skipped and of a faulted one. -/
theorem test_append_publish :
    let m := { appendCmd with phase := 1 }
    let e := { fresh with appendBusy := true }
    let s := fun x => st { with5 e (set0 (runs 31 0 [m])) with appends := appending [x] 1 }
    undisturbed (s taken9) = true ∧ turn (s taken9) 0 5 m = true ∧ settled (s taken9) = true ∧ sigsPassed (s taken9).ctl m.desc = true ∧ ([taken9].map AppendRec.seq).Nodup ∧
      after (.atAppendPublish r0) (s taken9) (fun t => decide ((getSeq t.ctl 5) = { fresh with pages := 1, length := 1 })) = true ∧
      after (.atAppendPublish r0) (s { taken9 with skipped := true }) (fun t => decide (getSeq t.ctl 5 = e ∧ devNat t.mems 0x30000C 4 = 9)) =
        true ∧
      after (.atAppendPublish r0) (s { taken9 with faulted := true }) (fun t => decide ((getSeq t.ctl 5).state = .faulted)) = true := by decide +kernel

/-- A device whose sequence unit runs an AT.SEQ of operation `op` on sequence 5 in set 0. -/
def seqRun (op : Nat) (e : Seq) (mem : List (Nat × Nat × Nat)) (fields : List (Nat × Nat)) : State :=
  st (with5 e (set0 (runs 0x2F 0 [cmd (dsc 0 7 0 ([(64, op), (80, 5), (192, 0x1000)] ++ fields))]))) { dev := hostRam mem }

/-- The tests of O55's hypotheses. -/
def seqOk (op : Nat) (s : State) : Bool :=
  match findCmd s.ctl r0 with
  | some m =>
    let d := m.desc
    let e := getSeq s.ctl (fld d 80 12)
    let img := devNat s.mems (64 * fld d 192 48) 32
    undisturbed s && turn s 0 7 m && decide (fld d 64 3 = op) && decide (fld d 80 12 = 5) && decide (e.readers = 0) && !e.appendBusy &&
      inDevice s.part s.ctl (seqExtent d op).1 (seqExtent d op).2 && !spanOff 0 (seqExtent d op) && seqAccepts op e.state &&
      (decide (op ≠ 3) || (decide (0 < bitsN img 0 3) && decide (bitsN img 0 3 < 4) && decide (bitsN img 6 6 = fld d 96 6)))
  | none => false

/-- O55: OPEN, CLOSE of a sequence with two page sets, PARK and RESUME. -/
theorem test_seq_open_close_park_resume :
    let two := { fresh with pages := 2, length := 20 }
    let o := seqRun 0 {} [] [(112, 64), (128, 0x3F80), (144, 0x3F80)]
    let c := seqRun 1 two [(0x40000, 8, 7 + 8 * 2 ^ 32)] []
    let p := seqRun 2 two [] []
    let r := seqRun 3 {} [(0x40000, 32, ofLE (seqImage two 0 0))] []
    seqOk 0 o = true ∧ seqOk 1 c = true ∧ seqOk 2 p = true ∧ seqOk 3 r = true ∧
      after (.atSeqOpen r0 .none) o (fun t => decide (getSeq t.ctl 5 = fresh)) = true ∧
      after (.atSeqClose r0 .none) c (fun t => decide (getSeq t.ctl 5 = {} ∧ devNat t.mems 0x30000C 8 = 8 + 7 * 2 ^ 32)) = true ∧
      after (.atSeqPark r0 .none) p (fun t => decide (getSeq t.ctl 5 = {} ∧ devNat t.mems 0x40000 32 = ofLE (seqImage two 0 0))) = true ∧
      after (.atSeqResume r0 .none) r (fun t => decide (getSeq t.ctl 5 = two)) = true := by decide +kernel

/-- O55: REARM, DROP_OLDEST of one page set, and SET_SCALE. -/
theorem test_seq_rearm_drop_scale :
    let two := { fresh with pages := 2, length := 20 }
    let a := seqRun 4 { fresh with state := .faulted } [] []
    let d := seqRun 5 two [(0x40000, 8, 7 + 8 * 2 ^ 32)] [(160, 1)]
    let c := seqRun 6 fresh [] [(128, 0x4000), (144, 0xBF80)]
    seqOk 4 a = true ∧ seqOk 5 d = true ∧ seqOk 6 c = true ∧
      after (.atSeqRearm r0 .none) a (fun t => decide (getSeq t.ctl 5 = fresh)) = true ∧
      after (.atSeqDropOldest r0 .none) d (fun t => decide (getSeq t.ctl 5 = { fresh with pages := 1, head := 1, length := 4, posBase := 16 } ∧
        devNat t.mems 0x30000C 4 = 7)) = true ∧
      after (.atSeqSetScale r0 .none) c (fun t => decide (getSeq t.ctl 5 = { fresh with kScale := 0x4000, vScale := 0x0080 })) = true := by
  decide +kernel

/-! ## The set and graph engine -/

/-- A device whose half 0 runs an SG descriptor: source at 0x100000, result at 0x110000, indices at 0x120000, AUX at
0x130000. -/
def sgDev (op : Nat) (fields : List (Nat × Nat)) (mem : List (Nat × Nat × Nat)) : State :=
  st (runs 0x28 1 [cmd (dsc 1 op 0 ([(128, 0x4000), (192, 0x4400), (256, 0x4800), (320, 0x4C00)] ++ fields))]) { dev := ram mem }

/-- The tests of O56's hypotheses. -/
def sgOk (op : Nat) (job : View → Ctl → Desc → SgJob) (s : State) : Bool :=
  match findCmd s.ctl r0 with
  | some m =>
    let d := m.desc
    let j := job s.view s.ctl d
    undisturbed s && turn s 1 op m && sgFmt (fld d 64 4) && !j.reserved && j.fmtOk && j.sizeOk &&
      (j.srcs ++ j.dsts ++ j.work).all (fun x => inDevice s.part s.ctl x.1 x.2 && !spanOff m.off x) &&
      (j.exempt || (j.dsts.all fun x => (j.srcs ++ j.work).all fun y => !(decide (x.1 < y.1 + y.2) && decide (y.1 < x.1 + x.2))))
  | none => false

/-- O56: GATHER of three INT8 rows, one by a null index and one by an index in error. -/
theorem test_sg_gather :
    let s := sgDev 0 [(64, 1), (80, 1), (96, 4), (176, 1), (240, 1), (384, 2)]
      [(0x100000, 2, 0x0B0A), (0x110000, 3, 0xFFFFFF), (0x120000, 16, 1 + 2 ^ 32 * 0xFFFFFFFF + 2 ^ 64 * 2)]
    sgOk 0 gatherJob s = true ∧ Memory.wf s.mems = true ∧
      after (.sgGather r0 .none) s (fun t => decide (devNat t.mems 0x110000 4 = 0x0A00000B)) = true := by decide +kernel

/-- O56: SCATTER of two INT32 rows added to row 1 of two. -/
theorem test_sg_scatter :
    let s := sgDev 1 [(64, 9), (80, 1), (96, 2), (176, 4), (240, 4), (384, 2), (416, 1)]
      [(0x100000, 8, 3 + 2 ^ 32 * 4), (0x110000, 8, 5 + 2 ^ 32 * 6), (0x120000, 8, 1 + 2 ^ 32)]
    sgOk 1 scatterJob s = true ∧
      after (.sgScatter r0 .none) s (fun t => decide (devNat t.mems 0x110000 8 = 5 + 2 ^ 32 * 13)) = true := by decide +kernel

/-- O56: SEGRED, the sums of a segment of two INT32 rows and of an empty one. -/
theorem test_sg_segred :
    let s := sgDev 2 [(64, 9), (80, 1), (96, 2), (176, 4), (240, 4), (384, 2)]
      [(0x100000, 8, 3 + 2 ^ 32 * 4), (0x110000, 8, 5 + 2 ^ 32 * 6), (0x130000, 12, 2 ^ 32 * 2 + 2 ^ 64 * 2)]
    sgOk 2 segredJob s = true ∧
      after (.sgSegred r0 .none) s (fun t => decide (devNat t.mems 0x110000 8 = 7)) = true := by decide +kernel

/-- O56: SORT of three INT8 keys with a tie, and TOPK of the two largest. -/
theorem test_sg_sort_topk :
    let s := sgDev 3 [(64, 1), (96, 3), (176, 1), (240, 1), (416, 0x5000)] [(0x100000, 3, 0x01FF01)]
    let k := sgDev 4 [(64, 1), (96, 3), (176, 1), (240, 1), (416, 2)] [(0x100000, 3, 0x02FF01)]
    sgOk 3 sortJob s = true ∧ sgOk 4 topkJob k = true ∧
      (sortJob s.view s.ctl (dsc 1 3 0 [(64, 1), (96, 3), (176, 1), (128, 0x4000), (240, 1), (192, 0x4400), (320, 0x4C00)])).out =
        [[(0x110000, [0xFF#8]), (0x110001, [1#8]), (0x110002, [1#8])], [], [(0x130000, leBytes 12 (1 + 2 ^ 64 * 2))]] ∧
      after (.sgTopk r0 .none) k (fun t => decide (devNat t.mems 0x110000 2 = 0x0102 ∧ devNat t.mems 0x130000 8 = 2)) = true := by
  decide +kernel

/-- O56: NMS of two equal boxes and a degenerate one keeps the first. -/
theorem test_sg_nms :
    let one := 0x3F800000
    let box := 2 ^ 64 * one + 2 ^ 96 * one
    let s := sgDev 5 [(64, 10), (96, 3), (176, 16), (432, 2), (448, 0x3F000000)] [(0x100000, 48, box + 2 ^ 128 * box)]
    sgOk 5 nmsJob s = true ∧ 1 ≤ numF ((findCmd s.ctl r0).map Cmd.desc |>.getD 0) (432, 16, 1, 4096) ∧
      after (.sgNms r0 .none) s (fun t => decide (devNat t.mems 0x110000 4 = 0 ∧ devNat t.mems 0x130000 8 = 1 + 2 ^ 32 * 3)) = true := by
  decide +kernel

/-- O56: ASSIGN of two rows to two columns at costs 1, 2; 1, 4: row 0 takes column 1 and row 1 column 0. -/
theorem test_sg_assign :
    let s := sgDev 6 [(64, 10), (96, 2), (176, 8), (384, 2), (416, 0x41200000)]
      [(0x100000, 16, 0x3F800000 + 2 ^ 32 * 0x40000000 + 2 ^ 64 * 0x3F800000 + 2 ^ 96 * 0x40800000)]
    sgOk 6 assignJob s = true ∧
      after (.sgAssign r0 .none) s (fun t => decide (devNat t.mems 0x110000 4 = 1 ∧ devNat t.mems 0x120000 4 = 1 ∧
        devNat t.mems 0x130000 8 = 2 + 2 ^ 32 * 0x40400000)) = true := by decide +kernel

/-- O56: MSGPASS of one node with neighbours 1 and null. -/
theorem test_sg_msgpass :
    let s := sgDev 7 [(64, 9), (80, 1), (96, 1), (176, 4), (240, 4), (384, 2)]
      [(0x100000, 8, 3 + 2 ^ 32 * 4), (0x120000, 8, 2 ^ 32 * 2), (0x130000, 8, 1 + 2 ^ 32 * 0xFFFFFFFF)]
    sgOk 7 msgpassJob s = true ∧
      after (.sgMsgpass r0 .none) s (fun t => decide (devNat t.mems 0x110000 4 = 4)) = true := by decide +kernel

/-! ## Sensor streams -/

/-- A descriptor of an arming: slots at 0x100000, status ring at 0x110000, parameters at 0x120000, buffer at 0x130000. -/
def armDsc (cls : Nat) (fields : List (Nat × Nat)) : Desc :=
  dsc cls 0 0 ([(192, 0x4000), (240, 2), (256, 0x4400), (304, 7)] ++ fields)

/-- IMG.PROC of stream 5: one RAW8 pixel from channel 0 of port 0, INT8 out. -/
def imgDsc : Desc := armDsc 3 [(68, 5), (88, 1), (96, 1), (112, 1), (128, 1), (144, 1), (160, 1), (320, 0x4800), (368, 0x4C00)]

/-- VD.DECODE of stream 5: 16 × 16 from flow 3. -/
def vdDsc : Desc := armDsc 2 [(68, 5), (80, 3), (96, 16), (112, 16), (128, 1), (320, 0x4C00), (368, 1)]

/-- PTS.VOXEL of stream 5 from flow 3. -/
def ptsDsc : Desc :=
  armDsc 4 [(68, 5), (80, 3), (88, 1), (96, 4), (112, 4), (128, 1), (160, 1), (320, 0x4800), (368, 0x4A00), (416, 0x4C00), (464, 1)]

/-- Its parameter block: one record of 16 bytes, FP32 coordinates at 0, time from the frame's stamp, dt at 12. -/
def lidarParams : List Byte :=
  leBytes 128 (16 * 2 ^ 16 + 2 ^ 32 + 6 * 2 ^ 48 + 2 ^ 80 * 0xFFFF + 12 * 2 ^ 96 + 2 ^ 128 * 0xFFFF)

/-- Flow 3: valid, MAC 0, port 5000, any source. -/
def flow3 (c : Ctl) : Ctl := odd [(0x2330, 4, 8 + 5000 * 65536)] c

/-- A running stream of a descriptor. -/
def running (d : Desc) : Stream := { state := .running, arm := { desc := d, number := 1 } }

/-- STOP in place of ARM. -/
def stopping (d : Desc) : Desc := d ||| (1#512 <<< 64)

/-- O57: an image stream is armed afresh, armed again, and stopped; one that takes decoded pictures. -/
theorem test_img_arm_stop :
    let m := cmd imgDsc
    let s := st (upQ 3 [m])
    let x := { running imgDsc with cur := some { seq := 4, lines := [[1#8]] }, seq := 5 }
    let o := st { upQ 3 [m] with img := [(5, x)] }
    let z := cmd (stopping imgDsc)
    let h := st { upQ 3 [z] with img := [(5, x)] }
    let v := imgDsc ||| (1#512 <<< 66) ||| (6#512 <<< 80)
    undisturbed s = true ∧ turn s 3 0 m = true ∧ turn o 3 0 m = true ∧ fld imgDsc 68 6 = 5 ∧ fld imgDsc 64 2 = 0 ∧ fld imgDsc 66 2 ≠ 1 ∧ imgCheck s.part s.ctl 0 5 imgDsc = none ∧
      imgCheck o.part o.ctl 0 5 imgDsc = none ∧ fld v 66 2 = 1 ∧ hasVd s.part = true ∧ imgCheck s.part s.ctl 0 5 v = none ∧
      turn h 3 0 z = true ∧ aheadOf h.ctl.time = true ∧ fld z.desc 64 2 = 1 ∧
      after (.imgProcArm r0 .none) s (fun t => decide ((getS t.ctl 3 5).state = .running ∧ odVal t.part t.ctl 0x2300 1 = 1)) = true ∧
      after (.imgProcArm r0 .none) o (fun t => decide ((getS t.ctl 3 5).seq = 0 ∧ (getS t.ctl 3 5).cur = x.cur)) = true ∧
      after (.imgProcStop r0) h (fun t => decide ((getS t.ctl 3 5).state = .idle ∧ odVal t.part t.ctl 0x2300 1 = 0)) = true := by
  decide +kernel

/-- O57: video and point-cloud streams are armed and stopped. -/
theorem test_vd_pts_arm_stop :
    let v := cmd vdDsc
    let s := st (flow3 (upQ 2 [v]))
    let z := cmd (stopping vdDsc)
    let h := st { upQ 2 [z] with vd := [(5, running vdDsc)] }
    let q := cmd ptsDsc
    let u := st (flow3 (upQ 4 [q])) { dev := (lidarParams.zipIdx.map fun b => (0x120000 + b.2, b.1)).filter fun e => e.2 ≠ 0 }
    let y := cmd (stopping ptsDsc)
    let g := st { upQ 4 [y] with pts := [(5, running ptsDsc)] }
    undisturbed s = true ∧ undisturbed u = true ∧ turn s 2 0 v = true ∧ numF vdDsc (68, 6, 0, 47) = 5 ∧ fld vdDsc 64 2 = 0 ∧ vdCheck s.part s.ctl 0 5 vdDsc = none ∧
      turn h 2 0 z = true ∧ fld z.desc 64 2 = 1 ∧
      turn u 4 0 q = true ∧ fld ptsDsc 68 3 = 5 ∧ fld ptsDsc 64 2 = 0 ∧ ptsCheck u.view u.ctl 0 5 ptsDsc = none ∧
      turn g 4 0 y = true ∧ fld y.desc 64 2 = 1 ∧
      after (.vdDecodeArm r0 .none) s (fun t => decide ((getS t.ctl 2 5).state = .running ∧ odVal t.part t.ctl 0x2300 2 = 256)) = true ∧
      after (.vdDecodeStop r0) h (fun t => decide ((getS t.ctl 2 5).state = .idle)) = true ∧
      after (.ptsVoxelArm r0 .none) u (fun t => decide ((getS t.ctl 4 5).state = .running ∧ (getS t.ctl 4 5).arm.params = lidarParams)) = true ∧
      after (.ptsVoxelStop r0) g (fun t => decide ((getS t.ctl 4 5).state = .idle)) = true := by decide +kernel

/-- A device whose image stream 5 takes channel 0 of port 0. -/
def camera (x : Stream) : Ctl := { odd [(0x2304, 1, 65536)] up with img := [(5, x)] }

/-- O58: a frame start, its line, its end; header and checksum errors, of a RUNNING and of a HALTED stream. -/
theorem test_csi :
    let a := running imgDsc
    let x : Sample := { arm := a.arm, num := 9, info0 := 9 }
    let f := { a with seq := 1, started := true, cur := some x }
    let w := { f with cur := some { x with lines := [[7#8]] } }
    let s := st (camera a)
    let b := st (camera f)
    let e := st (camera w)
    let h := st (camera { f with state := .halted })
    csiStream s.part s.ctl 0 0 = some 5 ∧ csiStream b.part b.ctl 0 0 = some 5 ∧ csiStream e.part e.ctl 0 0 = some 5 ∧ a.cur = none ∧
      csiStream h.part h.ctl 0 0 = some 5 ∧ (getS h.ctl 3 5).state = .halted ∧
      ignoredType 0x2A = false ∧ dataType (fld imgDsc 80 4) = 0x2A ∧ lineBytes (fld imgDsc 80 4) (inW imgDsc) = 1 ∧ inH imgDsc = 1 ∧
      after (.csi2FrameStart 0 0 9 .ok 5#64) s (fun t => decide ((getS t.ctl 3 5).cur = some { x with stamp := 5 })) = true ∧
      after (.csi2LongPacket 0 0 0x2A [7#8] .corrected true) b (fun t => decide ((getS t.ctl 3 5).cur = some { x with lines := [[7#8]] } ∧
        odVal t.part t.ctl 0x2300 5 = 1)) = true ∧
      after (.csi2FrameEnd 0 0 9 .ok) e (fun t => decide ((getS t.ctl 3 5).cur = none ∧ (getS t.ctl 3 5).done.length = 1)) = true ∧
      after (.csi2FrameEnd 0 0 9 .bad) e (fun t => decide ((getS t.ctl 3 5).state = .halted ∧ (getS t.ctl 3 5).cause = 1)) = true ∧
      after (.csi2LongPacket 0 0 0x2A [7#8] .ok false) b (fun t => decide ((getS t.ctl 3 5).cause = 2)) = true ∧
      after (.csi2FrameEnd 0 0 9 .bad) h (fun t => decide ((getS t.ctl 3 5).cur = none)) = true := by decide +kernel

/-- An RTP packet with a sequence number, RTP timestamp 9 and the marker bit. -/
def rtp (n : Nat) : List Byte := [0x80#8, 0xE0#8] ++ beBytes 2 n ++ beBytes 4 9 ++ beBytes 4 0

/-- What the parser finds in a 16 × 16 random-access unit. -/
def parsed : AuParse :=
  { randomAccess := true, rasl := false, width := 16, height := 16, cropW := 16, cropH := 16, depth := 8, levelOk := true
    dpbUnits := 1, error := false, order := 0, shown := true }

/-- O58: packets in sequence, after a gap, and of the new flow once the unit of the old one waits for its end. -/
theorem test_rtp :
    let g : Dgram := ⟨rtp 7, 3, 100, false, 0, 0, none⟩
    let x := { running vdDsc with inbox := [g], last := 7 }
    let o : Sample := { arm := { (running vdDsc).arm with desc := vdDsc + (1#512 <<< 80), number := 0 }, num := 8 }
    let s := st { up with vd := [(5, x)] }
    let p := st { up with vd := [(5, { x with last := 5, started := true })] }
    let k := st { up with vd := [(5, { x with inbox := [{ g with flow := 4 }], cur := some o })] }
    ingestRuns s.ctl 40 = true ∧ isRtp g.bytes = true ∧ ofArm g x.arm = true ∧ fieldBE g.bytes 2 2 = 7 ∧ fieldBE g.bytes 4 4 = 9 ∧
      o.arm.number ≠ x.arm.number ∧ ofArm { g with flow := 4 } o.arm = true ∧ ofArm { g with flow := 4 } x.arm = false ∧
      after (.rtpPacket 5) s (fun t => decide ((getS t.ctl 2 5).units.length = 1 ∧ (getS t.ctl 2 5).last = 8)) = true ∧
      after (.rtpPacket 5) p (fun t => decide ((getS t.ctl 2 5).units.map Sample.lost = [true])) = true ∧
      after (.rtpPacket 5) k (fun t => decide ((getS t.ctl 2 5).units = [o] ∧ (getS t.ctl 2 5).cur = none)) = true := by decide +kernel

/-- O58: an access unit skipped, refused for its size, for a loss, for an error, and decoded; a picture taken. -/
theorem test_access_unit :
    let a : Sample := { arm := (running vdDsc).arm, num := 9 }
    let x := { running vdDsc with units := [a] }
    let s := st { up with vd := [(5, x)] }
    let l := st { up with vd := [(5, { x with units := [{ a with lost := true }] })] }
    let d := imgDsc ||| (1#512 <<< 66) ||| (6#512 <<< 80)
    let q : Picture := ⟨0x140000, 64, 1, 1, 100, 0⟩
    let i := st { up with img := [(5, { running d with pics := [q] })] }
    ingestRuns s.ctl 40 = true ∧ fromJournal a.arm = false ∧ (dimClaim vdDsc parsed || badStream vdDsc parsed) = false ∧ pdOn i.ctl 41 = true ∧
      enginesRun i.ctl = true ∧ q.width = inW d ∧ q.height = inH d ∧
      after (.accessUnitEnd 5 { parsed with randomAccess := false } false) s (fun t => decide ((getS t.ctl 2 5).leading = true ∧
        odVal t.part t.ctl 0x2300 6 = 1)) = true ∧
      after (.accessUnitEnd 5 { parsed with width := 17 } false) s (fun t => decide ((getS t.ctl 2 5).cause = 4)) = true ∧
      after (.accessUnitEnd 5 parsed false) l (fun t => decide ((getS t.ctl 2 5).cause = 6)) = true ∧
      after (.accessUnitEnd 5 { parsed with error := true } false) s (fun t => decide ((getS t.ctl 2 5).cause = 5)) = true ∧
      after (.accessUnitEnd 5 parsed false) s (fun t => decide ((getS t.ctl 2 5).done.map Sample.height = [16] ∧
        (getS t.ctl 2 5).started = true)) = true ∧
      after (.imgDecodedPicture 5) i (fun t => decide ((getS t.ctl 3 5).done.map Sample.stamp = [100] ∧ (getS t.ctl 3 5).seq = 1)) = true := by
  decide +kernel

/-- A point-cloud stream of period 100 µs with a datagram waiting. -/
def cloud (len : Nat) : Ctl :=
  { up with
    time := { period := 6553600000 }
    pts := [(5, { running ptsDsc with arm := { desc := ptsDsc, number := 1, params := lidarParams }, inbox := [⟨List.replicate len 0, 3, 0, false, 0, 0, none⟩] })] }

/-- O59: the point of a datagram joins its window; a datagram of another length halts; a window closes, live and of recorded
time. -/
theorem test_lidar :
    let s := st (cloud 16)
    let b := st (cloud 17)
    let x := getS s.ctl 4 5
    let q := ptsParam x.arm.params
    let jr := { running (ptsDsc ||| (2#512 <<< 66)) with pts := [⟨0, 0, 0, 0, 0, 0⟩] }
    let z := st { up with time := { period := 6553600000 }, journal := { clock := 2 ^ 40 }, pts := [(5, jr)] }
    ingestRuns s.ctl 42 = true ∧ x.state = .running ∧ fromJournal x.arm = false ∧ eraAt x false (windowStart s.ctl 0) = some 0 ∧
      x.before.length = 0 ∧ fld ptsDsc 74 1 = 0 ∧ recordedWindow x = none ∧ x.eras.findIdx? (fun e => !fromJournal e.arm) = some 0 ∧
      (recordedWindow jr).isSome = true ∧
      (jr.pts.map fun y => decide (y.win + z.ctl.time.period + (ptsParam jr.arm.params).closeLag * us ≤ z.ctl.journal.clock)) = [true] ∧
      x.inbox.map (readDatagram s.ctl x.present q) = [.inr [⟨0, 0, 0, 0, 0, 0⟩]] ∧
      ((getS b.ctl 4 5).inbox.map (readDatagram b.ctl (getS b.ctl 4 5).present q)) = [.inl 7] ∧
      after (.lidarDatagram 5) s (fun t => decide ((getS t.ctl 4 5).pts = [⟨0, 0, 0, 0, 0, 0⟩])) = true ∧
      after (.lidarDatagram 5) b (fun t => decide ((getS t.ctl 4 5).cause = 7)) = true ∧
      after (.lidarWindowClose 5 false) s (fun t => decide ((getS t.ctl 4 5).win = 6553600000 ∧ (getS t.ctl 4 5).done.map Sample.flags = [0])) =
        true ∧
      after (.lidarWindowClose 5 false) z (fun t => decide ((getS t.ctl 4 5).pts = [] ∧ (getS t.ctl 4 5).done.length = 1)) =
        true := by decide +kernel

/-- O59: a sample of each engine is written, and one of each waits for its batch. -/
theorem test_samples_written :
    let j := fun (d : Desc) => d ||| (2#512 <<< 66)
    let w := fun (d : Desc) => { running d with done := [{ arm := (running d).arm, depth := 8 }] }
    let s := fun (d : Desc) => st { up with img := [(5, w d)], vd := [(5, w d)], pts := [(5, w d)] }
    enginesRun (s 0).ctl = true ∧ pdOn (s 0).ctl 40 = true ∧ pdOn (s 0).ctl 41 = true ∧ pdOn (s 0).ctl 42 = true ∧ armSource (w (j imgDsc)).arm = 2 ∧
      armSource (w imgDsc).arm = 0 ∧ armSource (w (j vdDsc)).arm = 2 ∧ armSource (w vdDsc).arm = 0 ∧ armSource (w (j ptsDsc)).arm = 2 ∧
      armSource (w ptsDsc).arm = 0 ∧ nextPicture (w vdDsc).done = (w vdDsc).done.head? ∧ Memory.wf (s 0).mems = true ∧
      (List.range 32).all (fun k => (looseSpans (s imgDsc).part (s imgDsc).ctl).all fun x =>
        decide (0x110000 + k < x.1) || decide (x.1 + x.2 ≤ 0x110000 + k)) = true ∧
      after (.vdPictureOutput 5) (s vdDsc) (fun t => decide ((getS t.ctl 2 5).seq = 1 ∧ getSync t.ctl 7 = 1)) = true ∧
      after (.vdPictureOutput 5) (s (j vdDsc)) (fun t => decide (t.ctl.journal.ready.length = 1)) = true ∧
      after (.lidarSampleWritten 5) (s ptsDsc) (fun t => decide ((getS t.ctl 4 5).done = [] ∧ getSync t.ctl 7 = 1)) = true ∧
      after (.lidarSampleWritten 5) (s (j ptsDsc)) (fun t => decide (t.ctl.journal.ready.length = 1)) = true := by decide +kernel

/-- A frame of 60 bytes with a UDP datagram of 4 bytes to port 5000. -/
def udpFrame : List Byte :=
  List.replicate 12 0 ++ beBytes 2 0x0800 ++ beBytes 20 (0x4500002000000000401 * 2 ^ 84 + 0x17ACE * 2 ^ 64) ++ beBytes 2 0 ++ beBytes 2 5000 ++
    beBytes 2 12 ++ beBytes 2 0 ++ [1#8, 2#8, 3#8, 4#8] ++ List.replicate 14 0

/-- O59: a frame with a bad check sequence is counted; one with a good datagram reaches the stream of its flow. -/
theorem test_frame :
    let s := st { odd [(0x2911, 1, 1), (0x2330, 4, 8 + 5000 * 65536)] up with pts := [(5, running ptsDsc)] }
    macRuns s.part s.ctl 0 = true ∧ udpFrame.length = 60 ∧ macAccepts s.part s.ctl 0 (fieldBE udpFrame 0 6) = true ∧
      udpOf udpFrame = some ⟨0, 5000, [1#8, 2#8, 3#8, 4#8]⟩ ∧ tidy {} s.ctl.vd = true ∧ tidy {} s.ctl.pts = true ∧
      (flowsOf 4 false (running ptsDsc)).find? (fun f => flowMatches s.part s.ctl f 0 ⟨0, 5000, [1#8, 2#8, 3#8, 4#8]⟩) = some 3 ∧
      after (.ethernetFrameReceived 0 udpFrame false 0#64) s (fun t => decide (odVal t.part t.ctl 0x2912 1 = 1)) = true ∧
      after (.ethernetFrameReceived 0 udpFrame true 0#64) s (fun t => decide ((getS t.ctl 4 5).inbox.map Dgram.bytes =
        [[1#8, 2#8, 3#8, 4#8]])) = true := by decide +kernel

/-- O59: a column joins the reflex queue, or is dropped; a result is voted on. -/
theorem test_reflex :
    let e : Nat × Nat × List Pt := (5, 1, [])
    let s := st { up with safety := { mode := .inService, columns := [e] } }
    let f := st { up with safety := { mode := .inService, columns := [e], reflex := List.replicate 16 (5, 0, 0, 0, 0) } }
    let v := st (odd [(0x2710, 1, 1), (0x2710, 2, 9), (0x2430, 10, 3)] { up with safety := { mode := .inService, reflex := [(5, 77, 3, 2, 1)] } })
    s.ctl.safety.columns = [e] ∧ s.ctl.safety.reflex.length < 16 ∧ 16 ≤ f.ctl.safety.reflex.length ∧ odVal v.part v.ctl 0x2710 1 ≠ 0 ∧
      effVal v.part v.ctl 0x2710 2 = 9 ∧ (fifoAgents v.part v.ctl 9).1 = 3 ∧ (getFifo v.ctl 9).words.length + 2 ≤ 64 ∧
      v.ctl.safety.mode = .inService ∧ v.ctl.safety.entries = [] ∧ v.ctl.safety.slice = none ∧
      after .reflexColumn s (fun t => decide (t.ctl.safety.reflex = [(5, 0, inf32, 0, 1)])) = true ∧
      after .reflexColumn f (fun t => decide (odVal t.part t.ctl 0x2710 0xA = 1)) = true ∧
      after (.reflexVote .agree) v (fun t => decide ((getFifo t.ctl 9).words =
        [(77#64, false), (BitVec.ofNat 64 (3 + 2 * 2 ^ 32 + 5 * 2 ^ 48 + 2 ^ 52), true)])) = true ∧
      after (.reflexVote (.outvoted 1)) v (fun t => decide (odVal t.part t.ctl 0x2710 0xB = 1)) = true ∧
      after (.reflexVote .differ) v (fun t => decide (t.ctl.safety.mode = .safeState ∧ odVal t.part t.ctl 0x2700 4 = 4)) = true := by
  decide +kernel

/-! ## The ferry and the crypto engine -/

/-- O60: DM.COPY within the device, out to the host and in from it. -/
theorem test_copy :
    let d := fun (f : Nat) => dsc 5 0 0 [(64, f), (80, 3), (112, 2), (128, 0x4000), (192, 0x4400), (256, 1), (288, 1)]
    let s := fun (f : Nat) => st (runs 0x2D 5 [cmd (d f)]) { dev := ram [(0x100000, 3, 0x030201), (0x100040, 3, 0x060504)]
                                                             host := hostRam [(0x100000, 3, 0x0C0B0A), (0x100040, 3, 0x0F0E0D)] }
    let rows := copyRows (d 0)
    undisturbed (s 0) = true ∧ turn (s 0) 5 0 (cmd (d 0)) = true ∧ turn (s 1) 5 0 (cmd (d 1)) = true ∧ turn (s 2) 5 0 (cmd (d 2)) = true ∧
      rows = [(0x100000, 0x110000), (0x100040, 0x110040)] ∧ numF (d 0) (80, 24, 1, 16777215) = 3 ∧
      rows.all (fun x => inFerry (s 0).part (s 0).ctl x.1 3 && inFerry (s 0).part (s 0).ctl x.2 3 && !spanOff 0 (x.1, 3) &&
        !spanOff 0 (x.2, 3) && decide (x.2 + 3 ≤ 2 ^ 64)) = true ∧
      rows.any (fun x => rows.any fun y => meet 3 x.1 y.2) = false ∧ ringSpoiled (s 0).part (s 0).ctl (d 0) rows 3 = false ∧
      ringSpoiled (s 1).part (s 1).ctl (d 1) rows 3 = false ∧
      after (.dmCopy r0 .none) (s 0) (fun t => decide (devNat t.mems 0x110000 3 = 0x030201 ∧ devNat t.mems 0x110040 4 = 0x060504)) = true ∧
      after (.dmCopy r0 .none) (s 1) (fun t => decide (devNat t.mems 0x110000 3 = 0x0C0B0A)) = true ∧
      after (.dmCopy r0 .none) (s 2) (fun t => decide ((hostBytes t.mems 0x110040 3) = [4#8, 5#8, 6#8])) = true := by decide +kernel

/-- O60: a DM.COPY of 80000 bytes takes two pieces; a piece of a later phase of a shorter one is its end. -/
theorem test_copy_pieces :
    let d := dsc 5 0 0 [(80, 40000), (112, 2), (128, 0x4000), (192, 0x8000), (256, 1000), (288, 1000)]
    let s := st (runs 0x2D 5 [cmd d])
    let e := { cmd (dsc 5 0 0 [(80, 3), (112, 1), (128, 0x4000), (192, 0x4400)]) with phase := 1 }
    let l := st (runs 0x2D 5 [e])
    let rows := copyRows d
    undisturbed s = true ∧ turn s 5 0 (cmd d) = true ∧ turn l 5 0 e = true ∧ pieceBytes < 40000 * rows.length ∧
      rows.all (fun x => inFerry s.part s.ctl x.1 40000 && inFerry s.part s.ctl x.2 40000) = true ∧
      rows.any (fun x => rows.any fun y => meet 40000 x.1 y.2) = false ∧ ringSpoiled s.part s.ctl d rows 40000 = false ∧
      after (.dmCopy r0 .none) l (fun t => decide ((getQ t.ctl 0).cmds.map Cmd.stage = [.executed])) = true := by decide +kernel

/-- A device whose ferry converts one line of two INT8 elements at 0x100000 to 0x110000, directories at 0x400 and
groups from unit 32. -/
def lay (code : Nat) (mem : List (Nat × Nat × Nat)) : State :=
  st (runs 0x2D 5 [cmd (dsc 5 1 0 [(64, code), (68, 1), (80, 1), (96, 1), (112, 2), (128, 1), (136, 2), (192, 0x4000), (256, 0x4400), (320, 1),
    (336, 1), (352, 1), (368, 1), (384, 1), (400, 1), (416, 16), (432, 16), (448, 32)])]) { dev := ram mem }

/-- The tests of O60's hypotheses on a conversion. -/
def layOk (code : Nat) (s : State) : Bool :=
  match findCmd s.ctl r0 with
  | some m =>
    let d := m.desc
    let a := layoutSrc d
    let b := layoutDst d
    undisturbed s && turn s 5 1 m && decide (fld d 64 4 = code) && decide (fld d 68 4 = 1) && decide (numF d (80, 16, 1, 65535) = 1) &&
      decide (numF d (96, 16, 1, 8192) = 1) && decide (numF d (112, 16, 1, 8192) = 2) &&
      (layoutReads d 1 1 1 2 a ++ layoutGroups s.mems 1 1 1 2 a ++ layoutStores d 1 1 1 2 b).all fun x =>
        inFerry s.part s.ctl x.1 x.2 && !spanOff m.off x
  | none => false

/-- O60: the six conversions. -/
theorem test_layout :
    let line := [(0x100000, 2, 0x0201)]
    let ci := lay 0 line
    let pl := lay 1 [(0x100000, 1, 1), (0x100040, 1, 2)]
    let zp := lay 2 [(0x100400, 8, 0x8000)]
    let pz := lay 3 [(0x100000, 2, 0x0200)]
    let rb := lay 4 [(0x100400, 8, 0x8000)]
    let ph := lay 5 [(0x100000, 1, 1), (0x100400, 1, 2)]
    layOk 0 ci = true ∧ layOk 1 pl = true ∧ layOk 2 zp = true ∧ layOk 3 pz = true ∧ layOk 4 rb = true ∧ layOk 5 ph = true ∧
      after (.planarToCi r0 .none) ci (fun t => decide (devNat t.mems 0x110000 2 = 1 ∧ devNat t.mems 0x110040 2 = 2)) = true ∧
      after (.ciToPlanar r0 .none) pl (fun t => decide (devNat t.mems 0x110000 3 = 0x0201)) = true ∧
      after (.zbtToPlanar r0 .none) zp (fun t => decide (devNat t.mems 0x110000 2 = 0)) = true ∧
      after (.planarToZbt r0 .none) pz (fun t => decide (devNat t.mems 0x110400 2 = 32 ∧ devNat t.mems 0x110800 9 = 2 + 2 ^ 64 * 2)) = true ∧
      after (.zbtRebase r0 .none) rb (fun t => decide (devNat t.mems 0x110400 2 = 0x8000)) = true ∧
      after (.phaseInterleave r0 .none) ph (fun t => decide (devNat t.mems 0x110000 2 = 0x0201)) = true := by decide +kernel

/-- A DM.REPLAY of two samples, one a batch, with its table at 0x100000. -/
def repDsc : Desc := dsc 5 3 0 [(80, 1), (128, 2), (192, 2), (256, 0x4000)]

/-- A journal with its records at 0x200000 and payloads at 0x300000. -/
def ring (c : Ctl) : Ctl := odd [(0x2310, 2, 0x8000), (0x2310, 3, 16), (0x2310, 4, 0xC000), (0x2310, 5, 4096)] c

/-- A replay in execution. -/
def playing (x : Replay) : Ctl :=
  { ring (runs 0x2D 5 [{ cmd repDsc with phase := 1 }]) with journal := { replay := some x } }

/-- O60: a replay begins, or finds both samples excluded. -/
theorem test_replay_start :
    let m := cmd repDsc
    let s := st (ring (runs 0x2D 5 [m]))
    let e := st (ring (runs 0x2D 5 [m])) { dev := ram [(0x100008, 1, 1), (0x100018, 1, 1)] }
    undisturbed s = true ∧ turn s 5 3 m = true ∧ turn e 5 3 m = true ∧ m.phase = 0 ∧ s.ctl.journal.replay = none ∧ inFerry s.part s.ctl (repTable repDsc) (16 * repN repDsc) = true ∧
      spanOff 0 (repTable repDsc, 16 * repN repDsc) = false ∧ skipTo s.mems repDsc (repCount repDsc) (repStart repDsc) = 0 ∧
      repStart repDsc + repCount repDsc = 2 ∧ skipTo e.mems repDsc (repCount repDsc) (repStart repDsc) = 2 ∧
      after (.dmReplay r0 .none) s (fun t => decide (t.ctl.journal.replay = some ⟨r0, 0, 2, 0, 0, none, none⟩)) = true ∧
      after (.dmReplay r0 .none) e (fun t => decide (t.ctl.journal.replay = none ∧ (getQ t.ctl 0).cmds.map Cmd.stage = [.executed])) = true := by
  decide +kernel

/-- O60: a delivery draws a sample, delivers a STATE record, meets a GAP and a wrong CHECK, and ends a sample. -/
theorem test_replay_delivery :
    let pay := leBytes 16 (2 ^ 64 * 5)
    let table := [(0x100000, 8, 3 + 2 ^ 32)]
    let rec_ := fun (kind check : Nat) => (0x200060, 32, kind + 2 ^ 32 * 16 + 2 ^ 64 * 77 + 2 ^ 160 * check + 2 ^ 192 * 0xC000)
    let mems := fun (kind check : Nat) => { dev := ram (table ++ [rec_ kind check, (0x300000, 16, ofLE pay)]) : Mems }
    let x : Replay := { ref := r0, pos := 0, stop := 2, base := 0 }
    let y := { x with pos := 1, drawn := 1, cur := some (0, 0, 3, 4) }
    let z := { y with cur := some (0, 0, 4, 4) }
    let s := st (playing x) (mems 7 0)
    let g := st (playing y) (mems 7 (crc32c pay))
    let gap := st (playing y) (mems 6 0)
    let bad := st (playing y) (mems 7 (crc32c pay + 1))
    let e := st (playing z) (mems 7 0)
    replaying s.ctl = some (x, repDsc) ∧ replaying g.ctl = some (y, repDsc) ∧ replaying e.ctl = some (z, repDsc) ∧ enginesRun s.ctl = true ∧
      inboxesEmpty s.ctl = true ∧ skipTo s.mems repDsc 2 0 = 0 ∧ repBatch repDsc = 1 ∧ batchTooBig s.view s.ctl repDsc x = false ∧
      (readRec g.view g.ctl 3).kind = 7 ∧ crc32c (payload g.view g.ctl (readRec g.view g.ctl 3)) = (readRec g.view g.ctl 3).check ∧
      frameTooLong g.ctl (readRec g.view g.ctl 3) = false ∧ (readRec gap.view gap.ctl 3).kind = 6 ∧
      tooManyRecs gap.part gap.ctl (readRec gap.view gap.ctl 3) (payload gap.view gap.ctl (readRec gap.view gap.ctl 3)) = false ∧
      tooManyRecs bad.part bad.ctl (readRec bad.view bad.ctl 3) (payload bad.view bad.ctl (readRec bad.view bad.ctl 3)) = false ∧
      crc32c (payload bad.view bad.ctl (readRec bad.view bad.ctl 3)) ≠ (readRec bad.view bad.ctl 3).check ∧
      after .replayRecordDelivery s (fun t => decide (t.ctl.journal.replay = some y)) = true ∧
      after .replayRecordDelivery g (fun t => decide (t.ctl.journal.clock = 77 ∧ t.ctl.journal.offset = some 5)) = true ∧
      after .replayRecordDelivery gap (fun t => decide (t.ctl.journal.replay = none ∧ (getQ t.ctl 0).cmds.map Cmd.status = [5])) = true ∧
      after .replayRecordDelivery bad (fun t => decide (t.ctl.journal.replay = none)) = true ∧
      after .replayRecordDelivery e (fun t => decide (t.ctl.journal.replay = some { y with cur := none })) = true := by decide +kernel

/-- O60: a batch is emitted, with another to follow, and as the last. -/
theorem test_batch :
    let p : Sample := { arm := { desc := imgDsc ||| (2#512 <<< 66) }, info0 := 6 }
    let x : Replay := { ref := r0, pos := 1, stop := 2, base := 0, drawn := 1 }
    let on := fun (x : Replay) => { playing x with journal := { replay := some x, ready := [⟨3, 5, p⟩] } }
    let s := st (on x)
    let l := st (on { x with pos := 2 })
    replaying s.ctl = some (x, repDsc) ∧ enginesRun s.ctl = true ∧ inboxesEmpty s.ctl = true ∧ allProcessed s.ctl = true ∧ repBatch repDsc = 1 ∧
      skipTo s.mems repDsc 1 1 = 1 ∧ skipTo l.mems repDsc 0 2 = 2 ∧
      after .batchEmitted s (fun t => decide (t.ctl.journal.replay = some ⟨r0, 1, 2, 1, 0, none, none⟩ ∧ t.ctl.journal.ready = [] ∧
        getSync t.ctl 7 = 1 ∧ devNat t.mems 0x110010 4 = 6)) = true ∧
      after .batchEmitted l (fun t => decide (t.ctl.journal.replay = none ∧ (getQ t.ctl 0).cmds.map Cmd.stage = [.executed])) = true := by
  decide +kernel

/-- O60: the crypto engine's commands. -/
theorem test_cry :
    let d := fun (op : Nat) => dsc 6 op 0 [(64, 0x4000), (128, 3), (160, 0x4400), (224, 2048), (256, 0x4800)]
    let s := fun (op : Nat) => st (runs 0x2E 6 [cmd (d op)])
    [0, 1, 2].all (fun op => undisturbed (s op) && turn (s op) 6 op (cmd (d op)) &&
      [(0x100000, 3), (0x110000, 2048), (0x120000, 265)].all fun x => inDevice (s op).part (s op).ctl x.1 x.2 && !spanOff 0 x) = true ∧
      fld (d 2) 224 32 = 2048 := by decide +kernel

/-! ## Well-formed commands -/

/-- No command of a list is well-formed. -/
def refused (l : List Instr) : Bool := l.all fun i => !i.wf

/-- Queue 73728, which is none. -/
def rBad : Ref := ⟨73728, 0⟩

/-- A write whose value does not fit its size. -/
def wBad : OdW := ⟨.can, 256, 1⟩

/-- A queue and an index in range, and each out of range. -/
theorem test_wf_ref : (Ref.wf ⟨73727, 65535⟩ = true ∧ rBad.wf = false ∧ Ref.wf ⟨0, 65536⟩ = false) := by decide
/-- Cells of the array and bytes of a scratch. -/
theorem test_wf_upset : (Upset.wf (.cell true 15 15) = true ∧ Upset.wf (.cell true 16 0) = false ∧ Upset.wf (.cell true 0 16) = false ∧
    Upset.wf (.mem true (2 ^ 54)) = false ∧ Upset.wf (.mem false (2 ^ 54 - 1)) = true) := by decide
/-- Mailboxes of the physical functions only. -/
theorem test_wf_path : (Path.wf (.mailbox 9) = true ∧ Path.wf (.mailbox 1) = false) := by decide
/-- A value that fits its size. -/
theorem test_wf_odw : (OdW.wf ⟨.can, 255, 1⟩ = true ∧ wBad.wf = false ∧ OdW.wf ⟨.mailbox 2, 0, 1⟩ = false) := by decide
/-- Client, isle and mask of a spill. -/
theorem test_wf_spill : (SpillReq.wf (.queued rBad) = false ∧ SpillReq.wf (.device 256 0 0 false) = false ∧
    SpillReq.wf (.device 0 8 0 false) = false ∧ SpillReq.wf (.device 0 0 16 false) = false ∧ SpillReq.wf (.device 255 7 15 true) = true) := by
  decide
/-- MAC and domain of a time message. -/
theorem test_wf_gptp : (Gptp.wf ⟨5, 255, 0, true, 0, 0⟩ = true ∧ Gptp.wf ⟨6, 0, 0, true, 0, 0⟩ = false ∧
    Gptp.wf ⟨0, 256, 0, true, 0, 0⟩ = false) := by decide

/-- A heartbeat whose fields are all 0. -/
def beat0 : Heartbeat :=
  { crcOk := true, src := 0, role := 0, safety := 0, timeState := 0, faultOpen := false, yield := false, serial := 0, sent := 0, fenced := 0 }

/-- A flit of one byte. -/
def flit1 : Flit :=
  { dest := 0, src := 0, hops := 0, rxCh := 0, txCh := 0, first := true, last := true, msgSeq := 0, payload := [0#8] }

/-- Each field of a heartbeat. -/
theorem test_wf_heartbeat : beat0.wf = true ∧ [{ beat0 with src := 16 }, { beat0 with role := 256 }, { beat0 with safety := 256 },
    { beat0 with timeState := 256 }, { beat0 with serial := 2 ^ 32 }, { beat0 with fenced := 256 }].all (fun h => !h.wf) = true := by decide
/-- Each field of a flit. -/
theorem test_wf_flit : flit1.wf = true ∧ [{ flit1 with dest := 16 }, { flit1 with src := 16 }, { flit1 with hops := 16 }, { flit1 with rxCh := 32 },
    { flit1 with txCh := 32 }, { flit1 with msgSeq := 65536 }, { flit1 with payload := [] },
    { flit1 with payload := List.replicate 241 0#8 }].all (fun h => !h.wf) = true := by decide +kernel
/-- A causeway ID. -/
theorem test_wf_member : Member.wf ⟨15, true, true, true⟩ = true ∧ Member.wf ⟨16, true, true, true⟩ = false := by decide
/-- Each numbered checker. -/
theorem test_wf_checker : Checker.wf (.dram 1 11) = true ∧ [Checker.cells 32, .sigBlock 32, .sigHalf 2, .scratch 32, .lagoon 8, .dram 2 0,
    .dram 0 12, .clusterSram 3].all (fun c => !c.wf) = true := by decide
/-- The FIFO and the pair of an output. -/
theorem test_wf_core_value : CoreVal.wf (.fifo 1023 0 true) = true ∧ CoreVal.wf (.fifo 1024 0 true) = false ∧ CoreVal.wf (.grant 32768) = false := by
  decide
/-- A collector and a lane. -/
theorem test_wf_collector_lanes : Collector.wf (.block 32) = false ∧ Collector.wf (.isle 8) = false ∧ Collector.wf (.isle 7) = true ∧
    Lanes.wf (.outvoted 3) = false ∧ Lanes.wf (.outvoted 2) = true := by decide

/-- Commands of every kind of operand, well-formed. -/
theorem test_wf_accepts : [Instr.mxOuter r0 (.path 0), .atWalk r0 .none, .dmSpill (.queued r0) .none, .doorbellTail 16 65535 65535, .commandFetch 73727,
    .syncSet 0 0 0, .fifoFlush 16 0, .odRead (.mailbox 0) 0x1000 255 63, .odWrite 0x2000 1 ⟨.monitor, 1, 1⟩, .taskTierWrite 63 ⟨.can, 1, 1⟩,
    .keyRecompute, .pdEnableOn .can 47, .nmtStop 127, .debugMemoryWrite (2 ^ 20 - 1) 0, .csi2FrameStart 3 15 65535 .ok 0, .reflexVote .differ,
    .pageWalkDone 31 4095 4095, .thirdEvaluationDone 32767 [0, 1], .transmissionSend 31, .safetyTaskWindow [.crossing 0, .fifo 1023], .configurationRequest 1 (.entry 3 0 0 true),
    .configurationRequest 9 (.entry 15 0 0 false), .setupStateReached 7].all Instr.wf = true := by decide

/-- Commands on a queue that does not exist. -/
theorem test_wf_commands : refused ([Instr.mxOuter, .mxDrain, .mxConv, .mxPool, .atScore, .atGrad, .sgGather, .sgScatter, .sgSegred, .sgSort,
    .sgTopk, .sgNms, .sgAssign, .sgMsgpass, .atAppend, .atWalk, .atSeqOpen, .atSeqClose, .atSeqPark, .atSeqResume, .atSeqRearm,
    .atSeqDropOldest, .atSeqSetScale, .imgProcArm, .vdDecodeArm, .ptsVoxelArm, .dmCopy, .planarToCi, .ciToPlanar, .zbtToPlanar,
    .planarToZbt, .zbtRebase, .phaseInterleave, .dmReplay, .cryHash, .cryVerify, .cryAttest, .atAppendWrite].flatMap
      fun f => [f rBad .none, f r0 (.cell false 16 0)]) = true ∧
    refused ([Instr.imgProcStop, .vdDecodeStop, .ptsVoxelStop, .qcNop, .qcWait, .qcSignal, .qcFifoPut,
      .qcTimestamp, .commandDone, .atScoreRecordDone, .atAppendPublish, .signatureArrival].map fun f => f rBad) = true ∧
    refused [.dmSpill (.queued rBad) .none, .dmFill (.device 0 8 0 false) .none, .dmFill (.queued r0) (.cell true 0 16), .commandFetch 73728,
      .commandDispatch 73728, .commandRetire 73728] = true := by
  decide

/-- Accesses by a function, slot, path or entry that does not exist, or with a value too large. -/
theorem test_wf_accesses : refused ([Instr.doorbellTail, .doorbellEnable, fun a b c => .doorbellDisable a b c true].flatMap fun f =>
      [f 17 0 0, f 0 65536 0, f 0 0 65536]) = true ∧
    refused ([Instr.syncSet, .syncAdd, .fifoWrite, .fifoWriteEnd].flatMap fun f => [f 17 0 0, f 0 65536 0]) = true ∧
    refused ([Instr.fifoRead, .fifoFlush, .fifoClearOverrun].flatMap fun f => [f 17 0, f 0 65536]) = true ∧
    refused [.odRead (.mailbox 1) 0 0 0, .odRead .can 65536 0 0, .odRead .can 0 256 0, .odRead .can 0 0 64, .odWrite 65536 0 ⟨.can, 0, 1⟩,
      .odWrite 0 256 ⟨.can, 0, 1⟩, .odWrite 0 0 wBad, .fusionTimeNowRead (.mailbox 1), .rollbackLevelWrite wBad true, .keyRevokedWrite wBad true,
      .splitModeWrite wBad true, .msgRingDepthWrite 17 ⟨.can, 0, 1⟩, .msgRingDepthWrite 0 wBad, .msgHeadWrite 17 ⟨.can, 0, 1⟩, .msgHeadWrite 0 wBad,
      .taskEnableWrite 64 ⟨.can, 0, 1⟩, .taskEnableWrite 0 wBad, .taskTierWrite 64 ⟨.can, 0, 1⟩, .taskTierWrite 0 wBad,
      .pdEnableOn (.mailbox 1) 0, .pdEnableOn .can 48, .pdEnableOff (.mailbox 1) 0, .pdEnableOff .can 48] = true ∧
    refused ([Instr.arithEventFlagsWrite, .sgEventFlagsWrite, .journalReadIndexWrite, .timeStepPermitWrite, .faultClear, .fenceRequest,
      .safeStateRequest, .fleetGo, .fwLoad, .exitSetup, .enterSetup, .safetySealWrite, .injectArm, .twinTakeover, .twinRelease, .barrierArm,
      .barrierGo, .barrierCalibrate].map fun f => f wBad) = true := by decide

/-- Events of power, start, links and the debug port out of range. -/
theorem test_wf_device_events : refused [.shutDownBegin 48, .shutDownComplete 48, .powerUpComplete 48, .setupStateReached 8, .barrierArmReceived 16,
    .barrierGoReceived 4, .cwFlitCrcFail 4, .cwPortLoss 4, .barrierCalibrationDone 4 0, .nmtResetNode 128, .nmtStop 128, .nmtStartRemoteNode 128,
    .nmtEnterPreOperational 128, .nmtResetCommunication 128, .clouxLog (2 ^ 32), .clouxMemR (2 ^ 54) 0, .clouxMemR 0 (2 ^ 32),
    .debugHalt (2 ^ 64) 0 0, .debugHalt 0 (2 ^ 64) 0, .debugHalt 0 0 (2 ^ 64), .debugRegisterWrite 4096 0, .debugMemoryWrite (2 ^ 20) 0,
    .debugBreakpointSet (2 ^ 64), .debugBreakpointClear (2 ^ 64), .breakpointHit (2 ^ 64) 0, .breakpointHit 0 (2 ^ 64), .configurationRequest 17 .none, .configurationRequest 1 (.entry 4 0 0 true), .configurationRequest 0 (.entry 16 0 0 true),
    .configurationRequest 0 (.entry 0 (2 ^ 64) 0 true), .configurationRequest 0 (.entry 0 0 (2 ^ 32) true), .safetyTaskWindow [.fifo 1024],
    .functionLevelReset 17, .dlDown 2, .dlUp 2 0 0, .dlUp 0 16 0, .dlUp 0 0 64, .bar2Write 17 0 [], .bar2Write 0 (2 ^ 54) [],
    .bar2Write 0 0 (List.replicate 4097 0), .barMiss 17 true 0 true, .barMiss 0 true (2 ^ 54) true, .dramTrainingDone 13 0 0 true,
    .dramTrainingDone 0 13 0 true, .dramTrainingDone 0 0 256 true, .arrayBootSelfTestDone (List.replicate 33 0) 0,
    .arrayBootSelfTestDone [2 ^ 32] 0, .arrayBootSelfTestDone [] (2 ^ 32), .powerGoodLoss 8 0, .powerGoodLoss 0 65536, .railOutOfRange 8 0,
    .railOutOfRange 0 65536, .pllLossOfLock 256, .junctionOverTemperature 32768, .thermalTrip (-32769), .mclkDerate 32768,
    .mclkRestore 32768] = true := by decide +kernel

/-- Events of time, sensors and samples out of range. -/
theorem test_wf_sensor_events : refused [.syncMessage ⟨6, 0, 0, true, 0, 0⟩, .followUp ⟨0, 256, 0, true, 0, 0⟩, .announce 6 0 0 0, .announce 0 256 0 0, .announce 0 0 0 65536,
    .pdelayReqSend 6, .pdelayReqReceived 6 0, .pdelayRespReceived 6 none, .syncLossTimeout 2, .csi2FrameStart 4 0 0 .ok 0,
    .csi2FrameStart 0 16 0 .ok 0, .csi2FrameStart 0 0 65536 .ok 0, .csi2LongPacket 4 0 0 [] .ok true, .csi2LongPacket 0 0 64 [] .ok true,
    .csi2FrameEnd 0 16 0 .ok, .csi2FrameEnd 0 0 65536 .ok, .imgSamplePresent 64 true, .imgDecodedPicture 64, .ethernetFrameReceived 6 [] true 0,
    .rtpPacket 48, .vdPictureOutput 48, .accessUnitEnd 48 parsed false, .accessUnitEnd 0 { parsed with cropW := 65537 } false,
    .accessUnitEnd 0 { parsed with cropH := 65537 } false, .lidarDatagram 8, .lidarSampleWritten 8, .lidarWindowClose 8 false,
    .reflexVote (.outvoted 3), .macLinkChange 6 true] = true := by decide

/-- A line of 65,536 bytes is longer than any packet's. -/
theorem test_wf_line (l : List Byte) (h : 65536 ≤ l.length) : (Instr.csi2LongPacket 0 0 0 l .ok true).wf = false := by
  have h' : ¬ l.length < 65536 := by omega
  simp [Instr.wf, h']

/-- Events of the pipeline, the faults, the safety cluster and the memories out of range. -/
theorem test_wf_pipeline_events : refused [.kernelBoundary 64, .taskDeadline 64, .pageWalkDone 32 0 0, .pageWalkDone 0 4096 0, .pageWalkDone 0 0 4096,
    .faultRecordForwarded (.block 32) false, .collectorRoom (.isle 8), .escalationTimerExpiry (2 ^ 32), .pairTimeout 32768,
    .thirdEvaluationTimeout 32768, .thirdEvaluationDone 32768 [], .thirdEvaluationDone 0 [0, 0, 0], .coreOutput 3 0 .safeRequest,
    .coreOutput 0 0 (.grant 32768), .resyncCopyDone 3, .splitReplayInterval 3 [], .splitReplayInterval 0 [.grant 32768],
    .observationReplayDone 64 true, .observationReplaySkip 64, .sampledReplayDone 32 true, .selfTestSliceStart (.cells 32),
    .latentCoverageWarning (.cells 32), .selfTestSliceEnd (.cells 32) true, .scratchScrub 32 0 0 .clean, .scratchScrub 0 32768 0 .clean,
    .scratchScrub 0 0 8 .clean, .lagoonScrub 8 0 0 .clean, .lagoonScrub 0 8192 0 .clean, .lagoonScrub 0 0 128 .clean,
    .dramPatrolScrub (2 ^ 48) .clean, .dramRefresh 2 0 0 false, .dramRefresh 0 12 0 false, .dramRefresh 0 0 16 false, .mr4Poll 2 0 0, .mr4Poll 0 12 0,
    .mr4Poll 0 0 32, .heartbeatReceived { beat0 with src := 16 }, .cwFlitReceived 4 flit1, .cwFlitReceived 0 { flit1 with dest := 16 },
    .cwTrainingDone 4 ⟨0, true, true, true⟩, .cwTrainingDone 0 ⟨16, true, true, true⟩, .linkStateFlit 4 ⟨0, true, true, true⟩ [],
    .linkStateFlit 0 ⟨16, true, true, true⟩ [], .linkStateFlit 0 ⟨0, true, true, true⟩ [⟨16, true, true, true⟩], .transmissionSend 32] = true := by
  decide

/-! ## The table (95) -/

/-- The rows of the table carry no bits, so no word spells a command. -/
theorem test_no_words : decodeTableWord 32 5 = none ∧ (State.reset.withFetchWord 32 5) = State.reset := by decide

end Sys2Proof.Tests
end

section
/-! The host agent's accesses to the message FIFOs (10 R304-R308). -/

namespace Sys2Proof.Machine

/-! ### One FIFO among the FIFOs -/

@[simp] theorem getFifo_modFifo (n : Nat) (f : Fifo → Fifo) (c : Ctl) :
    getFifo (modFifo n f c) n = f (getFifo c n) := by simp [getFifo]

theorem getFifo_modFifo_ne {n k : Nat} (f : Fifo → Fifo) (c : Ctl) (h : k ≠ n) :
    getFifo (modFifo n f c) k = getFifo c k := by simp [getFifo, h]

theorem getFifo_of_fifos {c d : Ctl} (h : d.fifos = c.fifos) (n : Nat) : getFifo d n = getFifo c n := by
  simp only [getFifo, h]

/-! ### What the end of a step leaves of the FIFOs -/

theorem endStep_fifos (p : Part) (c : Ctl) : (endStep p c).fifos = c.fifos :=
  endStep_frame p c .fifos (by decide)

theorem flushMsgs_fifos (p : Part) (c : Ctl) : (flushMsgs p c).fifos = c.fifos := by
  obtain ⟨t, ht⟩ := serveWrites_traffic p (flushMsgs p c)
  have h := endStep_fifos p c
  rwa [endStep, ht] at h

theorem sendMsg_fifos (p : Part) (fn ty : Nat) (pay : List Byte) (c : Ctl) :
    (sendMsg p fn ty pay c).fifos = c.fifos := by
  unfold sendMsg
  dsimp only
  split
  · exact flushMsgs_fifos p c
  · rfl

/-- A step leaves each FIFO as its meaning left it. -/
theorem act_touches_fifos {l : List Piece} {may : Nat → Nat → Prop} {dev host : List (Nat × Nat)} (s : State)
    (f : View → Ctl → Ctl) (h : Does l may dev host s.part s.ctl.fresh (f s.view s.ctl.fresh)) :
    ∃ t, act s f = .next t ∧ (∀ n, getFifo t.ctl n = getFifo (f s.view s.ctl.fresh) n) ∧ Touches l may dev host s t := by
  obtain ⟨t, ht, htt⟩ := act_touches s f h
  refine ⟨t, ht, fun n => ?_, htt⟩
  cases ht
  exact getFifo_of_fifos (endStep_fifos s.part (f s.view s.ctl.fresh)) n

/-- A step whose meaning sends no message drives what the meaning drives: nothing is added at its end. -/
theorem act_out_of_no_msgs {s t : State} {f : View → Ctl → Ctl} (ht : act s f = .next t)
    (hm : (f s.view s.ctl.fresh).msgs = []) : t.ctl.out = (f s.view s.ctl.fresh).out := by
  obtain ⟨u, hu⟩ := endStep_quiet s.part hm
  cases ht
  simp only [settleMem_ctl, hu]

/-- A step leaves FIFO `x` as `y` and drives `os`; nothing but this FIFO changes. -/
def OnlyFifo (s t : State) (x : Nat) (y : Fifo) (os : List Out) : Prop :=
  getFifo t.ctl x = y ∧ (∀ n, n ≠ x → getFifo t.ctl n = getFifo s.ctl n) ∧ t.ctl.out = os ∧
    Touches [.fifos] noEntry [] [] s t

theorem act_modFifo (s : State) (f : View → Ctl → Ctl) (x : Nat) (g : Fifo → Fifo) (os : List Out)
    (h : f s.view s.ctl.fresh = { modFifo x g s.ctl.fresh with out := os }) :
    ∃ t, act s f = .next t ∧ OnlyFifo s t x (g (getFifo s.ctl x)) os := by
  have hd : Does [.fifos] noEntry [] [] s.part s.ctl.fresh (f s.view s.ctl.fresh) := by
    rw [h]
    exact piece_step (modFifo_step does_refl x g (by simp))
      (fun k _ => by cases k <;> first | rfl | exact fun _ => rfl) rfl rfl
  obtain ⟨t, ht, hf, htt⟩ := act_touches_fifos s f hd
  rw [h] at hf
  refine ⟨t, ht, ?_, fun n hn => ?_, ?_, htt⟩
  · exact (hf x).trans (getFifo_modFifo x g s.ctl.fresh)
  · exact (hf n).trans (getFifo_modFifo_ne g s.ctl.fresh hn)
  · rw [act_out_of_no_msgs ht (by rw [h]; rfl), h]

/-! ### Writing one word (10 R307) -/

theorem fifoPut_of_room {p : Part} {x : Nat} {c : Ctl} (h : (getFifo c x).words.length < 64) (w : Word64) (fin : Bool) :
    fifoPut p x w fin c = modFifo x (fun y => { y with words := y.words ++ [(w, fin)] }) c := by
  simp only [fifoPut, if_pos h]

theorem getFifo_fifoPut_of_full {p : Part} {x : Nat} {c : Ctl} (h : 64 ≤ (getFifo c x).words.length) (w : Word64)
    (fin : Bool) : getFifo (fifoPut p x w fin c) x = { getFifo c x with overrun := true } := by
  simp only [fifoPut, if_neg (Nat.not_lt.mpr h)]
  split
  case isTrue ho => rw [← ho]
  case isFalse => rw [getFifo_of_fifos (sendMsg_fifos ..), getFifo_modFifo]

theorem getFifo_fifoPut_ne {p : Part} {x n : Nat} (h : n ≠ x) (w : Word64) (fin : Bool) (c : Ctl) :
    getFifo (fifoPut p x w fin c) n = getFifo c n := by
  simp only [fifoPut]
  split
  · exact getFifo_modFifo_ne _ c h
  · split
    · rfl
    · rw [getFifo_of_fifos (sendMsg_fifos ..), getFifo_modFifo_ne _ c h]

theorem fifoPut_step {l : List Piece} {may : Nat → Nat → Prop} {dev host : List (Nat × Nat)} {p : Part} {c0 c : Ctl}
    (h : Does l may dev host p c0 c) (h0 : c0.msgs = []) (hl : Piece.fifos ∈ l) {x : Nat}
    (ha : AllowsMsg l may host p c0 (owner p c .fifo x)) (w : Word64) (fin : Bool) :
    Does l may dev host p c0 (fifoPut p x w fin c) := by
  simp only [fifoPut]
  exact ite_step (modFifo_step h x _ hl) (ite_step h (sendMsg_step (modFifo_step h x _ hl) h0 ha _ _))

/-- The entries and the ring of function `fn`'s messages leave room for a message to it. -/
theorem allowsMsg_messageEntry (p : Part) (c : Ctl) (fn : Nat) {l : List Piece} (hod : Piece.od ∈ l)
    (hli : Piece.links ∈ l) : AllowsMsg l (messageEntry fn) [ringSpan p c fn] p c fn :=
  ⟨hod, hli, fun _ _ h => h, by simp [messageEntry], by simp [messageEntry], by simp⟩

/-! ### The accesses of the owning function (10 R304) -/

theorem exec_fifoHostWrite (b : Bool) (s : State) (fn slot : Nat) (w : Word64) :
    exec (if b then .fifoWriteEnd fn slot w else .fifoWrite fn slot w) s = act s (fifoHostWrite fn slot w b) := by
  cases b <;> rfl

section
variable {s : State} {fn slot x : Nat} (hx : slotOf s.part s.ctl fn .fifo slot = some x)
  (hr : regionsServed s.ctl = true) (ho : owner s.part s.ctl .fifo x = fn)
include hx hr ho

/-- The function that owns the FIFO reaches it, once its regions are served. -/
theorem fifoAccess_of_owner (f : Nat → Bool → Ctl → Ctl) :
    fifoAccess fn slot f s.view s.ctl.fresh = f x true s.ctl.fresh := by
  have hx' : slotOf s.view.part s.ctl.fresh fn .fifo slot = some x := hx
  have hr' : regionsServed s.ctl.fresh = true := hr
  have ho' : owner s.view.part s.ctl.fresh .fifo x = fn := ho
  simp only [fifoAccess, hx', hr', ho', decide_true, if_true]

theorem fifoHostWrite_of_agent (ha : (fifoAgents s.part s.ctl x).1 = 1) (w : Word64) (fin : Bool) :
    fifoHostWrite fn slot w fin s.view s.ctl.fresh = fifoPut s.part x w fin s.ctl.fresh := by
  have ha' : (fifoAgents s.part s.ctl.fresh x).1 = 1 := ha
  rw [fifoHostWrite, fifoAccess_of_owner hx hr ho]
  exact if_pos ⟨rfl, ha'⟩

theorem fifoWrite_of_room (ha : (fifoAgents s.part s.ctl x).1 = 1) (w : Word64) (b : Bool)
    (hroom : (getFifo s.ctl x).words.length < 64) :
    ∃ t, exec (if b then .fifoWriteEnd fn slot w else .fifoWrite fn slot w) s = .next t ∧
      OnlyFifo s t x { getFifo s.ctl x with words := (getFifo s.ctl x).words ++ [(w, b)] } [] := by
  rw [exec_fifoHostWrite]
  refine act_modFifo s _ x (fun y => { y with words := y.words ++ [(w, b)] }) []
    ((fifoHostWrite_of_agent hx hr ho ha w b).trans ?_)
  exact fifoPut_of_room (c := s.ctl.fresh) hroom w b

theorem fifoWrite_of_full (ha : (fifoAgents s.part s.ctl x).1 = 1) (w : Word64) (b : Bool)
    (hfull : 64 ≤ (getFifo s.ctl x).words.length) :
    ∃ t, exec (if b then .fifoWriteEnd fn slot w else .fifoWrite fn slot w) s = .next t ∧
      getFifo t.ctl x = { getFifo s.ctl x with overrun := true } ∧
      (∀ n, n ≠ x → getFifo t.ctl n = getFifo s.ctl n) ∧
      Touches [.fifos, .od, .links] (messageEntry fn) [] [ringSpan s.part s.ctl fn] s t := by
  have hw := fifoHostWrite_of_agent hx hr ho ha w b
  have hmsg : AllowsMsg [.fifos, .od, .links] (messageEntry fn) [ringSpan s.part s.ctl fn] s.part s.ctl.fresh
      (owner s.part s.ctl.fresh .fifo x) := by
    rw [show owner s.part s.ctl.fresh .fifo x = fn from ho]
    exact allowsMsg_messageEntry s.part s.ctl.fresh fn (by simp) (by simp)
  obtain ⟨t, ht, hf, htt⟩ := act_touches_fifos s (fifoHostWrite fn slot w b)
    (by rw [hw]; exact fifoPut_step (dev := []) does_refl rfl (by simp) hmsg w b)
  rw [hw] at hf
  rw [exec_fifoHostWrite]
  refine ⟨t, ht, ?_, fun n hn => ?_, htt⟩
  · exact (hf x).trans (getFifo_fifoPut_of_full (c := s.ctl.fresh) hfull w b)
  · exact (hf n).trans (getFifo_fifoPut_ne hn w b s.ctl.fresh)

/-- A read by the reader agent host pops what `fifoPop` pops and answers it (10 R306). -/
theorem fifoRead_pops (ha : (fifoAgents s.part s.ctl x).2 = 1) {y : Fifo} {v : Word64} {valid e : Bool}
    (hp : fifoPop (getFifo s.ctl x) = (y, v, valid, e)) :
    ∃ t, exec (.fifoRead fn slot) s = .next t ∧ OnlyFifo s t x y [.fifoWord v valid e] := by
  have ha' : (fifoAgents s.part s.ctl.fresh x).2 = 1 := ha
  have hp' : fifoPop (getFifo s.ctl.fresh x) = (y, v, valid, e) := hp
  refine act_modFifo s _ x (fun _ => y) [.fifoWord v valid e] ((fifoAccess_of_owner hx hr ho _).trans ?_)
  simp only [ha', hp', and_self, if_true]
  rfl

theorem fifoFlush_empties :
    ∃ t, exec (.fifoFlush fn slot) s = .next t ∧ OnlyFifo s t x { getFifo s.ctl x with words := [] } [] :=
  act_modFifo s _ x (fun y => { y with words := [] }) [] (fifoAccess_of_owner hx hr ho _)

theorem fifoClearOverrun_clears :
    ∃ t, exec (.fifoClearOverrun fn slot) s = .next t ∧ OnlyFifo s t x { getFifo s.ctl x with overrun := false } [] :=
  act_modFifo s _ x (fun y => { y with overrun := false }) [] (fifoAccess_of_owner hx hr ho _)

end

/-- Settles O17, one lemma per access; a write splits on whether the FIFO has room. -/
theorem fifoAccessesByTheHostAgent : Obligations.FifoAccessesByTheHostAgent := by
  intro s fn slot x w hx hr ho
  refine ⟨fun b ha => ?_, fun ha => ⟨fun e rest hwords => ?_, fun hwords => ?_⟩, fifoFlush_empties hx hr ho,
    fifoClearOverrun_clears hx hr ho⟩
  · rcases Nat.lt_or_ge (getFifo s.ctl x).words.length 64 with hroom | hfull
    · obtain ⟨t, ht, hself, hne, -, htt⟩ := fifoWrite_of_room hx hr ho ha w b hroom
      exact ⟨t, ht, fun _ => ⟨hself, htt⟩, fun hfull => absurd hroom (Nat.not_lt.mpr hfull), hne⟩
    · obtain ⟨t, ht, hself, hne, htt⟩ := fifoWrite_of_full hx hr ho ha w b hfull
      exact ⟨t, ht, fun hroom => absurd hroom (Nat.not_lt.mpr hfull), fun _ => ⟨hself, htt⟩, hne⟩
  · exact fifoRead_pops hx hr ho ha (by simp only [fifoPop, hwords])
  · exact fifoRead_pops hx hr ho ha (by simp only [fifoPop, hwords])

end Sys2Proof.Machine
end

section
/-! Requests for power (17 R502, R504, R505, 01 R40, R44), written as entries of the dictionary (18 R508-R511). -/

namespace Sys2Proof.Machine

/-! ### An accepted write of an entry (18 R508, 08 R257) -/

section
variable {l : List Piece} {may : Nat → Nat → Prop} {dev host : List (Nat × Nat)} {p : Part} {c c0 d : Ctl}

theorem odVal_of_od (h : d.od = c.od) (i k : Nat) : odVal p d i k = odVal p c i k := by simp only [odVal, h]

/-- The checks of a write look at boot, at the mode, and, for EnterSetup alone, at more. -/
theorem writeCheck_of_boot_safety (hb : d.boot = c.boot) (hs : d.safety = c.safety) {idx : Nat} (hi : idx ≠ 0x2A00)
    (v : View) (path : Path) (sub val size : Nat) :
    writeCheck v d path idx sub val size = writeCheck v c path idx sub val size := by
  simp only [writeCheck, outOfState, pastBoot, refused, inSetup, badValue, hb, hs, hi, decide_false, Bool.false_and]

/-- The answer on a link leaves the dictionary and everything but the links. -/
theorem answer_step (h : Does l may dev host p c0 c) (hl : Piece.links ∈ l) (path : Path) (idx sub blk : Nat) (a : OdAns) :
    Does l may dev host p c0 (answer path idx sub blk a c) := by
  cases path with
  | mailbox fn => cases a <;> exact emit_step (modFn_step h _ _ hl) _
  | can => exact emit_step (modLinks_step h _ hl) _
  | monitor => exact emit_step h _

theorem inputEntry_ne_ring (fn : Nat) {k : Nat} (hk : k = 9 ∨ k = 0xA) : ¬ inputEntry (0x2410 + fn) k := by
  simp only [inputEntry, messageEntry]; omega

/-- The record of an input touches what `TouchesInput` allows it. -/
theorem recordNow_does (p : Part) {c : Ctl} (h : c.msgs = []) (k so : Nat) (pay : List Byte) :
    Does inputPieces inputEntry (journalSpans p c) [ringSpan p c 0] p c (recordNow p k so pay c) := by
  have hmsg : AllowsMsg inputPieces inputEntry [ringSpan p c 0] p c 0 :=
    ⟨by decide, by decide, fun _ _ h => .inr h, inputEntry_ne_ring 0 (.inl rfl), inputEntry_ne_ring 0 (.inr rfl), by simp⟩
  refine recordNow_step does_refl h ⟨by decide, by decide, fun _ _ h => h, ?_, fun _ h => h, hmsg⟩ k so pay
  simp [inputEntry, messageEntry]

/-- What the end of a step does to the dictionary, the messages that wait being allowed. -/
theorem endStep_odKept (h : ∀ m ∈ c.msgs, AllowsMsg l may host p c m.fn) : OdKept may p c (endStep p c) :=
  (traffic_step (dev := []) (flushMsgs_step does_refl h) (serveWrites_traffic ..)).2.1

/-- An operation that leaves the messages' rings no room sends no message. -/
theorem does_msgs_of_no_host (h : Does l may dev [] p c d) {m : Msg} (hm : m ∈ d.msgs) : m ∈ c.msgs := by
  obtain ⟨-, -, -, hmsgs⟩ := h
  refine (hmsgs m hm).resolve_right ?_
  rintro ⟨-, -, -, -, -, hring⟩
  cases hring

theorem allowsMsg_of_ringSpan {fn : Nat} (h : AllowsMsg l may host p c fn) (hr : ringSpan p d fn = ringSpan p c fn) :
    AllowsMsg l may host p d fn := by
  obtain ⟨hod, hli, hme, h9, hA, hring⟩ := h
  exact ⟨hod, hli, hme, h9, hA, hr ▸ hring⟩

end

/-- The control state in which a write that arrives is served: its record as an input stands. -/
def arrived (s : State) (idx sub : Nat) (w : OdW) : Ctl :=
  recordNow s.part 3 (pathSource w.path) (writePayload idx sub w.val w.size) s.ctl.fresh

section
variable (s : State) (idx sub : Nat) (w : OdW)

theorem arrived_does : Does inputPieces inputEntry (journalSpans s.part s.ctl) [ringSpan s.part s.ctl 0] s.part
    s.ctl.fresh (arrived s idx sub w) := recordNow_does s.part rfl _ _ _

theorem arrived_frame : Frame inputPieces s.ctl (arrived s idx sub w) := fun k hk => by
  have h := (arrived_does s idx sub w).1 k hk
  cases k <;> exact h

@[simp] theorem arrived_boot : (arrived s idx sub w).boot = s.ctl.boot := arrived_frame s idx sub w .boot (by decide)
@[simp] theorem arrived_safety : (arrived s idx sub w).safety = s.ctl.safety := arrived_frame s idx sub w .safety (by decide)
@[simp] theorem arrived_power : (arrived s idx sub w).power = s.ctl.power := arrived_frame s idx sub w .power (by decide)
@[simp] theorem arrived_faults : (arrived s idx sub w).faults = s.ctl.faults := arrived_frame s idx sub w .faults (by decide)
@[simp] theorem arrived_queues : (arrived s idx sub w).queues = s.ctl.queues := arrived_frame s idx sub w .queues (by decide)
@[simp] theorem arrived_eff : (arrived s idx sub w).eff = s.ctl.eff := arrived_frame s idx sub w .eff (by decide)

theorem arrived_odVal {i k : Nat} (hk : k < 256) (h : ¬ inputEntry i k) :
    odVal s.part (arrived s idx sub w) i k = odVal s.part s.ctl i k := (arrived_does s idx sub w).2.1 i k hk h

end

section
variable {s : State} {idx sub : Nat} {w : OdW}

/-- An accepted write does at its entry what `applyOd` says, and is answered. -/
theorem linkWrite_of_accepted (h : Accepted s idx sub w) (hi : idx ≠ 0x2A00) (ho : (odAccess idx sub).1 ≠ .otl) (ok : Bool) :
    linkWrite idx sub w ok s.view s.ctl.fresh =
      (answer w.path idx sub 0 .done (applyOd s.view w.path idx sub (offered idx sub w) (arrived s idx sub w)), s.fuses) := by
  obtain ⟨hreach, hmon, hcheck⟩ := h
  have hreach' : reachable s.ctl.fresh w.path = true := hreach
  have hmon' : ¬ (w.path = .monitor ∧ (!pastBoot s.ctl.fresh) = true) := fun ⟨hp, hb⟩ => by
    rw [show pastBoot s.ctl.fresh = true from hmon hp] at hb
    cases hb
  have hcheck' : writeCheck s.view (arrived s idx sub w) w.path idx sub w.val w.size = none :=
    (writeCheck_of_boot_safety (arrived_boot s idx sub w) (arrived_safety s idx sub w) hi ..).trans hcheck
  have hw : writeOd s.view w.path idx sub w.val w.size ok (arrived s idx sub w) =
      (applyOd s.view w.path idx sub (offered idx sub w) (arrived s idx sub w), s.fuses, .done) := by
    simp only [writeOd, hcheck', if_neg ho]
    rfl
  simp only [linkWrite, hreach', hmon', Bool.not_true, Bool.false_eq_true, if_false]
  exact congrArg (fun r : Ctl × Fuses × OdAns => (answer w.path idx sub 0 r.2.2 r.1, r.2.1)) hw

section
variable {l : List Piece} {may : Nat → Nat → Prop} {g : Ctl} (hring : ∀ fn k, k = 9 ∨ k = 0xA → ¬ may (0x2410 + fn) k)
  (hd : Does (.od :: l) may [] [] s.part (arrived s idx sub w) g)

include hring in
theorem input_or_ne_ring (fn k : Nat) (hk : k = 9 ∨ k = 0xA) : ¬ (inputEntry (0x2410 + fn) k ∨ may (0x2410 + fn) k) :=
  fun hm => hm.elim (inputEntry_ne_ring fn hk) (hring fn k hk)

include hring hd

/-- A write that is recorded, served and answered touches what `TouchesInput` says. -/
theorem answered_does (path : Path) : Does (l ++ inputPieces) (fun i k => inputEntry i k ∨ may i k)
    (journalSpans s.part s.ctl) [ringSpan s.part s.ctl 0] s.part s.ctl.fresh (answer path idx sub 0 .done g) := by
  have hrec := does_mono (l' := l ++ inputPieces) (may' := fun i k => inputEntry i k ∨ may i k) (arrived_does s idx sub w)
    (fun k hk => by simp [hk]) (fun _ _ => .inl) (fun fn k hk hm => absurd hm (input_or_ne_ring hring fn k hk)) (fun _ h => h)
    (fun _ h => h)
  have hserved := does_mono (l' := l ++ inputPieces) (may' := fun i k => inputEntry i k ∨ may i k)
    (dev' := journalSpans s.part s.ctl) (host' := [ringSpan s.part s.ctl 0]) hd
    (fun k hk => by rcases List.mem_cons.mp hk with rfl | hk <;> simp [inputPieces, *]) (fun _ _ => .inr)
    (fun fn k hk hm => absurd hm (input_or_ne_ring hring fn k hk)) (by simp) (by simp)
  exact answer_step (does_trans hrec hserved) (by simp [inputPieces]) ..

/-- The messages that wait at the end of such a write are those of its record. -/
theorem answered_msgs_allowed (path : Path) : ∀ m ∈ (answer path idx sub 0 .done g).msgs,
    AllowsMsg inputPieces inputEntry [ringSpan s.part s.ctl 0] s.part (answer path idx sub 0 .done g) m.fn := by
  intro m hm
  have hans : Does [.links] noEntry [] [] s.part g (answer path idx sub 0 .done g) := answer_step does_refl (by simp) ..
  obtain ⟨-, -, -, hsent⟩ := arrived_does s idx sub w
  obtain ⟨-, hkept, -, -⟩ := answered_does hring hd path
  have hallowed := (hsent m (does_msgs_of_no_host hd (does_msgs_of_no_host hans hm))).resolve_left (by simp [Ctl.fresh])
  exact allowsMsg_of_ringSpan hallowed (ringSpan_kept hkept (input_or_ne_ring hring m.fn 9 (.inl rfl))
    (input_or_ne_ring hring m.fn 0xA (.inr rfl)))

/-- An accepted write leaves what `applyOd` makes of the recorded state, but for the link's answer and the messages of
the record. -/
theorem rowWrite_of_accepted (h : Accepted s idx sub w) (hi : idx ≠ 0x2A00) (ho : (odAccess idx sub).1 ≠ .otl)
    (hg : applyOd s.view w.path idx sub (offered idx sub w) (arrived s idx sub w) = g) (ok : Bool) :
    ∃ t, rowWrite true idx sub w ok s = .next t ∧ Frame [.od, .links] g t.ctl ∧ OdKept inputEntry s.part g t.ctl ∧
      TouchesInput l may [] [] s t := by
  let a := answer w.path idx sub 0 .done g
  have hans : Does [.links] noEntry [] [] s.part g a := answer_step does_refl (by simp) ..
  have hrun : rowWrite true idx sub w ok s = .next ({ s with ctl := endStep s.part a } : State).settleMem := by
    simp only [rowWrite, actFuse, if_true, linkWrite_of_accepted h hi ho, hg]
    rfl
  refine ⟨_, hrun, fun k hk => ?_, fun i k hk hn => ?_, ?_⟩
  · have hk' : k ∉ [Piece.links] := fun h => hk (List.mem_cons_of_mem _ h)
    have hsame := same_trans (hans.1 k hk') (endStep_frame s.part a k hk)
    cases k <;> exact hsame
  · exact (endStep_odKept (answered_msgs_allowed hring hd w.path) i k hk hn).trans (hans.2.1 i k hk id)
  · have htouch := settleMem_touches s _ (endStep_step (answered_does hring hd w.path) rfl)
    simpa [TouchesInput] using htouch

end

end

/-! ### Requests of one domain (17 R504) -/

section
variable {l : List Piece} {may : Nat → Nat → Prop} {dev host : List (Nat × Nat)} {p : Part} {c c0 e : Ctl} {d x : Nat}

theorem self_mem_insNat (k : Nat) (xs : List Nat) : k ∈ insNat k xs := by
  induction xs with
  | nil => simp [insNat]
  | cons j xs ih =>
    simp only [insNat]
    split
    · simp [*]
    · split <;> simp [ih]

/-- A request changes nothing but the state of power. -/
def PowerOnly (c e : Ctl) : Prop := ∃ f, e = modPower f c

theorem PowerOnly.od (h : PowerOnly c e) : e.od = c.od := by obtain ⟨f, rfl⟩ := h; rfl
theorem PowerOnly.boot (h : PowerOnly c e) : e.boot = c.boot := by obtain ⟨f, rfl⟩ := h; rfl
theorem PowerOnly.step (hp : PowerOnly c e) (h : Does l may dev host p c0 c) (hl : Piece.power ∈ l) :
    Does l may dev host p c0 e := by obtain ⟨f, rfl⟩ := hp; exact modPower_step h f hl

theorem requestOn_powerOnly (d : Nat) (c : Ctl) : PowerOnly c (requestOn d c) := by
  have key : ∀ (q : Prop) [Decidable q] (e e' : Ctl), PowerOnly c e → PowerOnly c e' → PowerOnly c (if q then e else e') :=
    fun q _ e e' he he' => by split <;> assumption
  unfold requestOn
  dsimp only
  split
  case h_1 => exact key _ _ _ ⟨_, rfl⟩ ⟨_, rfl⟩
  case h_4 => exact key _ _ _ ⟨_, rfl⟩ ⟨id, rfl⟩
  case h_5 => exact ⟨id, rfl⟩
  all_goals exact ⟨_, rfl⟩

theorem requestOff_powerOnly (d : Nat) (c : Ctl) : PowerOnly c (requestOff d c) := by
  unfold requestOff
  dsimp only
  split
  case h_1 | h_2 | h_3 => exact ⟨fun w => _, rfl⟩
  case h_4 => exact ⟨_, rfl⟩

theorem followOn_powerOnly (d : Nat) (c : Ctl) : PowerOnly c (followOn d c) := by
  unfold followOn
  split
  · exact requestOn_powerOnly d c
  · exact ⟨id, rfl⟩

theorem followOff_powerOnly (d : Nat) (c : Ctl) : PowerOnly c (followOff d c) := by
  unfold followOff
  split
  · exact requestOff_powerOnly d c
  · exact ⟨id, rfl⟩

@[simp] theorem pdOf_setPd (d : Nat) (x : Pd) (c : Ctl) : pdOf (setPd d x c) d = x := look_stow_self ..

theorem pdOf_setPd_ne (h : x ≠ d) (y : Pd) (c : Ctl) : pdOf (setPd d y c) x = pdOf c x := look_stow_ne _ _ _ _ _ _ h

theorem pdOf_of_power (h : e.power = c.power) (d : Nat) : pdOf e d = pdOf c d := by simp only [pdOf, h]

/-- An enable of a domain that is on changes the state of no domain. -/
theorem requestOn_pdOf_of_on (h : pdOf c d = .on) (x : Nat) : pdOf (requestOn d c) x = pdOf c x := by
  simp only [requestOn, h]
  split <;> rfl

/-- A domain that is off begins to power up at once where its lagoon is on (01 R40). -/
theorem requestOn_pdOf_of_off (h : pdOf c d = .off) (hl : ∀ k, lagoonOf d = some k → pdOf c k = .on) :
    pdOf (requestOn d c) d = .poweringUp := by
  cases hlag : lagoonOf d with
  | none => simp only [requestOn, h, hlag, if_true, pdOf_setPd]
  | some k => simp only [requestOn, h, hlag, pdOn, hl k hlag, decide_true, if_true, pdOf_setPd]

/-- A disable of another domain leaves the state of this one. -/
theorem requestOff_pdOf_ne (h : x ≠ d) (c : Ctl) : pdOf (requestOff d c) x = pdOf c x := by
  unfold requestOff
  dsimp only
  split
  case h_3 => exact pdOf_setPd_ne h ..
  all_goals rfl

/-- A disable of a domain that is on leaves it on, waiting for its prerequisites. -/
theorem requestOff_of_on (h : pdOf c d = .on) :
    pdOf (requestOff d c) d = .on ∧ (requestOff d c).power.wantOff.contains d = true := by
  simp only [requestOff, h]
  exact ⟨h, List.contains_iff_mem.mpr (self_mem_insNat d _)⟩

theorem followOn_of_everService (h : c.boot.everService = true) (d : Nat) : followOn d c = requestOn d c := if_pos h

theorem followOff_of_everService (h : c.boot.everService = true) (d : Nat) : followOff d c = requestOff d c := if_pos h

theorem followOff_pdOf_ne (h : x ≠ d) (c : Ctl) : pdOf (followOff d c) x = pdOf c x := by
  unfold followOff
  split
  · exact requestOff_pdOf_ne h c
  · rfl

/-! ### PdEnable and the domains that follow it (17 R502) -/

theorem setEnable_step (h : Does l may dev host p c0 c) (hd : d < 48) (v : Nat) (hm : may 0x2110 (d + 1))
    (hl : Piece.od ∈ l) : Does l may dev host p c0 (setEnable p d v c) := odSet_step h _ _ _ (by omega) hm hl

@[simp] theorem odVal_setEnable (p : Part) (d v : Nat) (c : Ctl) : odVal p (setEnable p d v c) 0x2110 (d + 1) = v :=
  odVal_odSet ..

theorem odVal_setEnable_ne (hd : d < 48) (hx : x < 48) (h : x ≠ d) (v : Nat) (c : Ctl) :
    odVal p (setEnable p d v c) 0x2110 (x + 1) = odVal p c 0x2110 (x + 1) :=
  odVal_odSet_ne p c v (by omega) (by omega) (by omega)

theorem lagoonOf_some {k : Nat} (h : lagoonOf d = some k) : d < 40 ∧ k < 40 ∧ k ≠ d := by
  simp only [lagoonOf, Option.ite_none_right_eq_some, Option.some.injEq] at h
  omega

/-! ### Enables (01 R40) -/

/-- Entries that an enable may set: PdEnable of the domain and of its lagoon. -/
def enableEntry (d : Nat) : Nat → Nat → Prop := fun i k => i = 0x2110 ∧ (k = d + 1 ∨ ∃ l, lagoonOf d = some l ∧ k = l + 1)

theorem enableDomain_of_lagoon {k : Nat} (hf : fencedDomain c d = false) (hk : lagoonOf d = some k) :
    enableDomain p d c = followOn d (followOn k (setEnable p k 1 (setEnable p d 1 c))) := by
  simp only [enableDomain, hf, hk, Bool.false_eq_true, if_false]

theorem enableDomain_of_no_lagoon (hf : fencedDomain c d = false) (hk : lagoonOf d = none) :
    enableDomain p d c = followOn d (setEnable p d 1 c) := by
  simp only [enableDomain, hf, hk, Bool.false_eq_true, if_false]

theorem enableDomain_does (hd : d < 48) (hf : fencedDomain c d = false) :
    Does [.od, .power] (enableEntry d) [] [] p c (enableDomain p d c) := by
  have hself := setEnable_step (l := [.od, .power]) (dev := []) (host := []) (p := p) (does_refl (c := c)) hd 1
    (show enableEntry d _ _ from ⟨rfl, .inl rfl⟩) (by simp)
  cases hk : lagoonOf d with
  | none =>
    rw [enableDomain_of_no_lagoon hf hk]
    exact (followOn_powerOnly ..).step hself (by simp)
  | some k =>
    obtain ⟨-, hk40, -⟩ := lagoonOf_some hk
    rw [enableDomain_of_lagoon hf hk]
    refine (followOn_powerOnly ..).step ((followOn_powerOnly ..).step ?_ (by simp)) (by simp)
    exact setEnable_step hself (by omega) 1 ⟨rfl, .inr ⟨k, hk, rfl⟩⟩ (by simp)

theorem enableDomain_pdEnable (hd : d < 48) (hf : fencedDomain c d = false) :
    odVal p (enableDomain p d c) 0x2110 (d + 1) = 1 := by
  cases hk : lagoonOf d with
  | none => rw [enableDomain_of_no_lagoon hf hk, odVal_of_od (followOn_powerOnly ..).od, odVal_setEnable]
  | some k =>
    obtain ⟨-, hk40, hne⟩ := lagoonOf_some hk
    rw [enableDomain_of_lagoon hf hk, odVal_of_od (followOn_powerOnly ..).od, odVal_of_od (followOn_powerOnly ..).od,
      odVal_setEnable_ne (by omega) hd hne.symm, odVal_setEnable]

theorem enableDomain_pdEnable_lagoon {k : Nat} (hf : fencedDomain c d = false) (hk : lagoonOf d = some k) :
    odVal p (enableDomain p d c) 0x2110 (k + 1) = 1 := by
  rw [enableDomain_of_lagoon hf hk, odVal_of_od (followOn_powerOnly ..).od, odVal_of_od (followOn_powerOnly ..).od,
    odVal_setEnable]

theorem enableDomain_powersUp (hf : fencedDomain c d = false) (hs : c.boot.everService = true) (ho : pdOf c d = .off)
    (hl : ∀ k, lagoonOf d = some k → pdOf c k = .on) : pdOf (enableDomain p d c) d = .poweringUp := by
  cases hk : lagoonOf d with
  | none =>
    rw [enableDomain_of_no_lagoon hf hk, followOn_of_everService (c := setEnable p d 1 c) hs]
    exact requestOn_pdOf_of_off ho hl
  | some k =>
    have hkon : pdOf (setEnable p k 1 (setEnable p d 1 c)) k = .on := hl k hk
    have hkeep := requestOn_pdOf_of_on hkon
    have hs' : (followOn k (setEnable p k 1 (setEnable p d 1 c))).boot.everService = true := by
      rw [(followOn_powerOnly ..).boot]
      exact hs
    rw [enableDomain_of_lagoon hf hk, followOn_of_everService hs',
      followOn_of_everService (c := setEnable p k 1 (setEnable p d 1 c)) hs]
    exact requestOn_pdOf_of_off ((hkeep d).trans ho) fun j hj => (hkeep j).trans (hl j hj)

/-! ### Disables (01 R40, R44, 17 R505) -/

/-- Entries that a disable may clear: PdEnable of the domain and of a lagoon's blocks. -/
def disableEntry (d : Nat) : Nat → Nat → Prop :=
  fun i k => i = 0x2110 ∧ (k = d + 1 ∨ (d < 40 ∧ d % 5 = 4 ∧ d < k + 4 ∧ k ≤ d))

/-- The disables that a lagoon's takes with it: those of its blocks. -/
def disableBlocks (p : Part) (d : Nat) (c : Ctl) : Ctl :=
  if d < 40 ∧ d % 5 = 4 then (List.range 4).foldl (fun c b => followOff (d - 4 + b) (setEnable p (d - 4 + b) 0 c)) c else c

theorem disableDomain_of_not_refused (h : refusedOff p c d = false) :
    disableDomain p d c = followOff d (setEnable p d 0 (disableBlocks p d c)) := by
  simp only [disableDomain, disableBlocks, h, Bool.false_eq_true, if_false]
  split <;> rfl

theorem disableDomain_of_refused (h : refusedOff p c d = true) :
    disableDomain p d c = setEnable p d 1 (bump p 0x2100 3 32 1 c) := by
  simp only [disableDomain, h, if_true]

theorem disableBlocks_does (d : Nat) (c : Ctl) : Does [.od, .power] (disableEntry d) [] [] p c (disableBlocks p d c) := by
  unfold disableBlocks
  split
  · refine foldl_step _ _ (fun c b hb h => ?_) does_refl
    have hb4 := List.mem_range.mp hb
    exact (followOff_powerOnly ..).step
      (setEnable_step h (by omega) 0 ⟨rfl, .inr ⟨by omega, by omega, by omega, by omega⟩⟩ (by simp)) (by simp)
  · exact does_refl

/-- The disables of the blocks leave the lagoon as it stands. -/
theorem disableBlocks_pdOf (d : Nat) (c : Ctl) : pdOf (disableBlocks p d c) d = pdOf c d := by
  unfold disableBlocks
  split
  · refine List.foldlRecOn (motive := fun e => pdOf e d = pdOf c d) _ _ rfl fun e he b hb => ?_
    have hb4 := List.mem_range.mp hb
    exact (followOff_pdOf_ne (by omega) _).trans he
  · rfl

theorem disableDomain_does (hd : d < 48) (h : refusedOff p c d = false) :
    Does [.od, .power] (disableEntry d) [] [] p c (disableDomain p d c) := by
  rw [disableDomain_of_not_refused h]
  exact (followOff_powerOnly ..).step (setEnable_step (disableBlocks_does d c) hd 0 ⟨rfl, .inl rfl⟩ (by simp)) (by simp)

theorem disableDomain_pdEnable (h : refusedOff p c d = false) : odVal p (disableDomain p d c) 0x2110 (d + 1) = 0 := by
  rw [disableDomain_of_not_refused h, odVal_of_od (followOff_powerOnly ..).od, odVal_setEnable]

theorem disableDomain_waits (h : refusedOff p c d = false) (hs : c.boot.everService = true) (ho : pdOf c d = .on) :
    pdOf (disableDomain p d c) d = .on ∧ (disableDomain p d c).power.wantOff.contains d = true := by
  have hboot : (disableBlocks p d c).boot = c.boot := (disableBlocks_does d c).1 .boot (by decide)
  have hs' : (setEnable p d 0 (disableBlocks p d c)).boot.everService = true := (congrArg Boot.everService hboot).trans hs
  rw [disableDomain_of_not_refused h, followOff_of_everService hs']
  exact requestOff_of_on ((disableBlocks_pdOf d c).trans ho)

theorem disableDomain_refused_does (hd : d < 48) (h : refusedOff p c d = true) :
    Does [.od] (entries [(0x2110, d + 1), (0x2100, 3)]) [] [] p c (disableDomain p d c) := by
  rw [disableDomain_of_refused h]
  exact setEnable_step (bump_step does_refl _ _ _ _ (by decide) (by simp [entries]) (by simp)) hd 1 (by simp [entries]) (by simp)

theorem disableDomain_refused_pdEnable (h : refusedOff p c d = true) : odVal p (disableDomain p d c) 0x2110 (d + 1) = 1 := by
  rw [disableDomain_of_refused h, odVal_setEnable]

theorem disableDomain_refused_counts (hd : d < 48) (h : refusedOff p c d = true) :
    odVal p (disableDomain p d c) 0x2100 3 = satN 32 (odVal p c 0x2100 3 + 1) := by
  rw [disableDomain_of_refused h]
  exact (odVal_odSet_ne p _ 1 (by omega) (by decide) (by omega)).trans (odVal_odSet ..)

end

/-! ### Writes of PdEnable (17 R502, R504) -/

theorem odAccess_pdEnable {d : Nat} (h : d < 48) : odAccess 0x2110 (d + 1) = (.rw, 1) := by
  have hall : ∀ d < 48, odAccess 0x2110 (d + 1) = (.rw, 1) := by decide
  exact hall d h

theorem offered_pdEnable {d : Nat} (h : d < 48) {w : OdW} (hw : w.val < 256) : offered 0x2110 (d + 1) w = w.val := by
  rw [offered, odAccess_pdEnable h]
  exact Nat.mod_eq_of_lt hw

theorem applyOd_pdEnable (v : View) (path : Path) (d val : Nat) (c : Ctl) :
    applyOd v path 0x2110 (d + 1) val c = writePd v.part d val c := by
  simp [applyOd, isTrigger, indexEntry]

theorem le_index_of_inputEntry {i k : Nat} (h : inputEntry i k) : 0x2300 ≤ i := by
  simp only [inputEntry, messageEntry] at h
  omega

theorem arrived_fencedDomain (s : State) (idx sub : Nat) (w : OdW) (d : Nat) :
    fencedDomain (arrived s idx sub w) d = fencedDomain s.ctl d := by
  have hunit : fencedUnit (arrived s idx sub w) = fencedUnit s.ctl := by
    funext u
    simp only [fencedUnit, arrived_faults]
  simp only [fencedDomain, hunit]

theorem arrived_refusedOff (s : State) (idx sub : Nat) (w : OdW) (d : Nat) :
    refusedOff s.part (arrived s idx sub w) d = refusedOff s.part s.ctl d := by
  unfold refusedOff effVal
  rw [arrived_eff, arrived_queues]

/-- An accepted write of PdEnable leaves the domains and the entries of power as `writePd` leaves them. -/
theorem pdWrite_of_accepted {s : State} {d : Nat} {w : OdW} {l : List Piece} {may : Nat → Nat → Prop} {g : Ctl}
    (hd : d < 48) (h : Accepted s 0x2110 (d + 1) w) (hw : w.val < 256) (hmay : ∀ i k, may i k → i < 0x2300)
    (hg : writePd s.part d w.val (arrived s 0x2110 (d + 1) w) = g)
    (hdoes : Does (.od :: l) may [] [] s.part (arrived s 0x2110 (d + 1) w) g) :
    ∃ t, rowWrite (decide (d < 48)) 0x2110 (d + 1) w true s = .next t ∧ t.ctl.power = g.power ∧
      (∀ i k, i < 0x2300 → k < 256 → odVal s.part t.ctl i k = odVal s.part g i k) ∧ TouchesInput l may [] [] s t := by
  have happly : applyOd s.view w.path 0x2110 (d + 1) (offered 0x2110 (d + 1) w) (arrived s 0x2110 (d + 1) w) = g := by
    rw [offered_pdEnable hd hw, applyOd_pdEnable]
    exact hg
  obtain ⟨t, ht, hframe, hod, htouch⟩ := rowWrite_of_accepted
    (fun fn k _ hm => absurd (hmay _ k hm) (by omega)) hdoes h (by decide) (by rw [odAccess_pdEnable hd]; decide) happly true
  rw [decide_eq_true hd]
  exact ⟨t, ht, hframe .power (by decide), fun i k hi hk => hod i k hk fun he => absurd (le_index_of_inputEntry he) (by omega),
    htouch⟩

section
variable {s : State} {path : Path} {d : Nat} (hd : d < 48)
include hd

theorem pdEnableOn_enables (h : Accepted s 0x2110 (d + 1) { path := path, val := 1, size := 1 })
    (hf : fencedDomain s.ctl d = false) :
    ∃ t, exec (.pdEnableOn path d) s = .next t ∧ odVal s.part t.ctl 0x2110 (d + 1) = 1 ∧
      (∀ l, lagoonOf d = some l → odVal s.part t.ctl 0x2110 (l + 1) = 1) ∧
      (s.ctl.boot.everService = true → pdOf s.ctl d = .off → (∀ l, lagoonOf d = some l → pdOf s.ctl l = .on) →
        pdOf t.ctl d = .poweringUp) ∧
      TouchesInput [.power] (enableEntry d) [] [] s t := by
  have hf' := (arrived_fencedDomain s 0x2110 (d + 1) { path := path, val := 1, size := 1 } d).trans hf
  obtain ⟨t, ht, hpower, hod, htouch⟩ := pdWrite_of_accepted (l := [.power]) hd h (by simp)
    (fun i k (hm : enableEntry d i k) => by have hi := hm.1; omega) rfl (enableDomain_does hd hf')
  refine ⟨t, ht, ?_, fun l hl => ?_, fun hs ho hlag => ?_, htouch⟩
  · exact (hod _ _ (by decide) (by omega)).trans (enableDomain_pdEnable hd hf')
  · obtain ⟨-, hl40, -⟩ := lagoonOf_some hl
    exact (hod _ _ (by decide) (by omega)).trans (enableDomain_pdEnable_lagoon hf' hl)
  · have hpd := pdOf_of_power (arrived_power s 0x2110 (d + 1) { path := path, val := 1, size := 1 })
    refine (pdOf_of_power hpower d).trans (enableDomain_powersUp hf' ?_ ((hpd d).trans ho) fun k hk => (hpd k).trans (hlag k hk))
    rw [arrived_boot, hs]

theorem pdEnableOff_disables (h : Accepted s 0x2110 (d + 1) { path := path, val := 0, size := 1 })
    (hr : refusedOff s.part s.ctl d = false) :
    ∃ t, exec (.pdEnableOff path d) s = .next t ∧ odVal s.part t.ctl 0x2110 (d + 1) = 0 ∧
      (s.ctl.boot.everService = true → pdOf s.ctl d = .on →
        pdOf t.ctl d = .on ∧ t.ctl.power.wantOff.contains d = true) ∧
      TouchesInput [.power] (disableEntry d) [] [] s t := by
  have hr' := (arrived_refusedOff s 0x2110 (d + 1) { path := path, val := 0, size := 1 } d).trans hr
  obtain ⟨t, ht, hpower, hod, htouch⟩ := pdWrite_of_accepted (l := [.power]) hd h (by simp)
    (fun i k (hm : disableEntry d i k) => by have hi := hm.1; omega) rfl (disableDomain_does hd hr')
  refine ⟨t, ht, ?_, fun hs ho => ?_, htouch⟩
  · exact (hod _ _ (by decide) (by omega)).trans (disableDomain_pdEnable hr')
  · rw [pdOf_of_power hpower, hpower]
    refine disableDomain_waits hr' ?_ ((pdOf_of_power (arrived_power ..) d).trans ho)
    rw [arrived_boot, hs]

theorem pdEnableOff_refused (h : Accepted s 0x2110 (d + 1) { path := path, val := 0, size := 1 })
    (hr : refusedOff s.part s.ctl d = true) :
    ∃ t, exec (.pdEnableOff path d) s = .next t ∧ odVal s.part t.ctl 0x2110 (d + 1) = 1 ∧
      odVal s.part t.ctl 0x2100 3 = satN 32 (odVal s.part s.ctl 0x2100 3 + 1) ∧
      TouchesInput [] (entries [(0x2110, d + 1), (0x2100, 3)]) [] [] s t := by
  have hr' := (arrived_refusedOff s 0x2110 (d + 1) { path := path, val := 0, size := 1 } d).trans hr
  obtain ⟨t, ht, -, hod, htouch⟩ := pdWrite_of_accepted (l := []) hd h (by simp)
    (fun i k (hm : (i, k) ∈ _) => by simp at hm; omega) rfl (disableDomain_refused_does hd hr')
  refine ⟨t, ht, ?_, ?_, htouch⟩
  · exact (hod _ _ (by decide) (by omega)).trans (disableDomain_refused_pdEnable hr')
  · rw [hod _ _ (by decide) (by decide), show writePd s.part d 0 _ = disableDomain s.part d _ from rfl,
      disableDomain_refused_counts hd hr', arrived_odVal _ _ _ _ (by decide) (by simp [inputEntry, messageEntry])]

end

/-- Settles O26, one lemma per request: an enable, a disable that is followed, and one that is refused. -/
theorem powerRequestsFollowTheRules : Obligations.PowerRequestsFollowTheRules := by
  intro s path d hd
  exact ⟨pdEnableOn_enables hd, pdEnableOff_disables hd, pdEnableOff_refused hd⟩

end Sys2Proof.Machine
end
